-- ==== Sys2Proof/Word.lean ====
section
/-! DEFINITION. The words of the Biltur Y4 (00 R6, 01 R13, 03 R64): plain bit vectors. -/

namespace Sys2Proof

/-- One byte of memory. -/
abbrev Byte := BitVec 8
/-- A 32-bit register or instruction word. -/
abbrev Word := BitVec 32
/-- A 64-bit register pair or address. -/
abbrev DWord := BitVec 64
/-- A mask over the 32 lanes of a spindle, or over 32 threads. -/
abbrev LaneMask := BitVec 32

/-- A sparse file of w-bit cells: the cells that are not zero, by rising key. -/
abbrev Cells (w : Nat) := List (Nat × BitVec w)

end Sys2Proof
end

