-- ==== Sys2Proof/Syntax.lean ====
section
/-! DEFINITION. The instructions and events of the Biltur Y4: one constructor of `Instr` per row of
spec/opcode_table.json. The 141 word rows carry the fields of their encodings (03 R64-R66 and the
instruction chapters); the two rows of R83 carry the words that are not instructions; the remaining
rows are the device's own steps and the inputs of the host, the driver and the links, with the data
each brings. -/

namespace Sys2Proof

/-- A 7-bit register field (03 R66). The kind of register it names is the entry's. -/
abbrev Reg := BitVec 7

/-- Bits [31:28] of a word (03 R64): the chain bit and the guard (7: always). -/
structure Pfx where
  c : Bool
  g : BitVec 3
  deriving DecidableEq, Repr

/-- Bits [13:0] of word 1 of the engine commands and of `LAUNCH` (08 R184), less the reserved [3:0]. -/
structure CmdTail where
  acq : Bool
  rel : Bool
  scope : BitVec 3
  bar : BitVec 4
  ben : Bool
  deriving DecidableEq, Repr

/-- A link of the module: a UCIe die pair, counted as 22 R459 counts the pairs, or a Lamvo port. -/
inductive LinkId where
  | ucie (pair : Nat)
  | lamvo (port : Nat)
  deriving DecidableEq, Repr

/-- A party that a fan-out or a command can wait on (19 R419). -/
inductive Party where
  | die (d : Nat)
  | host
  | device (n : Nat)
  deriving DecidableEq, Repr

/-- Where an uncorrectable error sets its marks (21 R430). `sectors` has bit s for sector s of the line. An error that ECC corrects strikes the item of the
lifetime records that counts it, and marks nothing (22 R459). -/
inductive PoisonPlace where
  | hbm (pa : Nat) (sectors : BitVec 4)
  | l1 (core easid line : Nat) (sectors : BitVec 4)
  | l2 (easid line : Nat) (sectors : BitVec 4)
  | buffer (easid line : Nat) (sectors : BitVec 4)
  | regLine (sp reg : Nat) (sectors : BitVec 4)
  | uniLine (sp line : Nat) (sectors : BitVec 4)
  | scratch (team rank line : Nat) (sectors : BitVec 4)
  | face (team rank line : Nat) (sectors : BitVec 4)
  | hostData (easid line : Nat) (sectors : BitVec 4)
  | engine (id : Nat)
  | corrected (life : Nat)
  deriving DecidableEq, Repr

/-- A row that another device sends: its size in bytes, and the tag under which the acknowledgement goes back (08 R206). -/
structure RowHead where
  size : Nat
  tag : Nat
  deriving DecidableEq, Repr

/-- What the owner of a list position answers: the row, with the memory sectors that it meets, from its first on, that are marked on an error-tolerant
page, or the cause for which its page table refuses it (08 R204, R206; 21 R433). -/
inductive RowAnswer where
  | row (data tolerant : Nat)
  | refused (cause : BitVec 8)
  deriving DecidableEq, Repr

/-- A firmware image as the boot ROM reads it (22 R460). -/
structure FirmwareImage where
  key : Nat
  body : Nat
  signature : Nat
  version : Nat
  minver : Nat
  ms : Nat
  deriving DecidableEq, Repr

/-- The register blocks of the Adeol module controller (18 R409, 19 R421, 21 R444, 22 R458). -/
inductive AdeolBlock where
  | translation
  | fabric
  | error
  | service
  deriving DecidableEq, Repr

/-- One step of the machine: an instruction word with its fields, a word that is no instruction, or an event. -/
inductive Instr where
  /-- R73. A header word opens a clause; the fragment stops there until every flag named in WAIT reads clear, and FA and FB name the flags charged by the clause's flag-A and flag-B operations. -/
  | clauseHeader (wait : BitVec 12) (fa fb : BitVec 4) (yh : Bool)
  -- Integer, bit, predicate and transfer instructions (05)
  /-- R107. Copies vA into vD in each executing lane. -/
  | mov (p : Pfx) (d : Reg) (a : Reg)
  /-- R107. Writes the sign-extended 14-bit immediate into vD. -/
  | movi (p : Pfx) (d : Reg) (imm : BitVec 14)
  /-- R107. Writes a 32-bit immediate into vD, or its sign extension into dD under .64. -/
  | movl (p : Pfx) (d : Reg) (w64 : Bool) (imm : BitVec 32)
  /-- R108. Writes the 32-bit wrapping sum of vA and vB into vD. -/
  | iadd (p : Pfx) (d : Reg) (a : Reg) (b : Reg)
  /-- R108. Writes the 32-bit wrapping difference vA minus vB into vD. -/
  | isub (p : Pfx) (d : Reg) (a : Reg) (b : Reg)
  /-- R109. Adds the sign-extended 7-bit immediate to vA, wrapping at 32 bits. -/
  | iaddi (p : Pfx) (d : Reg) (a : Reg) (imm : BitVec 7)
  /-- R108. Writes the 64-bit wrapping sum of dA and dB into dD. -/
  | iadd64 (p : Pfx) (d : Reg) (a : Reg) (b : Reg)
  /-- R108. Writes the low 32 bits of the product of vA and vB. -/
  | imul (p : Pfx) (d : Reg) (a : Reg) (b : Reg)
  /-- R108. Writes the high 32 bits of the signed product of vA and vB. -/
  | imulh (p : Pfx) (d : Reg) (a : Reg) (b : Reg)
  /-- R108. Writes the high 32 bits of the unsigned product of vA and vB. -/
  | imulhu (p : Pfx) (d : Reg) (a : Reg) (b : Reg)
  /-- R110. Forms the exact product of vA and vB plus the third source, then wraps or saturates it at 32 or 64 bits. -/
  | imad (p : Pfx) (d : Reg) (a : Reg) (b : Reg) (cr : Reg) (u : Bool) (sat : Bool) (w64 : Bool)
  /-- R108. Writes the signed lesser of vA and vB. -/
  | imin (p : Pfx) (d : Reg) (a : Reg) (b : Reg)
  /-- R108. Writes the signed greater of vA and vB. -/
  | imax (p : Pfx) (d : Reg) (a : Reg) (b : Reg)
  /-- R108. Writes the unsigned lesser of vA and vB. -/
  | umin (p : Pfx) (d : Reg) (a : Reg) (b : Reg)
  /-- R108. Writes the unsigned greater of vA and vB. -/
  | umax (p : Pfx) (d : Reg) (a : Reg) (b : Reg)
  /-- R108. Writes the bitwise AND of vA and vB. -/
  | and (p : Pfx) (d : Reg) (a : Reg) (b : Reg)
  /-- R108. Writes the bitwise OR of vA and vB. -/
  | or (p : Pfx) (d : Reg) (a : Reg) (b : Reg)
  /-- R108. Writes the bitwise XOR of vA and vB. -/
  | xor (p : Pfx) (d : Reg) (a : Reg) (b : Reg)
  /-- R108. Writes vA AND NOT vB. -/
  | andn (p : Pfx) (d : Reg) (a : Reg) (b : Reg)
  /-- R108. Shifts vA left by the register count, giving 0 for counts of 32 or more. -/
  | shl (p : Pfx) (d : Reg) (a : Reg) (b : Reg)
  /-- R108. Shifts vA right logically by the register count. -/
  | shr (p : Pfx) (d : Reg) (a : Reg) (b : Reg)
  /-- R108. Shifts vA right arithmetically by the register count, capped at 31. -/
  | sar (p : Pfx) (d : Reg) (a : Reg) (b : Reg)
  /-- R109. Shifts vA left by an immediate count. -/
  | shli (p : Pfx) (d : Reg) (a : Reg) (n : BitVec 5)
  /-- R109. Shifts vA right logically by an immediate count. -/
  | shri (p : Pfx) (d : Reg) (a : Reg) (n : BitVec 5)
  /-- R109. Shifts vA right arithmetically by an immediate count. -/
  | sari (p : Pfx) (d : Reg) (a : Reg) (n : BitVec 5)
  /-- R109. Rotates vA left by an immediate count. -/
  | roti (p : Pfx) (d : Reg) (a : Reg) (n : BitVec 5)
  /-- R112. Extracts a bit field from vA, sign-extended or zero-extended. -/
  | bfe (p : Pfx) (d : Reg) (a : Reg) (u : Bool) (len : BitVec 6) (pos : BitVec 5)
  /-- R112. Inserts the low bits of vB into a field of vA. -/
  | bfi (p : Pfx) (d : Reg) (a : Reg) (b : Reg) (len : BitVec 6) (pos : BitVec 5)
  /-- R111. Writes the number of one bits in vA. -/
  | popc (p : Pfx) (d : Reg) (a : Reg)
  /-- R111. Writes the number of leading zero bits of vA. -/
  | clz (p : Pfx) (d : Reg) (a : Reg)
  /-- R111. Writes the number of trailing zero bits of vA. -/
  | ctz (p : Pfx) (d : Reg) (a : Reg)
  /-- R111. Writes vA with its bit order reversed. -/
  | brev (p : Pfx) (d : Reg) (a : Reg)
  /-- R113. Compares two integers, combines the result with a predicate, and writes a predicate together with its complement. -/
  | icmp (p : Pfx) (d : Reg) (a : Reg) (b : Reg) (cmp : BitVec 4) (w64 : Bool) (imm : Bool) (q : BitVec 3) (bop : BitVec 2) (e : BitVec 3)
  /-- R115. Selects A or B per lane by a predicate. -/
  | sel (p : Pfx) (d : Reg) (a : Reg) (b : Reg) (q : BitVec 3) (w64 : Bool)
  /-- R114. Computes a three-input predicate function from a truth table and writes it together with its complement. -/
  | pbool (p : Pfx) (d : Reg) (a : Reg) (b : Reg) (cp : BitVec 3) (e : BitVec 3) (lut : BitVec 8)
  /-- R116. Forms a 64-bit address from a base, a scaled index and an offset. -/
  | lea (p : Pfx) (d : Reg) (a : Reg) (b : Reg) (sh : BitVec 3) (u : Bool) (off : BitVec 24)
  /-- R117. Copies an s register into vD of every executing lane. -/
  | s2v (p : Pfx) (d : Reg) (a : Reg)
  /-- R117. Copies vA of the lowest executing lane into an s register. -/
  | v2s (p : Pfx) (d : Reg) (a : Reg)
  /-- R117. Copies one sd pair into another once. -/
  | smovl (p : Pfx) (d : Reg) (a : Reg)
  /-- R117. Copies an sd pair into dD of every executing lane. -/
  | s2v64 (p : Pfx) (d : Reg) (a : Reg)
  /-- R117. Copies dA of the lowest executing lane into an sd pair. -/
  | v2s64 (p : Pfx) (d : Reg) (a : Reg)
  -- Floating-point, conversion, MX and division instructions (06)
  /-- R131. Writes the FP32 sum of vA and vB rounded under RNE. -/
  | fadd (p : Pfx) (d : Reg) (a : Reg) (b : Reg)
  /-- R131. Writes the FP32 difference of vA and vB rounded under RNE. -/
  | fsub (p : Pfx) (d : Reg) (a : Reg) (b : Reg)
  /-- R131. Writes the FP32 product of vA and vB rounded under RNE. -/
  | fmul (p : Pfx) (d : Reg) (a : Reg) (b : Reg)
  /-- R133. Writes an FP32 fused multiply-add, rounded once under RM. -/
  | ffma (p : Pfx) (d : Reg) (a : Reg) (b : Reg) (cr : Reg) (rm : BitVec 3)
  /-- R132. Writes the FP32 lesser of two values, with the NaN rules of the entry. -/
  | fmin (p : Pfx) (d : Reg) (a : Reg) (b : Reg)
  /-- R132. Writes the FP32 greater of two values, with the NaN rules of the entry. -/
  | fmax (p : Pfx) (d : Reg) (a : Reg) (b : Reg)
  /-- R136. Compares two floating-point values and writes a predicate together with its complement. -/
  | fcmp (p : Pfx) (d : Reg) (a : Reg) (b : Reg) (cmp : BitVec 4) (fmt : BitVec 2) (q : BitVec 3) (bop : BitVec 2) (e : BitVec 3)
  /-- R134. Performs ADD, SUB, MUL, FMA, MIN or MAX in any wide format under any rounding mode. -/
  | fopx (p : Pfx) (d : Reg) (a : Reg) (b : Reg) (cr : Reg) (opn : BitVec 3) (fmt : BitVec 2) (rm : BitVec 3)
  /-- R137. Converts between the wide floating-point formats. -/
  | fcvt (p : Pfx) (d : Reg) (a : Reg) (sfmt : BitVec 4) (dfmt : BitVec 4) (rm : BitVec 3)
  /-- R138. Converts an integer to a floating-point format. -/
  | i2f (p : Pfx) (d : Reg) (a : Reg) (fmt : BitVec 4) (u : Bool) (w64 : Bool) (rm : BitVec 3)
  /-- R138. Converts a floating-point value to an integer, saturating. -/
  | f2i (p : Pfx) (d : Reg) (a : Reg) (fmt : BitVec 4) (u : Bool) (w64 : Bool) (rm : BitVec 3)
  /-- R139. Clears the sign of a floating-point value. -/
  | fabs (p : Pfx) (d : Reg) (a : Reg) (fmt : BitVec 2)
  /-- R139. Inverts the sign of a floating-point value. -/
  | fneg (p : Pfx) (d : Reg) (a : Reg) (fmt : BitVec 2)
  /-- R139. Writes a one-hot class mask of a floating-point value. -/
  | fclass (p : Pfx) (d : Reg) (a : Reg) (fmt : BitVec 2)
  /-- R139. Rounds a floating-point value to an integral value under RM. -/
  | rint (p : Pfx) (d : Reg) (a : Reg) (rm : BitVec 3) (fmt : BitVec 2)
  /-- R135. Performs two fused multiply-adds on packed FP16 or BF16 halves. -/
  | hfma2 (p : Pfx) (d : Reg) (a : Reg) (b : Reg) (cr : Reg) (rm : BitVec 3) (bf : Bool)
  /-- R140. Quantises the FP32 values of the executing lanes into one MX block, writing the element codes and the selector and scale. -/
  | mxq (p : Pfx) (d : Reg) (a : Reg) (b : Reg) (sel : BitVec 8) (rm : BitVec 3)
  /-- R142. Dequantises MX element codes into wide values using a selector and scale. -/
  | mxdq (p : Pfx) (d : Reg) (a : Reg) (b : Reg) (fmtc : BitVec 4) (dfmt : BitVec 2) (rm : BitVec 3)
  /-- R144. Divides on the S pipe, rounded once; completes under flag A. -/
  | fdiv (p : Pfx) (d : Reg) (a : Reg) (b : Reg) (fmt : BitVec 2) (rm : BitVec 3)
  /-- R144. Computes a correctly rounded square root on the S pipe. -/
  | fsqrt (p : Pfx) (d : Reg) (a : Reg) (fmt : BitVec 2) (rm : BitVec 3)
  /-- R144. Computes a correctly rounded reciprocal square root on the S pipe. -/
  | frsq (p : Pfx) (d : Reg) (a : Reg) (fmt : BitVec 2) (rm : BitVec 3)
  /-- R145. Computes a correctly rounded FP32 base-2 exponential. -/
  | fex2 (p : Pfx) (d : Reg) (a : Reg)
  /-- R145. Computes a correctly rounded FP32 base-2 logarithm. -/
  | flg2 (p : Pfx) (d : Reg) (a : Reg)
  /-- R146. Divides integers on the S pipe, writing the quotient and optionally the remainder. -/
  | idiv (p : Pfx) (d : Reg) (a : Reg) (b : Reg) (e : Reg) (hase : Bool) (u : Bool) (w64 : Bool)
  -- Memory, atomic, synchronisation instructions (07)
  /-- R153. Loads from global memory per lane after the core checks, under a lease class. -/
  | ld (p : Pfx) (d : Reg) (a : Reg) (sz : BitVec 3) (sx : Bool) (atm : Bool) (lc : BitVec 3) (off : BitVec 24)
  /-- R153. Stores to global memory per lane after the core checks. -/
  | st (p : Pfx) (a : Reg) (b : Reg) (sz : BitVec 3) (atm : Bool) (off : BitVec 24)
  /-- R158. Loads from a scratchpad address per lane. -/
  | lds (p : Pfx) (d : Reg) (a : Reg) (sz : BitVec 3) (sx : Bool)
  /-- R158. Stores to a scratchpad address per lane. -/
  | sts (p : Pfx) (sz : BitVec 3) (a : Reg) (b : Reg)
  /-- R161. Performs an atomic read-modify-write per lane, returning the old value, with optional release and acquire. -/
  | atom (p : Pfx) (d : Reg) (a : Reg) (b : Reg) (aop : BitVec 5) (w64 : Bool) (ord : BitVec 2) (scope : BitVec 3) (cr : Reg) (off : BitVec 14)
  /-- R163. Performs a single-copy atomic 16-byte compare-and-swap and writes a success predicate. -/
  | cas128 (p : Pfx) (d : Reg) (a : Reg) (b : Reg) (cr : Reg) (sp : BitVec 3) (ord : BitVec 2) (scope : BitVec 3) (off : BitVec 14)
  /-- R161. Performs an atomic reduction without a return value. -/
  | red (p : Pfx) (a : Reg) (b : Reg) (aop : BitVec 5) (w64 : Bool) (ord : BitVec 2) (scope : BitVec 3) (off : BitVec 14)
  /-- R169. Reads a word at its home and either finishes or holds the lane, watched by a monitor, until the compare is satisfied. -/
  | waitc (p : Pfx) (d : Reg) (a : Reg) (b : Reg) (cmp : BitVec 4) (w64 : Bool) (acq : Bool) (scope : BitVec 3) (off : BitVec 14)
  /-- R167. Writes back or invalidates the core's L1 at a scope to order the spindle's accesses. -/
  | fence (p : Pfx) (kind : BitVec 2) (scope : BitVec 3)
  /-- R166. Reads a synchronisation object at its home and invalidates the core's L1 copies of the regions bound to it. -/
  | acq (p : Pfx) (d : Reg) (a : Reg) (scope : BitVec 3) (off : BitVec 14)
  /-- R165. Writes back the bound regions' dirty lines, then writes the object as the release write. -/
  | rel (p : Pfx) (a : Reg) (b : Reg) (scope : BitVec 3) (off : BitVec 14)
  /-- R164. Binds a region to a synchronisation object in the binding table and returns the entry index. -/
  | bind (p : Pfx) (d : Reg) (a : Reg) (b : Reg) (lr : Reg)
  /-- R164. Invalidates a binding table entry. -/
  | unbind (p : Pfx) (a : Reg)
  /-- R172. Writes back dirty lines of a range in the core's L1 and invalidates them. -/
  | cinv (p : Pfx) (a : Reg) (b : Reg)
  /-- R172. Writes back the dirty L1 lines of a range to their homes. -/
  | cwb (p : Pfx) (a : Reg) (b : Reg)
  /-- R173. Discards every copy and the dirty data of the lines wholly inside a range and counts the discarded lines. -/
  | cdis (p : Pfx) (d : Reg) (a : Reg) (b : Reg)
  /-- R174. Recalls ownership of the pages' lines, marks the pages sealed and removes W on every core. -/
  | seal (p : Pfx) (a : Reg) (b : Reg)
  /-- R174. Invalidates the sealed copies and restores W once the outstanding sealed copies are gone. -/
  | unseal (p : Pfx) (a : Reg) (b : Reg)
  /-- R175. Prefetches a line toward the core's L1, optionally with ownership. -/
  | pref (p : Pfx) (a : Reg) (lc : BitVec 3) (x : Bool)
  /-- R176. Exchanges vA values between lanes by a per-lane source index. -/
  | shfl (p : Pfx) (d : Reg) (a : Reg) (b : Reg)
  /-- R177. Writes true when the predicate holds in every executing lane. -/
  | pollAll (p : Pfx) (d : Reg) (a : Reg)
  /-- R177. Writes true when the predicate holds in any executing lane. -/
  | pollAny (p : Pfx) (d : Reg) (a : Reg)
  /-- R177. Writes true when the predicate is uniform across the executing lanes. -/
  | pollSame (p : Pfx) (d : Reg) (a : Reg)
  /-- R177. Writes the lane mask of the predicate into vD. -/
  | pollMask (p : Pfx) (d : Reg) (a : Reg)
  -- Control, barriers, system (05, 07, 11)
  /-- R119. Branches each executing lane to a packet offset after the target check. -/
  | bra (p : Pfx) (off : BitVec 21)
  /-- R119. Branches each executing lane to the address in dA after the target check. -/
  | brx (p : Pfx) (a : Reg)
  /-- R120. Branches to a packet offset and writes the return address into d14. -/
  | call (p : Pfx) (off : BitVec 21)
  /-- R120. Branches to the address in dA and writes the return address into dD. -/
  | callx (p : Pfx) (d : Reg) (a : Reg)
  /-- R120. Returns to the address in dA, as BRX does. -/
  | ret (p : Pfx) (a : Reg)
  /-- R122. Ends the executing threads: discards plain transactions or commits ordered ones, and updates the live mask and the reconvergence barriers. -/
  | exit (p : Pfx)
  /-- R124. Sets the participants and PARKOK of a reconvergence barrier. -/
  | rcvb (p : Pfx) (d : Reg) (parkok : Bool)
  /-- R124. Arrives and holds lanes at a reconvergence barrier until every participant has arrived, exited or parked under PARKOK. -/
  | rcvw (p : Pfx) (d : Reg)
  /-- R178. Holds lanes at the team barrier until every dispatched, unexited spindle has arrived, then releases them with an acquire. -/
  | tbar (p : Pfx)
  /-- R179. Initialises a named barrier's expected count and clears its arrivals and byte total. -/
  | nbarInit (p : Pfx) (d : Reg) (a : Reg)
  /-- R179. Arrives at a named barrier and returns the phase token; completion toggles the phase. -/
  | nbarArrive (p : Pfx) (d : Reg) (a : Reg)
  /-- R179. Holds lanes until the named barrier's phase changes. -/
  | nbarWait (p : Pfx) (d : Reg) (a : Reg)
  /-- R179. Arrives at a named barrier and holds lanes until its phase changes. -/
  | nbarArriveWait (p : Pfx) (d : Reg) (a : Reg)
  /-- R181. Holds lanes at a group barrier until every unexited member has arrived. -/
  | gbar (p : Pfx) (n : BitVec 8)
  /-- R79. Does nothing, uses no pipe and may stand anywhere in a chain. -/
  | nop (p : Pfx)
  /-- R126. Makes the spindle the youngest in its quadrant's age matrix. -/
  | yield (p : Pfx)
  /-- R126. Makes the executing lanes not ready for n cycles. -/
  | sleep (p : Pfx) (n : BitVec 14)
  /-- R275. Raises SOFTWARE in the executing lanes and records n in TCODE. -/
  | trap (p : Pfx) (n : BitVec 7)
  /-- R274. Ends the trap handler: writes back its image, refetches the trapped image, and unparks and resumes the lanes of LMASK. -/
  | eret (p : Pfx)
  -- Engine commands (08, 09, 10)
  /-- R200. Matrix-multiply command, solo or ganged through a rendezvous latch, that accumulates A times B into C in the faceplate. -/
  | mma (p : Pfx) (d : Reg) (a : Reg) (b : Reg) (fmt : BitVec 4) (amode : Bool) (zc : Bool) (tr : BitVec 6) (t : CmdTail)
  /-- R201. Copy-engine command that loads a tile window from global memory into a faceplate region. -/
  | tld (p : Pfx) (d : Reg) (a : Reg) (t : CmdTail)
  /-- R201. Copy-engine command that stores a faceplate region's in-range elements to a tile window. -/
  | tst (p : Pfx) (d : Reg) (a : Reg) (t : CmdTail)
  /-- R203. Copy-engine command that moves elements between global, scratchpad and faceplate endpoints. -/
  | cpy (p : Pfx) (d : Reg) (a : Reg) (b : Reg) (dk : BitVec 2) (sk : BitVec 2) (esz : BitVec 3) (t : CmdTail)
  /-- R206. Fabric gather command that fetches indexed rows from their owners into list order. -/
  | gathf (p : Pfx) (d : Reg) (a : Reg) (b : Reg) (lk : Bool) (t : CmdTail)
  /-- R206. Fabric scatter command that stores or reduces rows at their owners. -/
  | scatf (p : Pfx) (d : Reg) (a : Reg) (b : Reg) (lk : Bool) (rop : BitVec 3) (t : CmdTail)
  /-- R217. Matrix-array command that computes an LU factorisation with partial pivoting of one tile or a batch. -/
  | flu (p : Pfx) (d : Reg) (a : Reg) (b : Reg) (fmt : BitVec 4) (nm1 : BitVec 7) (batch : Bool) (trap : Bool) (pms : Bool) (t : CmdTail)
  /-- R218. Matrix-array command that computes a Cholesky factorisation of one tile or a batch. -/
  | fchol (p : Pfx) (d : Reg) (a : Reg) (b : Reg) (fmt : BitVec 4) (nm1 : BitVec 7) (batch : Bool) (trap : Bool) (t : CmdTail)
  /-- R219. Matrix-array command that computes a Householder QR factorisation. -/
  | fqr (p : Pfx) (d : Reg) (a : Reg) (b : Reg) (fmt : BitVec 4) (nm1 : BitVec 7) (batch : Bool) (t : CmdTail)
  /-- R220. Matrix-array command that solves triangular systems in place. -/
  | ftrs (p : Pfx) (d : Reg) (a : Reg) (fmt : BitVec 4) (nm1 : BitVec 7) (batch : Bool) (pms : Bool) (perm : Bool) (trn : Bool) (unit : Bool) (up : Bool) (t : CmdTail)
  /-- R221. Matrix-array command that applies a rank-1 update or downdate to a Cholesky factor. -/
  | fupd (p : Pfx) (d : Reg) (a : Reg) (b : Reg) (fmt : BitVec 4) (nm1 : BitVec 7) (trap : Bool) (down : Bool) (t : CmdTail)
  /-- R238. Allocates a cursor at issue and queues a command that positions it at the list's first posting. -/
  | sopen (p : Pfx) (d : Reg) (a : Reg) (lc : BitVec 3) (sp : BitVec 3)
  /-- R239. Clears VALID at issue and frees the cursor once its earlier commands complete. -/
  | sclose (p : Pfx) (a : Reg)
  /-- R240. Advances a cursor one posting and returns the posting value. -/
  | sadv (p : Pfx) (d : Reg) (a : Reg)
  /-- R240. Moves a cursor forward to the first document at or above a target and returns the posting. -/
  | sseek (p : Pfx) (d : Reg) (a : Reg) (x : BitVec 6)
  /-- R241. Writes whether a cursor is at END or FAILED into a predicate. -/
  | stend (p : Pfx) (d : Reg) (a : Reg)
  /-- R245. Joins cursors under AND or OR with threshold skipping and writes a lexical stream. -/
  | sjoin (p : Pfx) (d : Reg) (a : Reg) (kmask : BitVec 8) (mode : Bool) (t : CmdTail)
  /-- R247. Merges a lexical stream and a dense stream into a fused stream scored as alpha times L plus beta times D. -/
  | sfuse (p : Pfx) (d : Reg) (a : Reg) (b : Reg) (al : BitVec 6) (be : BitVec 6) (t : CmdTail)
  /-- R249. Feeds a stream into a top-K heap and optionally sorts it. -/
  | stopk (p : Pfx) (d : Reg) (a : Reg) (kind : Bool) (final : Bool) (t : CmdTail)
  -- Spawn, transaction, register and system instructions (11)
  /-- R252. Command that places one new thread per executing lane in a spawn bin or the spawn arena. -/
  | spawn (p : Pfx) (a : Reg) (eoff : BitVec 21)
  /-- R252. Spawns ordered speculative threads with sequence numbers against a domain word. -/
  | spawno (p : Pfx) (d : Reg) (a : Reg) (b : Reg) (eoff : BitVec 21)
  /-- R256. Begins a transaction per lane, taking a register checkpoint and clearing the logs. -/
  | txb (p : Pfx) (mode : Bool) (foff : BitVec 21)
  /-- R259. Holds transactional lanes until the spindle's commit. -/
  | txe (p : Pfx)
  /-- R261. Aborts the lane's open transaction with EXPLICIT and records a code. -/
  | txa (p : Pfx) (n : BitVec 7)
  /-- R262. Writes the lane's transaction status into vD. -/
  | txs (p : Pfx) (d : Reg)
  /-- R263. Holds lanes until the arena has free chunks, then adds zeroed vector registers and sets pD. -/
  | reggrow (p : Pfx) (d : Reg) (n : BitVec 7)
  /-- R263. Waits for the flags to clear, then returns the highest vector chunks and lowers VCOUNT. -/
  | regshrink (p : Pfx) (n : BitVec 7)
  /-- R265. Reads a system register into a v, d, s or sd register. -/
  | mfs (p : Pfx) (d : Reg) (uni : Bool) (w64 : Bool) (num : BitVec 8)
  /-- R265. Writes a system register, with each register's side effects such as reseeding and resetting the deadline account. -/
  | mts (p : Pfx) (d : Reg) (uni : Bool) (w64 : Bool) (num : BitVec 8)
  /-- R266. Reads device time into an sd pair, optionally after every earlier instruction has completed. -/
  | clkTime (p : Pfx) (d : Reg) (w : Bool)
  /-- R266. Reads the core's cycle counter into an sd pair, optionally after every earlier instruction has completed. -/
  | clkCycle (p : Pfx) (d : Reg) (w : Bool)
  /-- R267. Command that has the distributor read and check a launch record and queue the launch, returning its number. -/
  | launch (p : Pfx) (d : Reg) (a : Reg) (t : CmdTail)
  -- Words that are not instructions (03 R83)
  /-- R83. A word with a reserved major raises ILLEGAL_OPCODE in the executing lanes. -/
  | reservedMajor (p : Pfx) (op : BitVec 7) (rest : BitVec 21)
  /-- R83. The all-zero word raises ZERO_WORD in every lane of the fragment. -/
  | zeroWord
  -- Events: the steps of the table that no word encodes
  /-- R74. A fragment stopped at a header becomes able to issue once every WAIT flag reads clear. -/
  | clauseWaitRelease (sp : Nat)
  /-- R75. A flag-A operation completes: its results are written and its flag count falls. -/
  | operationCompletion (id : Nat)
  /-- R463. The words of a chain are fetched before it issues; an absent page parks the lanes and a fetch that cannot succeed raises its cause. -/
  | instructionFetch (sp lane : Nat)
  /-- R389. A memory agent's walk returns a leaf without its frame, or no rights, to the core's rights cache, and the waiting access proceeds or faults. -/
  | rightsMissReturn (core easid va : Nat)
  /-- R288. A vector line fetched for a gathering chain arrives in the register cache, evicting a victim under R290. -/
  | registerLineFetch (sp reg : Nat)
  /-- R269. Once no lane outside the mask can issue, the device writes the frame and starts the handler, or kills the team. -/
  | trapDelivery (sp : Nat)
  /-- R190. An accepted engine command starts once every conflicting earlier command has completed, and performs its reads and writes. -/
  | commandStart (id steps : Nat)
  /-- R188. A command finishes its last write and any release, arrives at its barrier and lowers its flag-B count. -/
  | commandCompletion (id : Nat)
  /-- R123. A spindle whose live mask is empty waits for its flags, closes cursors, writes back its image and frees its slot. -/
  | spindleEnd (sp : Nat)
  /-- R171. A spindle whose live lanes all wait at WAITC with clear flags writes back its image and gives up its slot. -/
  | spindleDormant (sp : Nat)
  /-- R170. A write to a watched line satisfies a waiting lane's compare, and the lane is released with the satisfying value. -/
  | monitorRelease (sp lane : Nat)
  /-- R170. Every 2,048 ns a home slice whose monitor table is full rechecks the watched lines. -/
  | monitorRecheck (die slice : Nat)
  /-- R171. A released dormant spindle takes a slot on its rank's core once one is free. -/
  | dormantReturn (sp : Nat)
  /-- R126. A sleeping lane's cycle count expires and the lane becomes ready. -/
  | sleepExpiry (sp lane : Nat)
  /-- R260. A backing-off lane's delay expires and it reissues its TXB. -/
  | backoffExpiry (sp lane : Nat)
  /-- R329. When every transactional lane is held at TXE, the lane conflict unit resolves conflicts, then the slices lock, validate, apply and release. -/
  | txCommit (sp : Nat)
  /-- R340. A token message from the domain's home die reaches a die and grants the token to its thread with that sequence number. -/
  | commitTokenMessage (easid addr seq : Nat)
  /-- R340. After a request for NEXT has been outstanding 16,384 ns without a commit, the home die sends the token again. -/
  | tokenRegeneration (easid addr : Nat)
  /-- R253. A spawn bin's timer reaches SPAWNTIMER and the bin becomes ready to launch. -/
  | spawnBinTimer (core bin : Nat)
  /-- R254. A ready bin that has a slot, a spindle index and register chunks launches a spindle of up to 32 threads. -/
  | binLaunch (core bin : Nat)
  /-- R264. A blocked REGGROW is granted, in issue order, when the arena has free chunks. -/
  | reggrowGrant (sp : Nat)
  /-- R264. When every resident spindle of a quadrant is blocked in REGGROW, the oldest one's request fails with pD false. -/
  | reggrowFail (sp : Nat)
  /-- R306. An unowned L1 copy's lease ends and the copy stops serving reads. -/
  | leaseExpiry (core easid line : Nat)
  /-- R304. A home slice serves a read or ownership request, recalling owners, back-invalidating the host or allocating a pending fill. -/
  | homeOwnershipRequest (core easid line : Nat) (own : Bool)
  /-- R303. A dirty line's bytes merge into its home under the byte mask, with writer tags and poison marks. -/
  | homeWriteback (core easid line : Nat)
  /-- R414. A host snoop of a host-memory line arrives at its home, which recalls the owner and answers with merged bytes. -/
  | hostSnoop (pa : Nat) (inv : Bool)
  /-- R413. A host CXL.mem access to the window is applied at the mapping's home, or at memory. -/
  | hostMemAccess (off size : Nat) (write : Bool) (data : Nat) (poison : Bool)
  /-- R204. A remote row read arrives from another device and is served at its home under the issuer's ASID. -/
  | fabricGatherRequest (asid va size tag : Nat)
  /-- R206. Remote SCATF rows arrive and are stored or reduced at their homes, followed by an implicit .dev release. -/
  | fabricScatterWrite (asid va : Nat) (rop : BitVec 3) (head : RowHead) (data : Nat) (poison : BitVec 256)
  /-- R206. An owner's acknowledgement of served rows reaches the issuing fabric gather unit. -/
  | fabricAcknowledgement (id pos : Nat) (answer : RowAnswer) (poison : BitVec 256)
  /-- R416. A UCIe or Lamvo link retrains and its lifetime retrain count rises. -/
  | linkRetrain (link : LinkId)
  /-- R412. The host link goes down and is fenced. -/
  | hostLinkDown
  /-- R419. A fan-out or command waits ISOLTO.TIMEOUT on a party, which is fenced; its lost lines are poisoned and the operation completes without it. -/
  | isolationTimeout (party : Party)
  /-- R399. Translation command that invalidates rights and translation entries, with optional write-back, instruction-cache drop and flush. -/
  | tcqInval
  /-- R395. Translation command that serves a page: parked accesses reissue, pending fills fill and deferred stores replay. -/
  | tcqResume
  /-- R395. Translation command that fails a page: parked loads trap, written bytes are discarded with DEFERRED_STORE, and waiting engines fault. -/
  | tcqFail
  /-- R399. Translation command that moves a range to new frames and a new home under R406. -/
  | tcqMigrate
  /-- R399. Translation command that flushes every line and mapping of an EASID. -/
  | tcqRetire
  /-- R398. A translation command with an unknown OP completes with STATUS 2. -/
  | tcqBadOp
  /-- R405. At each interval's end the placement unit selects page moves and halves the access counters. -/
  | placementInterval
  /-- R360. Every 16 ns the distributor admits, places and dispatches teams by priority and checks the deadline. -/
  | distributorCycle
  /-- R368. A team is pre-empted in eight steps, after which its context lies wholly in memory. -/
  | teamSuspend (team : Nat)
  /-- R366. A team that has waited 20,000 ns without a place is sent to another die's distributor. -/
  | teamMigrationDie (team : Nat)
  /-- R366. A migrated queue entry arrives at another die's distributor and keeps its priority and order. -/
  | distributorMessage (team : Nat)
  /-- R359. A launch's dependence word reaches its VALUE and the launch leaves WAITING. -/
  | dependenceSatisfied (launch dep : Nat)
  /-- R373. After its last spindle ends and its bins are empty, a team writes back, frees its resources and becomes ENDED. -/
  | teamEnd (team : Nat)
  /-- R430. An uncorrectable error or poisoned host data marks sectors and writes an error record. -/
  | poisonMark (place : PoisonPlace)
  /-- R454. Every µs each partition's reserve is refilled and charged, and each context's ENERGYUSED grows. -/
  | energyTick (charges : List (Nat × Int)) (statics : List (Nat × Int))
  /-- R457. The device lowers or raises the arithmetic clock in 250 MHz steps to keep module power under POWERCAP. -/
  | powerThrottle (down : Bool)
  /-- R459. Once per minute each die's temperature and supply histogram bins are incremented. -/
  | lifetimeMinute (temps volts : List Nat)
  /-- R459. Every 600 s the lifetime counts are committed to non-volatile memory. -/
  | lifetimeCommit
  /-- R446. At each scan period the next core is withdrawn, its teams are suspended and its patterns are run. -/
  | scanStart
  /-- R448. After DURATION a scan ends: a pass returns the core and clears its record, and a failure fences the core. -/
  | scanEnd (pass : Bool)
  /-- R357. Adeol command that starts a partition by performing its root launch. -/
  | adeolPartitionStart (part asid record : Nat)
  /-- R380. Adeol command that sets a partition's pavilions and memory share. -/
  | adeolPartitionConfig (pnum : Nat) (pavs : List Nat) (share : Nat)
  /-- R376. Adeol command that kills a team. -/
  | adeolKill (team : Nat)
  /-- R452. Adeol command that halts a partition with reason 3. -/
  | adeolHalt (part : Nat)
  /-- R460. Signs a nonce and the measurement with the next XMSS state index after committing the index. -/
  | attest (nonce : BitVec 256)
  /-- R460. A new firmware image arrives over CXL.io in recovery and is checked by the boot ROM. -/
  | firmwareImage (image : FirmwareImage)
  /-- R461. RESETCTL command 1 or the fault path halts every partition and re-enters through the six phases with memory kept. -/
  | warmReentry (ms : Nat)
  /-- R461. RESETCTL command 2 or power-on resets and brings up the module under a full firmware check. -/
  | coldReset (ms : Nat)
  /-- R411. A write to ASTBASE sets or clears translation enable subject to its conditions. -/
  | astbaseWrite (v : BitVec 64)
  /-- R421. A write to HDM sets the CXL.mem window, or leaves it unchanged when out of range. -/
  | hdmWrite (v : BitVec 64)
  /-- R458. A write to POWERCAP takes effect only within its limits. -/
  | powercapWrite (v : BitVec 64)
  /-- R458. A write to a partition's refill rate is refused when it lifts the sum above POWERCAP. -/
  | erateWrite (part : Nat) (v : BitVec 64)
  /-- R458. A write to DUMPBASE is refused when its base lies outside HBM. -/
  | dumpbaseWrite (v : BitVec 64)
  /-- R458. Writing ones to HALTSTAT clears those halt bits. -/
  | haltstatClear (v : BitVec 64)
  /-- R410. A write to any other Adeol register, with nonzero reserved bits leaving it unchanged. -/
  | adeolRegisterWrite (block : AdeolBlock) (off : Nat) (v : BitVec 64)
  /-- R151. A holding instruction (FENCE, ACQ, REL, BIND, UNBIND, SEAL, UNSEAL, WAITC read) finishes its write-backs, home read or fan-out, and its held lanes continue. -/
  | holdingInstructionCompletion (sp lane : Nat)
  /-- R459. Module power is lost, discarding uncommitted lifetime counts and possibly spending an attestation index unused. -/
  | powerLoss
  /-- R421. A Lamvo port or UCIe link fails, clearing the port's UP bit so that routing under R417 no longer uses it. -/
  | linkFailure (link : LinkId)
  /-- R413. The host answers a back-invalidation or a CXL.cache read from a device home, possibly with dirty or poisoned data, and the waiting home proceeds. -/
  | cxlHostResponse (pa : Nat) (dirty : Bool) (data : BitVec 1024) (poison : BitVec 4)
  deriving DecidableEq, Repr

end Sys2Proof
end

