-- ==== Sys2Proof/Machine/Operands.lean ====
section
/-! DEFINITION. The operand forms: which registers each instruction names, of what kind and in what
role. One table serves the alignment and range checks of 01 R14 and 03 R66, the allocation check of
R14, the chain hazards of 03 R70 and the poison of register lines (12 R291). -/

namespace Sys2Proof.Machine

open Sys2Proof

/-- The register kinds of 01 R13 that a field can name. A `vs` operand is a run of v registers, an
`sn` operand a run of s registers. -/
inductive Kind where
  | v | d | q
  | vs (n : Nat) (even : Bool)
  | s | sd
  | sn (n : Nat) (align : Nat)
  | p | f | w | b | k | pm
  deriving DecidableEq, Repr

/-- One register operand: its kind, its number and whether the instruction reads or writes it. -/
structure Operand where
  kind : Kind
  num : Nat
  rd : Bool
  wr : Bool
  deriving DecidableEq, Repr

def rd (k : Kind) (n : Nat) : Operand := { kind := k, num := n, rd := true, wr := false }
def wr (k : Kind) (n : Nat) : Operand := { kind := k, num := n, rd := false, wr := true }
def rdwr (k : Kind) (n : Nat) : Operand := { kind := k, num := n, rd := true, wr := true }

def rV (r : Reg) : Operand := rd .v r.toNat
def wV (r : Reg) : Operand := wr .v r.toNat
def rD (r : Reg) : Operand := rd .d r.toNat
def wD (r : Reg) : Operand := wr .d r.toNat
def rQ (r : Reg) : Operand := rd .q r.toNat
def wQ (r : Reg) : Operand := wr .q r.toNat
def rS (r : Reg) : Operand := rd .s r.toNat
def wS (r : Reg) : Operand := wr .s r.toNat
def rSD (r : Reg) : Operand := rd .sd r.toNat
def wSD (r : Reg) : Operand := wr .sd r.toNat
def rwSD (r : Reg) : Operand := rdwr .sd r.toNat
def rP (r : Reg) : Operand := rd .p r.toNat
def wP (r : Reg) : Operand := wr .p r.toNat
def rW (r : Reg) : Operand := rd .w r.toNat
def wW (r : Reg) : Operand := wr .w r.toNat
def rB (r : Reg) : Operand := rd .b r.toNat
def wB (r : Reg) : Operand := wr .b r.toNat
def rK (r : Reg) : Operand := rd .k r.toNat
def wK (r : Reg) : Operand := wr .k r.toNat
def rwK (r : Reg) : Operand := rdwr .k r.toNat

/-- A v register, or a d register under `.64` (05 R105). -/
def vdKind (w64 : Bool) : Kind := if w64 then .d else .v
def rVD (w64 : Bool) (r : Reg) : Operand := rd (vdKind w64) r.toNat
def wVD (w64 : Bool) (r : Reg) : Operand := wr (vdKind w64) r.toNat
/-- The register kind of a floating-point operand (06 R127): d for FP64 (code 1), v otherwise. -/
def rF (fmt : BitVec 2) (r : Reg) : Operand := rd (vdKind (fmt == 1#2)) r.toNat
def wF (fmt : BitVec 2) (r : Reg) : Operand := wr (vdKind (fmt == 1#2)) r.toNat
/-- The register kind of an access size SZ (07 R153): v up to 32 bits, d for 64, q for 128. -/
def memKind (sz : BitVec 3) : Kind := if sz == 3#3 then .d else if sz == 4#3 then .q else .v
def rM (sz : BitVec 3) (r : Reg) : Operand := rd (memKind sz) r.toNat
def wM (sz : BitVec 3) (r : Reg) : Operand := wr (memKind sz) r.toNat
def rVs (n : Nat) (even : Bool) (r : Reg) : Operand := rd (.vs n even) r.toNat
/-- A tile reference (08 R185, R194): sX to sX+4, X at most 59. -/
def rTile (r : Reg) : Operand := rd (.sn 5 1) r.toNat
/-- A copy endpoint (08 R202): tile reference, layout word (R195) or region pair (R193). -/
def rEnd (kind : BitVec 2) (r : Reg) : Operand :=
  if kind == 0#2 then rTile r else if kind == 1#2 then rd (.sn 3 1) r.toNat else rSD r
/-- The local operand of a gather or scatter (08 R205): a layout word, or a region pair under `.FP`. -/
def rLoc (face : Bool) (r : Reg) : Operand := if face then rSD r else rd (.sn 3 1) r.toNat
/-- A stream operand, a heap or an index list (08 R205, 10 R242, R249): sN and sN+1. -/
def rS2 (r : Reg) : Operand := rd (.sn 2 1) r.toNat
/-- A dense stream (10 R243): sX to sX+2. -/
def rS3 (r : Reg) : Operand := rd (.sn 3 1) r.toNat
/-- The four result registers of a solo `FLU` (09 R209). -/
def wS4 (r : Reg) : Operand := wr (.sn 4 4) r.toNat
def rPM (i : Bool) : Operand := rd .pm i.toNat
def wPM (i : Bool) : Operand := wr .pm i.toNat
/-- The operand of `MFS` and `MTS` (11 R265). -/
def sysKind (uni w64 : Bool) : Kind := if uni then (if w64 then .sd else .s) else vdKind w64
def rSys (uni w64 : Bool) (r : Reg) : Operand := rd (sysKind uni w64) r.toNat
def wSys (uni w64 : Bool) (r : Reg) : Operand := wr (sysKind uni w64) r.toNat

/-- A 3-bit predicate field as a register field. -/
def p7 (q : BitVec 3) : Reg := q.setWidth 7
/-- The low two bits of a format code that is at most 3 (02 R48). -/
def lo2 (c : BitVec 4) : BitVec 2 := c.setWidth 2

/-- The barrier that a command's tail names (08 R184). -/
def tailOperands (t : CmdTail) : List Operand := if t.ben then [rd .b t.bar.toNat] else []
/-- SCOPE is read only with ACQ or REL (07 R149, 08 R184). -/
def tailOk (t : CmdTail) : Bool := (!t.acq && !t.rel) || t.scope.toNat ≤ 4

/-- The B registers per lane of an `MMA` (08 R197). -/
def mmaRegs (fmt : BitVec 4) : Nat :=
  match fmt.toNat with
  | 0 => 8 | 1 => 4 | 2 => 16 | 3 => 16 | 8 => 17 | 9 => 13 | 10 => 18 | _ => 0
/-- The format codes of 02 R48. -/
def fmtOk (fmt : BitVec 4) : Bool := fmt.toNat ≤ 3 || (8 ≤ fmt.toNat && fmt.toNat ≤ 10)
/-- The MX selectors of 02 R46. -/
def selOk (sel : BitVec 8) : Bool := [0x01, 0x02, 0x03, 0x11, 0x12, 0x21].contains sel.toNat
/-- A bit field of `BFE` and `BFI` (05 R112). -/
def fieldOk (pos : BitVec 5) (len : BitVec 6) : Bool := 1 ≤ len.toNat && len.toNat ≤ 32 && pos.toNat + len.toNat ≤ 32
/-- The two destinations of `ICMP`, `FCMP` and `PBOOL` differ unless both are pt (05 R113). -/
def predPairOk (d : Reg) (e : BitVec 3) : Bool := d != p7 e || d == 7#7
/-- FA and FB name a flag or none (03 R73). -/
def flagOk (f : BitVec 4) : Bool := f.toNat ≤ 11 || f == 15#4
/-- Formats and tail of a factorisation command (09 R207, R208). -/
def facOk (fmt : BitVec 4) (t : CmdTail) : Bool := fmt.toNat ≤ 1 && !t.acq && !t.rel
/-- The stream registers of KMASK (10 R244), in ascending number. -/
def kOperands (m : BitVec 8) : List Operand :=
  ((List.range 8).filter (fun i => m.getLsbD i)).map (fun i => rd .k i)
/-- The majors that are no instruction (03 R80, R83). -/
def reservedOp (op : BitVec 7) : Bool := [0x00, 0x2F, 0x36, 0x37, 0x49, 0x4A, 0x4B, 0x4C, 0x4D, 0x4E, 0x4F, 0x5E, 0x5F, 0x7B, 0x7C, 0x7D, 0x7E].contains op.toNat

/-- The scope of a system register (01 R24), as far as its operand class depends on it. -/
structure SysInfo where
  thread : Bool
  wide : Bool
  readOnly : Bool
  deriving DecidableEq, Repr

/-- The system register map of 01 R24: thread scope, 64-bit width, read-only in both modes. -/
def sysInfo (num : BitVec 8) : Option SysInfo :=
  match num.toNat with
  | 0x00 => some ⟨true, false, true⟩    -- TSTAT
  | 0x01 => some ⟨false, false, false⟩  -- FPMODE
  | 0x02 => some ⟨true, false, false⟩   -- FPFLAGS
  | 0x03 => some ⟨false, false, false⟩  -- SRSEED
  | 0x04 => some ⟨true, true, true⟩     -- IDENT
  | 0x08 => some ⟨false, true, false⟩   -- TRAPVEC
  | 0x09 => some ⟨false, true, false⟩   -- TFRAME
  | 0x0A => some ⟨true, false, false⟩   -- TCAUSE
  | 0x0C => some ⟨false, false, false⟩  -- TXCTL
  | 0x10 => some ⟨false, false, false⟩  -- SPAWNTIMER
  | 0x11 => some ⟨false, true, false⟩   -- REGARENA
  | 0x12 => some ⟨false, true, false⟩   -- TILETAB
  | 0x13 => some ⟨false, true, false⟩   -- BINDTAB
  | 0x14 => some ⟨false, true, false⟩   -- GROUPTAB
  | 0x15 => some ⟨false, true, false⟩   -- GANG
  | 0x16 => some ⟨false, true, false⟩   -- SPAWNARENA
  | 0x18 => some ⟨false, false, false⟩  -- BANKCONF
  | 0x19 => some ⟨false, false, false⟩  -- SUBSTCNT
  | 0x1A => some ⟨false, false, false⟩  -- METASKIP
  | 0x20 => some ⟨false, true, false⟩   -- LEASE_L1
  | 0x21 => some ⟨false, true, false⟩   -- LEASE_L2
  | 0x28 => some ⟨false, true, false⟩   -- DEADLINE
  | 0x29 => some ⟨false, true, true⟩    -- DEADLINE_USED
  | 0x2A => some ⟨false, true, true⟩    -- ENERGYRES
  | 0x2B => some ⟨false, true, true⟩    -- ENERGYUSED
  | 0x30 => some ⟨false, true, true⟩    -- TIME
  | 0x31 => some ⟨false, true, true⟩    -- CYCLE
  | 0x32 => some ⟨false, false, true⟩   -- ASID
  | 0x33 => some ⟨false, false, false⟩  -- PRIORITY
  | 0x34 => some ⟨false, true, true⟩    -- PARTITION
  | _ => none

/-- An assigned number whose operand class and width match the word's UNI and W64 (01 R23, 11 R265). -/
def sysOk (uni w64 : Bool) (num : BitVec 8) : Bool :=
  match sysInfo num with
  | some i => uni == !i.thread && w64 == i.wide
  | none => false
/-- Read-only in both modes (01 R23). -/
def sysReadOnly (num : BitVec 8) : Bool :=
  match sysInfo num with
  | some i => i.readOnly
  | none => false

/-- The guard p0 and no chain: the prefix of the all-zero word. -/
def zeroPfx : Pfx := { c := false, g := 0#3 }

/-- The registers an instruction names, with the kind and the role its entry gives them. -/
def operands : Instr → List Operand
  | .mov _ d a => [wV d, rV a]
  | .movi _ d _ => [wV d]
  | .movl _ d w64 _ => [wVD w64 d]
  | .iadd _ d a b => [wV d, rV a, rV b]
  | .isub _ d a b => [wV d, rV a, rV b]
  | .iaddi _ d a _ => [wV d, rV a]
  | .iadd64 _ d a b => [wD d, rD a, rD b]
  | .imul _ d a b => [wV d, rV a, rV b]
  | .imulh _ d a b => [wV d, rV a, rV b]
  | .imulhu _ d a b => [wV d, rV a, rV b]
  | .imad _ d a b cr _ _ w64 => [wVD w64 d, rV a, rV b, rVD w64 cr]
  | .imin _ d a b => [wV d, rV a, rV b]
  | .imax _ d a b => [wV d, rV a, rV b]
  | .umin _ d a b => [wV d, rV a, rV b]
  | .umax _ d a b => [wV d, rV a, rV b]
  | .and _ d a b => [wV d, rV a, rV b]
  | .or _ d a b => [wV d, rV a, rV b]
  | .xor _ d a b => [wV d, rV a, rV b]
  | .andn _ d a b => [wV d, rV a, rV b]
  | .shl _ d a b => [wV d, rV a, rV b]
  | .shr _ d a b => [wV d, rV a, rV b]
  | .sar _ d a b => [wV d, rV a, rV b]
  | .shli _ d a _ => [wV d, rV a]
  | .shri _ d a _ => [wV d, rV a]
  | .sari _ d a _ => [wV d, rV a]
  | .roti _ d a _ => [wV d, rV a]
  | .bfe _ d a _ _ _ => [wV d, rV a]
  | .bfi _ d a b _ _ => [wV d, rV a, rV b]
  | .popc _ d a => [wV d, rV a]
  | .clz _ d a => [wV d, rV a]
  | .ctz _ d a => [wV d, rV a]
  | .brev _ d a => [wV d, rV a]
  | .icmp _ d a b _ w64 imm q _ e => [wP d, wP (p7 e), rVD w64 a, rP (p7 q)] ++ (if imm then [] else [rVD w64 b])
  | .sel _ d a b q w64 => [wVD w64 d, rVD w64 a, rVD w64 b, rP (p7 q)]
  | .pbool _ d a b cp e _ => [wP d, wP (p7 e), rP a, rP b, rP (p7 cp)]
  | .lea _ d a b _ _ _ => [wD d, rD a, rV b]
  | .s2v _ d a => [wV d, rS a]
  | .v2s _ d a => [wS d, rV a]
  | .smovl _ d a => [wSD d, rSD a]
  | .s2v64 _ d a => [wD d, rSD a]
  | .v2s64 _ d a => [wSD d, rD a]
  | .fadd _ d a b => [wV d, rV a, rV b]
  | .fsub _ d a b => [wV d, rV a, rV b]
  | .fmul _ d a b => [wV d, rV a, rV b]
  | .ffma _ d a b cr _ => [wV d, rV a, rV b, rV cr]
  | .fmin _ d a b => [wV d, rV a, rV b]
  | .fmax _ d a b => [wV d, rV a, rV b]
  | .fcmp _ d a b _ fmt q _ e => [wP d, wP (p7 e), rF fmt a, rF fmt b, rP (p7 q)]
  | .fopx _ d a b cr opn fmt _ => [wF fmt d, rF fmt a, rF fmt b] ++ (if opn == 3#3 then [rF fmt cr] else [])
  | .fcvt _ d a sfmt dfmt _ => [wF (lo2 dfmt) d, rF (lo2 sfmt) a]
  | .i2f _ d a fmt _ w64 _ => [wF (lo2 fmt) d, rVD w64 a]
  | .f2i _ d a fmt _ w64 _ => [wVD w64 d, rF (lo2 fmt) a]
  | .fabs _ d a fmt => [wF fmt d, rF fmt a]
  | .fneg _ d a fmt => [wF fmt d, rF fmt a]
  | .fclass _ d a fmt => [wV d, rF fmt a]
  | .rint _ d a _ fmt => [wF fmt d, rF fmt a]
  | .hfma2 _ d a b cr _ _ => [wV d, rV a, rV b, rV cr]
  | .mxq _ d a b _ _ => [wV d, rV a, wS b]
  | .mxdq _ d a b _ _ _ => [wV d, rV a, rS b]
  | .fdiv _ d a b fmt _ => [wF fmt d, rF fmt a, rF fmt b]
  | .fsqrt _ d a fmt _ => [wF fmt d, rF fmt a]
  | .frsq _ d a fmt _ => [wF fmt d, rF fmt a]
  | .fex2 _ d a => [wV d, rV a]
  | .flg2 _ d a => [wV d, rV a]
  | .idiv _ d a b e hase _ w64 => [wVD w64 d, rVD w64 a, rVD w64 b] ++ (if hase then [wVD w64 e] else [])
  | .ld _ d a sz _ _ _ _ => [wM sz d, rD a]
  | .st _ a b sz _ _ => [rD a, rM sz b]
  | .lds _ d a sz _ => [wM sz d, rV a]
  | .sts _ sz a b => [rV a, rM sz b]
  | .atom _ d a b aop w64 _ _ cr _ => [wVD w64 d, rD a, rVD w64 b] ++ (if aop == 9#5 then [rVD w64 cr] else [])
  | .cas128 _ d a b cr sp _ _ _ => [wQ d, wP (p7 sp), rD a, rQ b, rQ cr]
  | .red _ a b _ w64 _ _ _ => [rD a, rVD w64 b]
  | .waitc _ d a b _ w64 _ _ _ => [wVD w64 d, rD a, rVD w64 b]
  | .acq _ d a _ _ => [wD d, rD a]
  | .rel _ a b _ _ => [rD a, rD b]
  | .bind _ d a b lr => [wV d, rD a, rD b, rV lr]
  | .unbind _ a => [rV a]
  | .cinv _ a b => [rD a, rV b]
  | .cwb _ a b => [rD a, rV b]
  | .cdis _ d a b => [wV d, rD a, rV b]
  | .seal _ a b => [rSD a, rS b]
  | .unseal _ a b => [rSD a, rS b]
  | .pref _ a _ _ => [rD a]
  | .shfl _ d a b => [wV d, rV a, rV b]
  | .pollAll _ d a => [wP d, rP a]
  | .pollAny _ d a => [wP d, rP a]
  | .pollSame _ d a => [wP d, rP a]
  | .pollMask _ d a => [wV d, rP a]
  | .brx _ a => [rD a]
  | .call _ _ => [wD 14#7]
  | .callx _ d a => [wD d, rD a]
  | .ret _ a => [rD a]
  | .rcvb _ d _ => [wW d]
  | .rcvw _ d => [rW d]
  | .nbarInit _ d a => [wB d, rS a]
  | .nbarArrive _ d a => [wB d, wSD a]
  | .nbarWait _ d a => [rB d, rwSD a]
  | .nbarArriveWait _ d a => [wB d, wSD a]
  | .mma _ d a b fmt amode _ tr t => [rSD d, rSD a, rVs (mmaRegs fmt) (fmt == 1#4) b] ++ (if amode then [rTile (tr.setWidth 7)] else []) ++ tailOperands t
  | .tld _ d a t => [rSD d, rTile a] ++ tailOperands t
  | .tst _ d a t => [rSD d, rTile a] ++ tailOperands t
  | .cpy _ d a b dk sk _ t => [rEnd dk d, rEnd sk a, rSD b] ++ tailOperands t
  | .gathf _ d a b lk t => [rLoc lk d, rSD a, rS2 b] ++ tailOperands t
  | .scatf _ d a b lk _ t => [rLoc lk d, rSD a, rS2 b] ++ tailOperands t
  | .flu _ d a b _ _ batch _ pms t => [rSD d] ++ (if batch then [rS b] else [wS4 a, wPM pms]) ++ tailOperands t
  | .fchol _ d a b _ _ batch _ t => [rSD d] ++ (if batch then [rS b] else [wSD a]) ++ tailOperands t
  | .fqr _ d a b _ _ batch t => [rSD d, rS b] ++ (if batch then [] else [wSD a]) ++ tailOperands t
  | .ftrs _ d a _ _ _ pms perm _ _ _ t => [rSD d, rSD a] ++ (if perm then [rPM pms] else []) ++ tailOperands t
  | .fupd _ d a b _ _ _ _ t => [rSD d, rwSD a, rSD b] ++ tailOperands t
  | .sopen _ d a _ sp => [wK d, rSD a, wP (p7 sp)]
  | .sclose _ a => [rwK a]
  | .sadv _ d a => [wSD d, rK a]
  | .sseek _ d a x => [wSD d, rK a, rSD (x.setWidth 7)]
  | .stend _ d a => [wP d, rK a]
  | .sjoin _ d a kmask _ t => [rS2 d, rS a] ++ kOperands kmask ++ tailOperands t
  | .sfuse _ d a b al be t => [rS2 d, rS2 a, rS3 b, rS (al.setWidth 7), rS (be.setWidth 7)] ++ tailOperands t
  | .stopk _ d a _ _ t => [rS2 d, rS2 a] ++ tailOperands t
  | .spawn _ a _ => [rQ a]
  | .spawno _ d a b _ => [rV d, rQ a, rSD b]
  | .txs _ d => [wV d]
  | .reggrow _ d _ => [wP d]
  | .mfs _ d uni w64 _ => [wSys uni w64 d]
  | .mts _ d uni w64 _ => [rSys uni w64 d]
  | .clkTime _ d _ => [wSD d]
  | .clkCycle _ d _ => [wSD d]
  | .launch _ d a t => [wSD d, rSD a] ++ tailOperands t
  | _ => []

/-- The checks on a word's own bits beyond register kinds (03 R84, order 6), from each entry. -/
def fieldsOk : Instr → Bool
  | .clauseHeader _ fa fb _ => flagOk fa && flagOk fb
  | .bfe _ _ _ _ len pos => fieldOk pos len
  | .bfi _ _ _ _ len pos => fieldOk pos len
  | .icmp _ d _ _ cmp _ _ _ bop e => cmp.toNat ≤ 9 && bop != 3#2 && predPairOk d e
  | .pbool _ d _ _ _ e _ => predPairOk d e
  | .ffma _ _ _ _ _ rm => rm.toNat ≤ 3
  | .fcmp _ d _ _ cmp _ _ bop e => cmp.toNat ≤ 13 && bop != 3#2 && predPairOk d e
  | .fopx _ _ _ _ cr opn _ rm => opn.toNat ≤ 5 && rm.toNat ≤ 3 && (opn == 3#3 || cr == 0#7) && (opn.toNat < 4 || rm == 0#3)
  | .fcvt _ _ _ sfmt dfmt rm => sfmt.toNat ≤ 3 && dfmt.toNat ≤ 3 && sfmt != dfmt && (rm.toNat ≤ 3 || (rm == 4#3 && sfmt == 0#4 && dfmt.toNat ≥ 2))
  | .i2f _ _ _ fmt _ _ rm => fmt.toNat ≤ 3 && rm.toNat ≤ 3
  | .f2i _ _ _ fmt _ _ rm => fmt.toNat ≤ 3 && rm.toNat ≤ 3
  | .rint _ _ _ rm _ => rm.toNat ≤ 3
  | .hfma2 _ _ _ _ _ rm _ => rm.toNat ≤ 3
  | .mxq _ _ _ _ sel rm => selOk sel && rm.toNat ≤ 4
  | .mxdq _ _ _ _ fmtc dfmt rm => 8 ≤ fmtc.toNat && fmtc.toNat ≤ 10 && dfmt != 1#2 && rm.toNat ≤ 3
  | .fdiv _ _ _ _ _ rm => rm.toNat ≤ 3
  | .fsqrt _ _ _ _ rm => rm.toNat ≤ 3
  | .frsq _ _ _ _ rm => rm.toNat ≤ 3
  | .idiv _ d _ _ e hase _ _ => (if hase then d != e else e == 0#7)
  | .ld _ _ _ sz sx atm _ _ => sz.toNat ≤ 4 && (!sx || sz.toNat ≤ 1) && (!atm || sz == 4#3)
  | .st _ _ _ sz atm _ => sz.toNat ≤ 4 && (!atm || sz == 4#3)
  | .lds _ _ _ sz sx => sz.toNat ≤ 4 && (!sx || sz.toNat ≤ 1)
  | .sts _ sz _ _ => sz.toNat ≤ 4
  | .atom _ _ _ _ aop _ _ scope cr _ => aop.toNat ≤ 12 && (aop == 9#5 || cr == 0#7) && scope.toNat ≤ 4
  | .cas128 _ _ _ _ _ _ _ scope _ => scope.toNat ≤ 4
  | .red _ _ _ aop _ ord scope _ => aop.toNat ≤ 12 && aop != 8#5 && aop != 9#5 && (ord == 0#2 || ord == 2#2) && scope.toNat ≤ 4
  | .waitc _ _ _ _ cmp _ acq scope _ => cmp.toNat ≤ 9 && (!acq || scope.toNat ≤ 4)
  | .fence _ kind scope => kind != 0#2 && scope.toNat ≤ 4
  | .acq _ _ _ scope _ => scope.toNat ≤ 4
  | .rel _ _ _ scope _ => scope.toNat ≤ 4
  | .mma _ _ _ _ fmt amode _ tr t => fmtOk fmt && (amode || tr == 0#6) && tailOk t
  | .tld _ _ _ t => tailOk t
  | .tst _ _ _ t => tailOk t
  | .cpy _ _ _ _ dk sk esz t => dk != 3#2 && sk != 3#2 && esz.toNat ≤ 4 && tailOk t
  | .gathf _ _ _ _ _ t => tailOk t
  | .scatf _ _ _ _ _ rop t => rop.toNat ≤ 3 && tailOk t
  | .flu _ _ a b fmt _ batch _ pms t => facOk fmt t && (if batch then a == 0#7 && !pms else b == 0#7)
  | .fchol _ _ a b fmt _ batch _ t => facOk fmt t && (if batch then a == 0#7 else b == 0#7)
  | .fqr _ _ a _ fmt _ batch t => facOk fmt t && (!batch || a == 0#7)
  | .ftrs _ _ _ fmt _ batch _ perm _ _ _ t => facOk fmt t && (!batch || !perm)
  | .fupd _ _ _ _ fmt _ _ _ t => facOk fmt t
  | .sjoin _ _ _ kmask _ t => kmask != 0#8 && !t.rel && tailOk t
  | .sfuse _ _ _ _ _ _ t => !t.acq && !t.rel
  | .stopk _ _ _ _ _ t => !t.acq && !t.rel
  | .reggrow _ _ n => 1 ≤ n.toNat && n.toNat ≤ 7
  | .regshrink _ n => 1 ≤ n.toNat && n.toNat ≤ 7
  | .mfs _ _ uni w64 num => sysOk uni w64 num
  | .mts _ _ uni w64 num => sysOk uni w64 num && !sysReadOnly num
  | .launch _ _ _ t => tailOk t
  | .reservedMajor p op rest => reservedOp op && !(p == zeroPfx && op == 0#7 && rest == 0#21)
  | _ => true

/-- The kind's file holds the register, aligned as R14 asks and, for a run, up to its last member (03 R66, 08 R185). -/
def operandOk (o : Operand) : Bool :=
  match o.kind with
  | .v => o.num < 128
  | .d => o.num < 128 && o.num % 2 == 0
  | .q => o.num < 128 && o.num % 4 == 0
  | .vs _ even => o.num < 128 && (!even || o.num % 2 == 0)
  | .s => o.num < 64
  | .sd => o.num < 64 && o.num % 2 == 0
  | .sn n al => o.num + n ≤ 64 && o.num % al == 0
  | .p => o.num < 8
  | .f => o.num < 12
  | .w => o.num < 8
  | .b => o.num < 16
  | .k => o.num < 8
  | .pm => o.num < 2

/-- The v registers an operand stands for, lowest first. -/
def operandVRegs (o : Operand) : List Nat :=
  match o.kind with
  | .v => [o.num]
  | .d => [o.num, o.num + 1]
  | .q => [o.num, o.num + 1, o.num + 2, o.num + 3]
  | .vs n _ => (List.range n).map (o.num + ·)
  | _ => []

/-- The s registers an operand stands for, lowest first. -/
def operandSRegs (o : Operand) : List Nat :=
  match o.kind with
  | .s => [o.num]
  | .sd => [o.num, o.num + 1]
  | .sn n _ => (List.range n).map (o.num + ·)
  | _ => []

/-- The kind's class and the members: two operands touch one register when they share a class and a member (03 R70). -/
def operandCells (o : Operand) : List (Nat × Nat) :=
  match o.kind with
  | .v | .d | .q | .vs _ _ => (operandVRegs o).map (fun r => (0, r))
  | .s | .sd | .sn _ _ => (operandSRegs o).map (fun r => (1, r))
  | .p => if o.num < 7 then [(2, o.num)] else []
  | .f => [(3, o.num)]
  | .w => [(4, o.num)]
  | .b => [(5, o.num)]
  | .k => [(6, o.num)]
  | .pm => [(7, o.num)]

/-- The prefix of an instruction word; the words without one execute always. -/
def pfx : Instr → Pfx
  | .mov p _ _ => p
  | .movi p _ _ => p
  | .movl p _ _ _ => p
  | .iadd p _ _ _ => p
  | .isub p _ _ _ => p
  | .iaddi p _ _ _ => p
  | .iadd64 p _ _ _ => p
  | .imul p _ _ _ => p
  | .imulh p _ _ _ => p
  | .imulhu p _ _ _ => p
  | .imad p _ _ _ _ _ _ _ => p
  | .imin p _ _ _ => p
  | .imax p _ _ _ => p
  | .umin p _ _ _ => p
  | .umax p _ _ _ => p
  | .and p _ _ _ => p
  | .or p _ _ _ => p
  | .xor p _ _ _ => p
  | .andn p _ _ _ => p
  | .shl p _ _ _ => p
  | .shr p _ _ _ => p
  | .sar p _ _ _ => p
  | .shli p _ _ _ => p
  | .shri p _ _ _ => p
  | .sari p _ _ _ => p
  | .roti p _ _ _ => p
  | .bfe p _ _ _ _ _ => p
  | .bfi p _ _ _ _ _ => p
  | .popc p _ _ => p
  | .clz p _ _ => p
  | .ctz p _ _ => p
  | .brev p _ _ => p
  | .icmp p _ _ _ _ _ _ _ _ _ => p
  | .sel p _ _ _ _ _ => p
  | .pbool p _ _ _ _ _ _ => p
  | .lea p _ _ _ _ _ _ => p
  | .s2v p _ _ => p
  | .v2s p _ _ => p
  | .smovl p _ _ => p
  | .s2v64 p _ _ => p
  | .v2s64 p _ _ => p
  | .fadd p _ _ _ => p
  | .fsub p _ _ _ => p
  | .fmul p _ _ _ => p
  | .ffma p _ _ _ _ _ => p
  | .fmin p _ _ _ => p
  | .fmax p _ _ _ => p
  | .fcmp p _ _ _ _ _ _ _ _ => p
  | .fopx p _ _ _ _ _ _ _ => p
  | .fcvt p _ _ _ _ _ => p
  | .i2f p _ _ _ _ _ _ => p
  | .f2i p _ _ _ _ _ _ => p
  | .fabs p _ _ _ => p
  | .fneg p _ _ _ => p
  | .fclass p _ _ _ => p
  | .rint p _ _ _ _ => p
  | .hfma2 p _ _ _ _ _ _ => p
  | .mxq p _ _ _ _ _ => p
  | .mxdq p _ _ _ _ _ _ => p
  | .fdiv p _ _ _ _ _ => p
  | .fsqrt p _ _ _ _ => p
  | .frsq p _ _ _ _ => p
  | .fex2 p _ _ => p
  | .flg2 p _ _ => p
  | .idiv p _ _ _ _ _ _ _ => p
  | .ld p _ _ _ _ _ _ _ => p
  | .st p _ _ _ _ _ => p
  | .lds p _ _ _ _ => p
  | .sts p _ _ _ => p
  | .atom p _ _ _ _ _ _ _ _ _ => p
  | .cas128 p _ _ _ _ _ _ _ _ => p
  | .red p _ _ _ _ _ _ _ => p
  | .waitc p _ _ _ _ _ _ _ _ => p
  | .fence p _ _ => p
  | .acq p _ _ _ _ => p
  | .rel p _ _ _ _ => p
  | .bind p _ _ _ _ => p
  | .unbind p _ => p
  | .cinv p _ _ => p
  | .cwb p _ _ => p
  | .cdis p _ _ _ => p
  | .seal p _ _ => p
  | .unseal p _ _ => p
  | .pref p _ _ _ => p
  | .shfl p _ _ _ => p
  | .pollAll p _ _ => p
  | .pollAny p _ _ => p
  | .pollSame p _ _ => p
  | .pollMask p _ _ => p
  | .bra p _ => p
  | .brx p _ => p
  | .call p _ => p
  | .callx p _ _ => p
  | .ret p _ => p
  | .exit p => p
  | .rcvb p _ _ => p
  | .rcvw p _ => p
  | .tbar p => p
  | .nbarInit p _ _ => p
  | .nbarArrive p _ _ => p
  | .nbarWait p _ _ => p
  | .nbarArriveWait p _ _ => p
  | .gbar p _ => p
  | .nop p => p
  | .yield p => p
  | .sleep p _ => p
  | .trap p _ => p
  | .eret p => p
  | .mma p _ _ _ _ _ _ _ _ => p
  | .tld p _ _ _ => p
  | .tst p _ _ _ => p
  | .cpy p _ _ _ _ _ _ _ => p
  | .gathf p _ _ _ _ _ => p
  | .scatf p _ _ _ _ _ _ => p
  | .flu p _ _ _ _ _ _ _ _ _ => p
  | .fchol p _ _ _ _ _ _ _ _ => p
  | .fqr p _ _ _ _ _ _ _ => p
  | .ftrs p _ _ _ _ _ _ _ _ _ _ _ => p
  | .fupd p _ _ _ _ _ _ _ _ => p
  | .sopen p _ _ _ _ => p
  | .sclose p _ => p
  | .sadv p _ _ => p
  | .sseek p _ _ _ => p
  | .stend p _ _ => p
  | .sjoin p _ _ _ _ _ => p
  | .sfuse p _ _ _ _ _ _ => p
  | .stopk p _ _ _ _ _ => p
  | .spawn p _ _ => p
  | .spawno p _ _ _ _ => p
  | .txb p _ _ => p
  | .txe p => p
  | .txa p _ => p
  | .txs p _ => p
  | .reggrow p _ _ => p
  | .regshrink p _ => p
  | .mfs p _ _ _ _ => p
  | .mts p _ _ _ _ => p
  | .clkTime p _ _ => p
  | .clkCycle p _ _ => p
  | .launch p _ _ _ => p
  | .reservedMajor p _ _ => p
  | _ => { c := false, g := 7#3 }

end Sys2Proof.Machine
end

