-- ==== Sys2Proof/WellFormed.lean ====
section
/-! DEFINITION. Well-formed instructions: every register field names a register of its operand's kind,
aligned as 01 R14 and 08 R185 ask, and every other field is one its entry assigns (03 R83, R84 order 6). -/

namespace Sys2Proof

open Sys2Proof.Machine

/-- The checks that a word's own bits decide. -/
def wf (i : Instr) : Bool := (operands i).all operandOk && fieldsOk i

end Sys2Proof
end

