-- ==== Sys2Proof/Decode.lean ====
section
/-! DEFINITION. The decoder and the encoder of the 32-bit words (03 R64-R66, R73, R80-R83 and the
entries of the instruction chapters). The encoder writes each word field by field, high to low, from
the same tables; the decoder reads the fields, and it accepts a word only when the instruction it
reads is well formed and encodes to that very word. Every unused or reserved bit is therefore checked
to be zero (R66, R83), and every refusal has a name. -/

namespace Sys2Proof

open Sys2Proof.Machine

/-- Why bytes are no instruction. -/
inductive DecodeError where
  /-- An unassigned sub-op or code, a nonzero unused or reserved field, or a register field beyond its
  file (R83, R84 order 6): RESERVED_FIELD for the executing lanes. Safe: the machine takes the exception. -/
  | reservedField
  /-- A header word with C = 1, G ≠ 7 or FA or FB of 12 to 14 (R73): RESERVED_FIELD for every lane. Safe, as above. -/
  | badHeader
  /-- Fewer bytes than the instruction has. Safe: the machine never hands the decoder such bytes. -/
  | truncated
  deriving DecidableEq, Repr

/-- Bits [lo + n − 1 : lo] of a word (00 R6). -/
def fld (w : BitVec 32) (lo n : Nat) : BitVec n := w.extractLsb' lo n

def pfxOf (w : BitVec 32) : Pfx := { c := w.getLsbD 31, g := fld w 28 3 }

def tailOf (x : BitVec 32) : CmdTail :=
  { acq := x.getLsbD 13, rel := x.getLsbD 12, scope := fld x 9 3, bar := fld x 5 4, ben := x.getLsbD 4 }

/-- The majors of X format: the instruction has a second word (R65, R80). -/
def xMajor (op : Nat) : Bool := [0x03, 0x0B, 0x18, 0x19, 0x1B, 0x1C, 0x1D, 0x1E, 0x23, 0x26, 0x27, 0x28, 0x29, 0x2A, 0x2C, 0x2D, 0x2E, 0x30, 0x31, 0x32, 0x35, 0x38, 0x39, 0x3C, 0x3D, 0x3E, 0x3F, 0x41, 0x42, 0x43, 0x44, 0x45, 0x60, 0x61, 0x62, 0x63, 0x64, 0x65, 0x66, 0x67, 0x68, 0x69, 0x6A, 0x6E, 0x6F, 0x70, 0x71, 0x72, 0x7A].contains op

/-- The majors 0x00 to 0x0F of the grid of R80 (Moves and integer arithmetic), with the sub-ops of R82. -/
def parse0 (col : Nat) (w x : BitVec 32) : Option Instr :=
  match col with
  | 0x1 => some (.mov (pfxOf w) (fld w 14 7) (fld w 7 7))
  | 0x2 => some (.movi (pfxOf w) (fld w 14 7) (fld w 0 14))
  | 0x3 => some (.movl (pfxOf w) (fld w 14 7) (w.getLsbD 7) (fld x 0 32))
  | 0x4 => some (.iadd (pfxOf w) (fld w 14 7) (fld w 7 7) (fld w 0 7))
  | 0x5 => some (.isub (pfxOf w) (fld w 14 7) (fld w 7 7) (fld w 0 7))
  | 0x6 => some (.iaddi (pfxOf w) (fld w 14 7) (fld w 7 7) (fld w 0 7))
  | 0x7 => some (.iadd64 (pfxOf w) (fld w 14 7) (fld w 7 7) (fld w 0 7))
  | 0x8 => some (.imul (pfxOf w) (fld w 14 7) (fld w 7 7) (fld w 0 7))
  | 0x9 => some (.imulh (pfxOf w) (fld w 14 7) (fld w 7 7) (fld w 0 7))
  | 0xA => some (.imulhu (pfxOf w) (fld w 14 7) (fld w 7 7) (fld w 0 7))
  | 0xB => some (.imad (pfxOf w) (fld w 14 7) (fld w 7 7) (fld w 0 7) (fld x 25 7) (x.getLsbD 24) (x.getLsbD 23) (x.getLsbD 22))
  | 0xC => some (.imin (pfxOf w) (fld w 14 7) (fld w 7 7) (fld w 0 7))
  | 0xD => some (.imax (pfxOf w) (fld w 14 7) (fld w 7 7) (fld w 0 7))
  | 0xE => some (.umin (pfxOf w) (fld w 14 7) (fld w 7 7) (fld w 0 7))
  | 0xF => some (.umax (pfxOf w) (fld w 14 7) (fld w 7 7) (fld w 0 7))
  | _ => none

/-- The majors 0x10 to 0x1F of the grid of R80 (Logic, bits, predicates), with the sub-ops of R82. -/
def parse1 (col : Nat) (w x : BitVec 32) : Option Instr :=
  match col with
  | 0x0 => some (.and (pfxOf w) (fld w 14 7) (fld w 7 7) (fld w 0 7))
  | 0x1 => some (.or (pfxOf w) (fld w 14 7) (fld w 7 7) (fld w 0 7))
  | 0x2 => some (.xor (pfxOf w) (fld w 14 7) (fld w 7 7) (fld w 0 7))
  | 0x3 => some (.andn (pfxOf w) (fld w 14 7) (fld w 7 7) (fld w 0 7))
  | 0x4 => some (.shl (pfxOf w) (fld w 14 7) (fld w 7 7) (fld w 0 7))
  | 0x5 => some (.shr (pfxOf w) (fld w 14 7) (fld w 7 7) (fld w 0 7))
  | 0x6 => some (.sar (pfxOf w) (fld w 14 7) (fld w 7 7) (fld w 0 7))
  | 0x7 =>
    if fld w 5 2 == 0#2 then some (.shli (pfxOf w) (fld w 14 7) (fld w 7 7) (fld w 0 5))
    else if fld w 5 2 == 1#2 then some (.shri (pfxOf w) (fld w 14 7) (fld w 7 7) (fld w 0 5))
    else if fld w 5 2 == 2#2 then some (.sari (pfxOf w) (fld w 14 7) (fld w 7 7) (fld w 0 5))
    else if fld w 5 2 == 3#2 then some (.roti (pfxOf w) (fld w 14 7) (fld w 7 7) (fld w 0 5))
    else none
  | 0x8 => some (.bfe (pfxOf w) (fld w 14 7) (fld w 7 7) (x.getLsbD 12) (fld x 6 6) (fld x 0 5))
  | 0x9 => some (.bfi (pfxOf w) (fld w 14 7) (fld w 7 7) (fld w 0 7) (fld x 6 6) (fld x 0 5))
  | 0xA =>
    if fld w 0 7 == 0#7 then some (.popc (pfxOf w) (fld w 14 7) (fld w 7 7))
    else if fld w 0 7 == 1#7 then some (.clz (pfxOf w) (fld w 14 7) (fld w 7 7))
    else if fld w 0 7 == 2#7 then some (.ctz (pfxOf w) (fld w 14 7) (fld w 7 7))
    else if fld w 0 7 == 3#7 then some (.brev (pfxOf w) (fld w 14 7) (fld w 7 7))
    else none
  | 0xB => some (.icmp (pfxOf w) (fld w 14 7) (fld w 7 7) (fld w 0 7) (fld x 28 4) (x.getLsbD 27) (x.getLsbD 26) (fld x 23 3) (fld x 21 2) (fld x 18 3))
  | 0xC => some (.sel (pfxOf w) (fld w 14 7) (fld w 7 7) (fld w 0 7) (fld x 29 3) (x.getLsbD 28))
  | 0xD => some (.pbool (pfxOf w) (fld w 14 7) (fld w 7 7) (fld w 0 7) (fld x 29 3) (fld x 26 3) (fld x 18 8))
  | 0xE => some (.lea (pfxOf w) (fld w 14 7) (fld w 7 7) (fld w 0 7) (fld x 29 3) (x.getLsbD 28) (fld x 0 24))
  | 0xF =>
    if fld w 0 7 == 0#7 then some (.s2v (pfxOf w) (fld w 14 7) (fld w 7 7))
    else if fld w 0 7 == 1#7 then some (.v2s (pfxOf w) (fld w 14 7) (fld w 7 7))
    else if fld w 0 7 == 2#7 then some (.smovl (pfxOf w) (fld w 14 7) (fld w 7 7))
    else if fld w 0 7 == 3#7 then some (.s2v64 (pfxOf w) (fld w 14 7) (fld w 7 7))
    else if fld w 0 7 == 4#7 then some (.v2s64 (pfxOf w) (fld w 14 7) (fld w 7 7))
    else none
  | _ => none

/-- The majors 0x20 to 0x2F of the grid of R80 (Floating point), with the sub-ops of R82. -/
def parse2 (col : Nat) (w x : BitVec 32) : Option Instr :=
  match col with
  | 0x0 => some (.fadd (pfxOf w) (fld w 14 7) (fld w 7 7) (fld w 0 7))
  | 0x1 => some (.fsub (pfxOf w) (fld w 14 7) (fld w 7 7) (fld w 0 7))
  | 0x2 => some (.fmul (pfxOf w) (fld w 14 7) (fld w 7 7) (fld w 0 7))
  | 0x3 => some (.ffma (pfxOf w) (fld w 14 7) (fld w 7 7) (fld w 0 7) (fld x 25 7) (fld x 22 3))
  | 0x4 => some (.fmin (pfxOf w) (fld w 14 7) (fld w 7 7) (fld w 0 7))
  | 0x5 => some (.fmax (pfxOf w) (fld w 14 7) (fld w 7 7) (fld w 0 7))
  | 0x6 => some (.fcmp (pfxOf w) (fld w 14 7) (fld w 7 7) (fld w 0 7) (fld x 28 4) (fld x 26 2) (fld x 23 3) (fld x 21 2) (fld x 18 3))
  | 0x7 => some (.fopx (pfxOf w) (fld w 14 7) (fld w 7 7) (fld w 0 7) (fld x 25 7) (fld x 22 3) (fld x 20 2) (fld x 17 3))
  | 0x8 => some (.fcvt (pfxOf w) (fld w 14 7) (fld w 7 7) (fld x 28 4) (fld x 24 4) (fld x 21 3))
  | 0x9 => some (.i2f (pfxOf w) (fld w 14 7) (fld w 7 7) (fld x 28 4) (x.getLsbD 27) (x.getLsbD 26) (fld x 23 3))
  | 0xA => some (.f2i (pfxOf w) (fld w 14 7) (fld w 7 7) (fld x 28 4) (x.getLsbD 27) (x.getLsbD 26) (fld x 23 3))
  | 0xB =>
    if fld w 4 3 == 0#3 && fld w 0 2 == 0#2 then some (.fabs (pfxOf w) (fld w 14 7) (fld w 7 7) (fld w 2 2))
    else if fld w 4 3 == 0#3 && fld w 0 2 == 1#2 then some (.fneg (pfxOf w) (fld w 14 7) (fld w 7 7) (fld w 2 2))
    else if fld w 4 3 == 0#3 && fld w 0 2 == 2#2 then some (.fclass (pfxOf w) (fld w 14 7) (fld w 7 7) (fld w 2 2))
    else if fld w 0 2 == 3#2 then some (.rint (pfxOf w) (fld w 14 7) (fld w 7 7) (fld w 4 3) (fld w 2 2))
    else none
  | 0xC => some (.hfma2 (pfxOf w) (fld w 14 7) (fld w 7 7) (fld w 0 7) (fld x 25 7) (fld x 22 3) (x.getLsbD 21))
  | 0xD => some (.mxq (pfxOf w) (fld w 14 7) (fld w 7 7) (fld w 0 7) (fld x 24 8) (fld x 21 3))
  | 0xE => some (.mxdq (pfxOf w) (fld w 14 7) (fld w 7 7) (fld w 0 7) (fld x 28 4) (fld x 26 2) (fld x 23 3))
  | _ => none

/-- The majors 0x30 to 0x3F of the grid of R80 (Division, memory), with the sub-ops of R82. -/
def parse3 (col : Nat) (w x : BitVec 32) : Option Instr :=
  match col with
  | 0x0 => some (.fdiv (pfxOf w) (fld w 14 7) (fld w 7 7) (fld w 0 7) (fld x 30 2) (fld x 27 3))
  | 0x1 => some (.fsqrt (pfxOf w) (fld w 14 7) (fld w 7 7) (fld x 30 2) (fld x 27 3))
  | 0x2 => some (.frsq (pfxOf w) (fld w 14 7) (fld w 7 7) (fld x 30 2) (fld x 27 3))
  | 0x3 => some (.fex2 (pfxOf w) (fld w 14 7) (fld w 7 7))
  | 0x4 => some (.flg2 (pfxOf w) (fld w 14 7) (fld w 7 7))
  | 0x5 => some (.idiv (pfxOf w) (fld w 14 7) (fld w 7 7) (fld w 0 7) (fld x 25 7) (x.getLsbD 24) (x.getLsbD 23) (x.getLsbD 22))
  | 0x8 => some (.ld (pfxOf w) (fld w 14 7) (fld w 7 7) (fld x 29 3) (x.getLsbD 28) (x.getLsbD 27) (fld x 24 3) (fld x 0 24))
  | 0x9 => some (.st (pfxOf w) (fld w 7 7) (fld w 0 7) (fld x 29 3) (x.getLsbD 27) (fld x 0 24))
  | 0xA => some (.lds (pfxOf w) (fld w 14 7) (fld w 7 7) (fld w 4 3) (w.getLsbD 3))
  | 0xB => some (.sts (pfxOf w) (fld w 18 3) (fld w 7 7) (fld w 0 7))
  | 0xC => some (.atom (pfxOf w) (fld w 14 7) (fld w 7 7) (fld w 0 7) (fld x 27 5) (x.getLsbD 26) (fld x 24 2) (fld x 21 3) (fld x 14 7) (fld x 0 14))
  | 0xD => some (.cas128 (pfxOf w) (fld w 14 7) (fld w 7 7) (fld w 0 7) (fld x 25 7) (fld x 22 3) (fld x 20 2) (fld x 17 3) (fld x 0 14))
  | 0xE => some (.red (pfxOf w) (fld w 7 7) (fld w 0 7) (fld x 27 5) (x.getLsbD 26) (fld x 24 2) (fld x 21 3) (fld x 0 14))
  | 0xF => some (.waitc (pfxOf w) (fld w 14 7) (fld w 7 7) (fld w 0 7) (fld x 28 4) (x.getLsbD 27) (x.getLsbD 26) (fld x 23 3) (fld x 0 14))
  | _ => none

/-- The majors 0x40 to 0x4F of the grid of R80 (Synchronisation), with the sub-ops of R82. -/
def parse4 (col : Nat) (w x : BitVec 32) : Option Instr :=
  match col with
  | 0x0 => some (.fence (pfxOf w) (fld w 5 2) (fld w 2 3))
  | 0x1 => some (.acq (pfxOf w) (fld w 14 7) (fld w 7 7) (fld x 29 3) (fld x 0 14))
  | 0x2 => some (.rel (pfxOf w) (fld w 7 7) (fld w 0 7) (fld x 29 3) (fld x 0 14))
  | 0x3 =>
    if fld x 30 2 == 0#2 then some (.bind (pfxOf w) (fld w 14 7) (fld w 7 7) (fld w 0 7) (fld x 23 7))
    else if fld x 30 2 == 1#2 then some (.unbind (pfxOf w) (fld w 7 7))
    else none
  | 0x4 =>
    if fld x 30 2 == 0#2 then some (.cinv (pfxOf w) (fld w 7 7) (fld w 0 7))
    else if fld x 30 2 == 1#2 then some (.cwb (pfxOf w) (fld w 7 7) (fld w 0 7))
    else if fld x 30 2 == 2#2 then some (.cdis (pfxOf w) (fld w 14 7) (fld w 7 7) (fld w 0 7))
    else none
  | 0x5 =>
    if fld x 30 2 == 0#2 then some (.seal (pfxOf w) (fld w 7 7) (fld w 0 7))
    else if fld x 30 2 == 1#2 then some (.unseal (pfxOf w) (fld w 7 7) (fld w 0 7))
    else none
  | 0x6 => some (.pref (pfxOf w) (fld w 7 7) (fld w 4 3) (w.getLsbD 3))
  | 0x7 => some (.shfl (pfxOf w) (fld w 14 7) (fld w 7 7) (fld w 0 7))
  | 0x8 =>
    if fld w 0 7 == 0#7 then some (.pollAll (pfxOf w) (fld w 14 7) (fld w 7 7))
    else if fld w 0 7 == 1#7 then some (.pollAny (pfxOf w) (fld w 14 7) (fld w 7 7))
    else if fld w 0 7 == 2#7 then some (.pollSame (pfxOf w) (fld w 14 7) (fld w 7 7))
    else if fld w 0 7 == 3#7 then some (.pollMask (pfxOf w) (fld w 14 7) (fld w 7 7))
    else none
  | _ => none

/-- The majors 0x50 to 0x5F of the grid of R80 (Control), with the sub-ops of R82. -/
def parse5 (col : Nat) (w x : BitVec 32) : Option Instr :=
  match col with
  | 0x0 => some (.bra (pfxOf w) (fld w 0 21))
  | 0x1 => some (.brx (pfxOf w) (fld w 7 7))
  | 0x2 => some (.call (pfxOf w) (fld w 0 21))
  | 0x3 => some (.callx (pfxOf w) (fld w 14 7) (fld w 7 7))
  | 0x4 => some (.ret (pfxOf w) (fld w 7 7))
  | 0x5 => some (.exit (pfxOf w))
  | 0x6 => some (.rcvb (pfxOf w) (fld w 14 7) (w.getLsbD 7))
  | 0x7 => some (.rcvw (pfxOf w) (fld w 14 7))
  | 0x8 => some (.tbar (pfxOf w))
  | 0x9 =>
    if fld w 0 7 == 0#7 then some (.nbarInit (pfxOf w) (fld w 14 7) (fld w 7 7))
    else if fld w 0 7 == 1#7 then some (.nbarArrive (pfxOf w) (fld w 14 7) (fld w 7 7))
    else if fld w 0 7 == 2#7 then some (.nbarWait (pfxOf w) (fld w 14 7) (fld w 7 7))
    else if fld w 0 7 == 3#7 then some (.nbarArriveWait (pfxOf w) (fld w 14 7) (fld w 7 7))
    else none
  | 0xA => some (.gbar (pfxOf w) (fld w 7 8))
  | 0xB =>
    if fld w 0 7 == 0#7 then some (.nop (pfxOf w))
    else if fld w 0 7 == 1#7 then some (.yield (pfxOf w))
    else if fld w 0 7 == 2#7 then some (.sleep (pfxOf w) (fld w 7 14))
    else none
  | 0xC => some (.trap (pfxOf w) (fld w 0 7))
  | 0xD => some (.eret (pfxOf w))
  | _ => none

/-- The majors 0x60 to 0x6F of the grid of R80 (Engine commands), with the sub-ops of R82. -/
def parse6 (col : Nat) (w x : BitVec 32) : Option Instr :=
  match col with
  | 0x0 => some (.mma (pfxOf w) (fld w 14 7) (fld w 7 7) (fld w 0 7) (fld x 28 4) (x.getLsbD 27) (x.getLsbD 26) (fld x 20 6) (tailOf x))
  | 0x1 => some (.tld (pfxOf w) (fld w 14 7) (fld w 7 7) (tailOf x))
  | 0x2 => some (.tst (pfxOf w) (fld w 14 7) (fld w 7 7) (tailOf x))
  | 0x3 => some (.cpy (pfxOf w) (fld w 14 7) (fld w 7 7) (fld w 0 7) (fld x 30 2) (fld x 28 2) (fld x 25 3) (tailOf x))
  | 0x4 => some (.gathf (pfxOf w) (fld w 14 7) (fld w 7 7) (fld w 0 7) (x.getLsbD 31) (tailOf x))
  | 0x5 => some (.scatf (pfxOf w) (fld w 14 7) (fld w 7 7) (fld w 0 7) (x.getLsbD 31) (fld x 28 3) (tailOf x))
  | 0x6 => some (.flu (pfxOf w) (fld w 14 7) (fld w 7 7) (fld w 0 7) (fld x 28 4) (fld x 21 7) (x.getLsbD 20) (x.getLsbD 19) (x.getLsbD 14) (tailOf x))
  | 0x7 => some (.fchol (pfxOf w) (fld w 14 7) (fld w 7 7) (fld w 0 7) (fld x 28 4) (fld x 21 7) (x.getLsbD 20) (x.getLsbD 19) (tailOf x))
  | 0x8 => some (.fqr (pfxOf w) (fld w 14 7) (fld w 7 7) (fld w 0 7) (fld x 28 4) (fld x 21 7) (x.getLsbD 20) (tailOf x))
  | 0x9 => some (.ftrs (pfxOf w) (fld w 14 7) (fld w 7 7) (fld x 28 4) (fld x 21 7) (x.getLsbD 20) (x.getLsbD 18) (x.getLsbD 17) (x.getLsbD 16) (x.getLsbD 15) (x.getLsbD 14) (tailOf x))
  | 0xA => some (.fupd (pfxOf w) (fld w 14 7) (fld w 7 7) (fld w 0 7) (fld x 28 4) (fld x 21 7) (x.getLsbD 19) (x.getLsbD 14) (tailOf x))
  | 0xB =>
    if fld w 6 1 == 0#1 then some (.sopen (pfxOf w) (fld w 14 7) (fld w 7 7) (fld w 3 3) (fld w 0 3))
    else if fld w 0 7 == 64#7 then some (.sclose (pfxOf w) (fld w 7 7))
    else none
  | 0xC =>
    if fld w 0 7 == 0#7 then some (.sadv (pfxOf w) (fld w 14 7) (fld w 7 7))
    else if fld w 6 1 == 1#1 then some (.sseek (pfxOf w) (fld w 14 7) (fld w 7 7) (fld w 0 6))
    else none
  | 0xD => some (.stend (pfxOf w) (fld w 14 7) (fld w 7 7))
  | 0xE => some (.sjoin (pfxOf w) (fld w 14 7) (fld w 7 7) (fld x 24 8) (x.getLsbD 23) (tailOf x))
  | 0xF =>
    if fld x 30 2 == 0#2 then some (.sfuse (pfxOf w) (fld w 14 7) (fld w 7 7) (fld w 0 7) (fld x 24 6) (fld x 18 6) (tailOf x))
    else if fld x 30 2 == 1#2 then some (.stopk (pfxOf w) (fld w 14 7) (fld w 7 7) (x.getLsbD 29) (x.getLsbD 28) (tailOf x))
    else none
  | _ => none

/-- The majors 0x70 to 0x7F of the grid of R80 (Spawn and system), with the sub-ops of R82. -/
def parse7 (col : Nat) (w x : BitVec 32) : Option Instr :=
  match col with
  | 0x0 => some (.spawn (pfxOf w) (fld w 7 7) (fld x 0 21))
  | 0x1 => some (.spawno (pfxOf w) (fld w 14 7) (fld w 7 7) (fld w 0 7) (fld x 0 21))
  | 0x2 => some (.txb (pfxOf w) (x.getLsbD 31) (fld x 0 21))
  | 0x3 => some (.txe (pfxOf w))
  | 0x4 => some (.txa (pfxOf w) (fld w 7 7))
  | 0x5 => some (.txs (pfxOf w) (fld w 14 7))
  | 0x6 =>
    if fld w 0 7 == 0#7 then some (.reggrow (pfxOf w) (fld w 14 7) (fld w 7 7))
    else if fld w 0 7 == 1#7 then some (.regshrink (pfxOf w) (fld w 7 7))
    else none
  | 0x7 => some (.mfs (pfxOf w) (fld w 14 7) (w.getLsbD 13) (w.getLsbD 12) (fld w 0 8))
  | 0x8 => some (.mts (pfxOf w) (fld w 14 7) (w.getLsbD 13) (w.getLsbD 12) (fld w 0 8))
  | 0x9 =>
    if fld w 2 5 == 0#5 && fld w 0 1 == 0#1 then some (.clkTime (pfxOf w) (fld w 14 7) (w.getLsbD 1))
    else if fld w 2 5 == 0#5 && fld w 0 1 == 1#1 then some (.clkCycle (pfxOf w) (fld w 14 7) (w.getLsbD 1))
    else none
  | 0xA => some (.launch (pfxOf w) (fld w 14 7) (fld w 7 7) (tailOf x))
  | _ => none

/-- The fields of a word pair, by the row of the grid that its major stands in; reserved majors and the zero
word are the rows of R83. -/
def parse (w x : BitVec 32) : Option Instr :=
  let op := fld w 21 7
  if op == 0x7F#7 then some (.clauseHeader (fld w 9 12) (fld w 5 4) (fld w 1 4) (w.getLsbD 0))
  else if w == 0#32 then some .zeroWord
  else if reservedOp op then some (.reservedMajor (pfxOf w) op (fld w 0 21))
  else
    let col := op.toNat % 16
    match op.toNat / 16 with
    | 0 => parse0 col w x
    | 1 => parse1 col w x
    | 2 => parse2 col w x
    | 3 => parse3 col w x
    | 4 => parse4 col w x
    | 5 => parse5 col w x
    | 6 => parse6 col w x
    | _ => parse7 col w x

/-- One bit. -/
def bit (b : Bool) : BitVec 1 := BitVec.ofBool b

/-- Bits [31:28] (R64). -/
def Pfx.bits (p : Pfx) : BitVec 4 := bit p.c ++ p.g

/-- Bits [13:0] of word 1 (08 R184). -/
def CmdTail.bits (t : CmdTail) : BitVec 14 :=
  bit t.acq ++ bit t.rel ++ t.scope ++ t.bar ++ bit t.ben ++ 0#4

/-- The words of an instruction; an event has none. -/
def encode : Instr → List (BitVec 32)
  | .clauseHeader wait fa fb yh => [(0#1 ++ 7#3 ++ 0x7F#7 ++ wait ++ fa ++ fb ++ bit yh : BitVec 32)]
  | .mov p d a => [(p.bits ++ 0x01#7 ++ d ++ a ++ 0#7 : BitVec 32)]
  | .movi p d imm => [(p.bits ++ 0x02#7 ++ d ++ imm : BitVec 32)]
  | .movl p d w64 imm => [(p.bits ++ 0x03#7 ++ d ++ 0#6 ++ bit w64 ++ 0#7 : BitVec 32), (imm : BitVec 32)]
  | .iadd p d a b => [(p.bits ++ 0x04#7 ++ d ++ a ++ b : BitVec 32)]
  | .isub p d a b => [(p.bits ++ 0x05#7 ++ d ++ a ++ b : BitVec 32)]
  | .iaddi p d a imm => [(p.bits ++ 0x06#7 ++ d ++ a ++ imm : BitVec 32)]
  | .iadd64 p d a b => [(p.bits ++ 0x07#7 ++ d ++ a ++ b : BitVec 32)]
  | .imul p d a b => [(p.bits ++ 0x08#7 ++ d ++ a ++ b : BitVec 32)]
  | .imulh p d a b => [(p.bits ++ 0x09#7 ++ d ++ a ++ b : BitVec 32)]
  | .imulhu p d a b => [(p.bits ++ 0x0A#7 ++ d ++ a ++ b : BitVec 32)]
  | .imad p d a b cr u sat w64 => [(p.bits ++ 0x0B#7 ++ d ++ a ++ b : BitVec 32), (cr ++ bit u ++ bit sat ++ bit w64 ++ 0#22 : BitVec 32)]
  | .imin p d a b => [(p.bits ++ 0x0C#7 ++ d ++ a ++ b : BitVec 32)]
  | .imax p d a b => [(p.bits ++ 0x0D#7 ++ d ++ a ++ b : BitVec 32)]
  | .umin p d a b => [(p.bits ++ 0x0E#7 ++ d ++ a ++ b : BitVec 32)]
  | .umax p d a b => [(p.bits ++ 0x0F#7 ++ d ++ a ++ b : BitVec 32)]
  | .and p d a b => [(p.bits ++ 0x10#7 ++ d ++ a ++ b : BitVec 32)]
  | .or p d a b => [(p.bits ++ 0x11#7 ++ d ++ a ++ b : BitVec 32)]
  | .xor p d a b => [(p.bits ++ 0x12#7 ++ d ++ a ++ b : BitVec 32)]
  | .andn p d a b => [(p.bits ++ 0x13#7 ++ d ++ a ++ b : BitVec 32)]
  | .shl p d a b => [(p.bits ++ 0x14#7 ++ d ++ a ++ b : BitVec 32)]
  | .shr p d a b => [(p.bits ++ 0x15#7 ++ d ++ a ++ b : BitVec 32)]
  | .sar p d a b => [(p.bits ++ 0x16#7 ++ d ++ a ++ b : BitVec 32)]
  | .shli p d a n => [(p.bits ++ 0x17#7 ++ d ++ a ++ 0#2 ++ n : BitVec 32)]
  | .shri p d a n => [(p.bits ++ 0x17#7 ++ d ++ a ++ 1#2 ++ n : BitVec 32)]
  | .sari p d a n => [(p.bits ++ 0x17#7 ++ d ++ a ++ 2#2 ++ n : BitVec 32)]
  | .roti p d a n => [(p.bits ++ 0x17#7 ++ d ++ a ++ 3#2 ++ n : BitVec 32)]
  | .bfe p d a u len pos => [(p.bits ++ 0x18#7 ++ d ++ a ++ 0#7 : BitVec 32), (0#19 ++ bit u ++ len ++ 0#1 ++ pos : BitVec 32)]
  | .bfi p d a b len pos => [(p.bits ++ 0x19#7 ++ d ++ a ++ b : BitVec 32), (0#20 ++ len ++ 0#1 ++ pos : BitVec 32)]
  | .popc p d a => [(p.bits ++ 0x1A#7 ++ d ++ a ++ 0#7 : BitVec 32)]
  | .clz p d a => [(p.bits ++ 0x1A#7 ++ d ++ a ++ 1#7 : BitVec 32)]
  | .ctz p d a => [(p.bits ++ 0x1A#7 ++ d ++ a ++ 2#7 : BitVec 32)]
  | .brev p d a => [(p.bits ++ 0x1A#7 ++ d ++ a ++ 3#7 : BitVec 32)]
  | .icmp p d a b cmp w64 imm q bop e => [(p.bits ++ 0x1B#7 ++ d ++ a ++ b : BitVec 32), (cmp ++ bit w64 ++ bit imm ++ q ++ bop ++ e ++ 0#18 : BitVec 32)]
  | .sel p d a b q w64 => [(p.bits ++ 0x1C#7 ++ d ++ a ++ b : BitVec 32), (q ++ bit w64 ++ 0#28 : BitVec 32)]
  | .pbool p d a b cp e lut => [(p.bits ++ 0x1D#7 ++ d ++ a ++ b : BitVec 32), (cp ++ e ++ lut ++ 0#18 : BitVec 32)]
  | .lea p d a b sh u off => [(p.bits ++ 0x1E#7 ++ d ++ a ++ b : BitVec 32), (sh ++ bit u ++ 0#4 ++ off : BitVec 32)]
  | .s2v p d a => [(p.bits ++ 0x1F#7 ++ d ++ a ++ 0#7 : BitVec 32)]
  | .v2s p d a => [(p.bits ++ 0x1F#7 ++ d ++ a ++ 1#7 : BitVec 32)]
  | .smovl p d a => [(p.bits ++ 0x1F#7 ++ d ++ a ++ 2#7 : BitVec 32)]
  | .s2v64 p d a => [(p.bits ++ 0x1F#7 ++ d ++ a ++ 3#7 : BitVec 32)]
  | .v2s64 p d a => [(p.bits ++ 0x1F#7 ++ d ++ a ++ 4#7 : BitVec 32)]
  | .fadd p d a b => [(p.bits ++ 0x20#7 ++ d ++ a ++ b : BitVec 32)]
  | .fsub p d a b => [(p.bits ++ 0x21#7 ++ d ++ a ++ b : BitVec 32)]
  | .fmul p d a b => [(p.bits ++ 0x22#7 ++ d ++ a ++ b : BitVec 32)]
  | .ffma p d a b cr rm => [(p.bits ++ 0x23#7 ++ d ++ a ++ b : BitVec 32), (cr ++ rm ++ 0#22 : BitVec 32)]
  | .fmin p d a b => [(p.bits ++ 0x24#7 ++ d ++ a ++ b : BitVec 32)]
  | .fmax p d a b => [(p.bits ++ 0x25#7 ++ d ++ a ++ b : BitVec 32)]
  | .fcmp p d a b cmp fmt q bop e => [(p.bits ++ 0x26#7 ++ d ++ a ++ b : BitVec 32), (cmp ++ fmt ++ q ++ bop ++ e ++ 0#18 : BitVec 32)]
  | .fopx p d a b cr opn fmt rm => [(p.bits ++ 0x27#7 ++ d ++ a ++ b : BitVec 32), (cr ++ opn ++ fmt ++ rm ++ 0#17 : BitVec 32)]
  | .fcvt p d a sfmt dfmt rm => [(p.bits ++ 0x28#7 ++ d ++ a ++ 0#7 : BitVec 32), (sfmt ++ dfmt ++ rm ++ 0#21 : BitVec 32)]
  | .i2f p d a fmt u w64 rm => [(p.bits ++ 0x29#7 ++ d ++ a ++ 0#7 : BitVec 32), (fmt ++ bit u ++ bit w64 ++ rm ++ 0#23 : BitVec 32)]
  | .f2i p d a fmt u w64 rm => [(p.bits ++ 0x2A#7 ++ d ++ a ++ 0#7 : BitVec 32), (fmt ++ bit u ++ bit w64 ++ rm ++ 0#23 : BitVec 32)]
  | .fabs p d a fmt => [(p.bits ++ 0x2B#7 ++ d ++ a ++ 0#3 ++ fmt ++ 0#2 : BitVec 32)]
  | .fneg p d a fmt => [(p.bits ++ 0x2B#7 ++ d ++ a ++ 0#3 ++ fmt ++ 1#2 : BitVec 32)]
  | .fclass p d a fmt => [(p.bits ++ 0x2B#7 ++ d ++ a ++ 0#3 ++ fmt ++ 2#2 : BitVec 32)]
  | .rint p d a rm fmt => [(p.bits ++ 0x2B#7 ++ d ++ a ++ rm ++ fmt ++ 3#2 : BitVec 32)]
  | .hfma2 p d a b cr rm bf => [(p.bits ++ 0x2C#7 ++ d ++ a ++ b : BitVec 32), (cr ++ rm ++ bit bf ++ 0#21 : BitVec 32)]
  | .mxq p d a b sel rm => [(p.bits ++ 0x2D#7 ++ d ++ a ++ b : BitVec 32), (sel ++ rm ++ 0#21 : BitVec 32)]
  | .mxdq p d a b fmtc dfmt rm => [(p.bits ++ 0x2E#7 ++ d ++ a ++ b : BitVec 32), (fmtc ++ dfmt ++ rm ++ 0#23 : BitVec 32)]
  | .fdiv p d a b fmt rm => [(p.bits ++ 0x30#7 ++ d ++ a ++ b : BitVec 32), (fmt ++ rm ++ 0#27 : BitVec 32)]
  | .fsqrt p d a fmt rm => [(p.bits ++ 0x31#7 ++ d ++ a ++ 0#7 : BitVec 32), (fmt ++ rm ++ 0#27 : BitVec 32)]
  | .frsq p d a fmt rm => [(p.bits ++ 0x32#7 ++ d ++ a ++ 0#7 : BitVec 32), (fmt ++ rm ++ 0#27 : BitVec 32)]
  | .fex2 p d a => [(p.bits ++ 0x33#7 ++ d ++ a ++ 0#7 : BitVec 32)]
  | .flg2 p d a => [(p.bits ++ 0x34#7 ++ d ++ a ++ 0#7 : BitVec 32)]
  | .idiv p d a b e hase u w64 => [(p.bits ++ 0x35#7 ++ d ++ a ++ b : BitVec 32), (e ++ bit hase ++ bit u ++ bit w64 ++ 0#22 : BitVec 32)]
  | .ld p d a sz sx atm lc off => [(p.bits ++ 0x38#7 ++ d ++ a ++ 0#7 : BitVec 32), (sz ++ bit sx ++ bit atm ++ lc ++ off : BitVec 32)]
  | .st p a b sz atm off => [(p.bits ++ 0x39#7 ++ 0#7 ++ a ++ b : BitVec 32), (sz ++ 0#1 ++ bit atm ++ 0#3 ++ off : BitVec 32)]
  | .lds p d a sz sx => [(p.bits ++ 0x3A#7 ++ d ++ a ++ sz ++ bit sx ++ 0#3 : BitVec 32)]
  | .sts p sz a b => [(p.bits ++ 0x3B#7 ++ sz ++ 0#4 ++ a ++ b : BitVec 32)]
  | .atom p d a b aop w64 ord scope cr off => [(p.bits ++ 0x3C#7 ++ d ++ a ++ b : BitVec 32), (aop ++ bit w64 ++ ord ++ scope ++ cr ++ off : BitVec 32)]
  | .cas128 p d a b cr sp ord scope off => [(p.bits ++ 0x3D#7 ++ d ++ a ++ b : BitVec 32), (cr ++ sp ++ ord ++ scope ++ 0#3 ++ off : BitVec 32)]
  | .red p a b aop w64 ord scope off => [(p.bits ++ 0x3E#7 ++ 0#7 ++ a ++ b : BitVec 32), (aop ++ bit w64 ++ ord ++ scope ++ 0#7 ++ off : BitVec 32)]
  | .waitc p d a b cmp w64 acq scope off => [(p.bits ++ 0x3F#7 ++ d ++ a ++ b : BitVec 32), (cmp ++ bit w64 ++ bit acq ++ scope ++ 0#9 ++ off : BitVec 32)]
  | .fence p kind scope => [(p.bits ++ 0x40#7 ++ 0#14 ++ kind ++ scope ++ 0#2 : BitVec 32)]
  | .acq p d a scope off => [(p.bits ++ 0x41#7 ++ d ++ a ++ 0#7 : BitVec 32), (scope ++ 0#15 ++ off : BitVec 32)]
  | .rel p a b scope off => [(p.bits ++ 0x42#7 ++ 0#7 ++ a ++ b : BitVec 32), (scope ++ 0#15 ++ off : BitVec 32)]
  | .bind p d a b lr => [(p.bits ++ 0x43#7 ++ d ++ a ++ b : BitVec 32), (0#2 ++ lr ++ 0#23 : BitVec 32)]
  | .unbind p a => [(p.bits ++ 0x43#7 ++ 0#7 ++ a ++ 0#7 : BitVec 32), (1#2 ++ 0#30 : BitVec 32)]
  | .cinv p a b => [(p.bits ++ 0x44#7 ++ 0#7 ++ a ++ b : BitVec 32), (0#2 ++ 0#30 : BitVec 32)]
  | .cwb p a b => [(p.bits ++ 0x44#7 ++ 0#7 ++ a ++ b : BitVec 32), (1#2 ++ 0#30 : BitVec 32)]
  | .cdis p d a b => [(p.bits ++ 0x44#7 ++ d ++ a ++ b : BitVec 32), (2#2 ++ 0#30 : BitVec 32)]
  | .seal p a b => [(p.bits ++ 0x45#7 ++ 0#7 ++ a ++ b : BitVec 32), (0#2 ++ 0#30 : BitVec 32)]
  | .unseal p a b => [(p.bits ++ 0x45#7 ++ 0#7 ++ a ++ b : BitVec 32), (1#2 ++ 0#30 : BitVec 32)]
  | .pref p a lc x => [(p.bits ++ 0x46#7 ++ 0#7 ++ a ++ lc ++ bit x ++ 0#3 : BitVec 32)]
  | .shfl p d a b => [(p.bits ++ 0x47#7 ++ d ++ a ++ b : BitVec 32)]
  | .pollAll p d a => [(p.bits ++ 0x48#7 ++ d ++ a ++ 0#7 : BitVec 32)]
  | .pollAny p d a => [(p.bits ++ 0x48#7 ++ d ++ a ++ 1#7 : BitVec 32)]
  | .pollSame p d a => [(p.bits ++ 0x48#7 ++ d ++ a ++ 2#7 : BitVec 32)]
  | .pollMask p d a => [(p.bits ++ 0x48#7 ++ d ++ a ++ 3#7 : BitVec 32)]
  | .bra p off => [(p.bits ++ 0x50#7 ++ off : BitVec 32)]
  | .brx p a => [(p.bits ++ 0x51#7 ++ 0#7 ++ a ++ 0#7 : BitVec 32)]
  | .call p off => [(p.bits ++ 0x52#7 ++ off : BitVec 32)]
  | .callx p d a => [(p.bits ++ 0x53#7 ++ d ++ a ++ 0#7 : BitVec 32)]
  | .ret p a => [(p.bits ++ 0x54#7 ++ 0#7 ++ a ++ 0#7 : BitVec 32)]
  | .exit p => [(p.bits ++ 0x55#7 ++ 0#21 : BitVec 32)]
  | .rcvb p d parkok => [(p.bits ++ 0x56#7 ++ d ++ 0#6 ++ bit parkok ++ 0#7 : BitVec 32)]
  | .rcvw p d => [(p.bits ++ 0x57#7 ++ d ++ 0#14 : BitVec 32)]
  | .tbar p => [(p.bits ++ 0x58#7 ++ 0#21 : BitVec 32)]
  | .nbarInit p d a => [(p.bits ++ 0x59#7 ++ d ++ a ++ 0#7 : BitVec 32)]
  | .nbarArrive p d a => [(p.bits ++ 0x59#7 ++ d ++ a ++ 1#7 : BitVec 32)]
  | .nbarWait p d a => [(p.bits ++ 0x59#7 ++ d ++ a ++ 2#7 : BitVec 32)]
  | .nbarArriveWait p d a => [(p.bits ++ 0x59#7 ++ d ++ a ++ 3#7 : BitVec 32)]
  | .gbar p n => [(p.bits ++ 0x5A#7 ++ 0#6 ++ n ++ 0#7 : BitVec 32)]
  | .nop p => [(p.bits ++ 0x5B#7 ++ 0#14 ++ 0#7 : BitVec 32)]
  | .yield p => [(p.bits ++ 0x5B#7 ++ 0#14 ++ 1#7 : BitVec 32)]
  | .sleep p n => [(p.bits ++ 0x5B#7 ++ n ++ 2#7 : BitVec 32)]
  | .trap p n => [(p.bits ++ 0x5C#7 ++ 0#14 ++ n : BitVec 32)]
  | .eret p => [(p.bits ++ 0x5D#7 ++ 0#21 : BitVec 32)]
  | .mma p d a b fmt amode zc tr t => [(p.bits ++ 0x60#7 ++ d ++ a ++ b : BitVec 32), (fmt ++ bit amode ++ bit zc ++ tr ++ 0#6 ++ t.bits : BitVec 32)]
  | .tld p d a t => [(p.bits ++ 0x61#7 ++ d ++ a ++ 0#7 : BitVec 32), (0#18 ++ t.bits : BitVec 32)]
  | .tst p d a t => [(p.bits ++ 0x62#7 ++ d ++ a ++ 0#7 : BitVec 32), (0#18 ++ t.bits : BitVec 32)]
  | .cpy p d a b dk sk esz t => [(p.bits ++ 0x63#7 ++ d ++ a ++ b : BitVec 32), (dk ++ sk ++ esz ++ 0#11 ++ t.bits : BitVec 32)]
  | .gathf p d a b lk t => [(p.bits ++ 0x64#7 ++ d ++ a ++ b : BitVec 32), (bit lk ++ 0#17 ++ t.bits : BitVec 32)]
  | .scatf p d a b lk rop t => [(p.bits ++ 0x65#7 ++ d ++ a ++ b : BitVec 32), (bit lk ++ rop ++ 0#14 ++ t.bits : BitVec 32)]
  | .flu p d a b fmt nm1 batch trap pms t => [(p.bits ++ 0x66#7 ++ d ++ a ++ b : BitVec 32), (fmt ++ nm1 ++ bit batch ++ bit trap ++ 0#4 ++ bit pms ++ t.bits : BitVec 32)]
  | .fchol p d a b fmt nm1 batch trap t => [(p.bits ++ 0x67#7 ++ d ++ a ++ b : BitVec 32), (fmt ++ nm1 ++ bit batch ++ bit trap ++ 0#5 ++ t.bits : BitVec 32)]
  | .fqr p d a b fmt nm1 batch t => [(p.bits ++ 0x68#7 ++ d ++ a ++ b : BitVec 32), (fmt ++ nm1 ++ bit batch ++ 0#6 ++ t.bits : BitVec 32)]
  | .ftrs p d a fmt nm1 batch pms perm trn unit up t => [(p.bits ++ 0x69#7 ++ d ++ a ++ 0#7 : BitVec 32), (fmt ++ nm1 ++ bit batch ++ 0#1 ++ bit pms ++ bit perm ++ bit trn ++ bit unit ++ bit up ++ t.bits : BitVec 32)]
  | .fupd p d a b fmt nm1 trap down t => [(p.bits ++ 0x6A#7 ++ d ++ a ++ b : BitVec 32), (fmt ++ nm1 ++ 0#1 ++ bit trap ++ 0#4 ++ bit down ++ t.bits : BitVec 32)]
  | .sopen p d a lc sp => [(p.bits ++ 0x6B#7 ++ d ++ a ++ 0#1 ++ lc ++ sp : BitVec 32)]
  | .sclose p a => [(p.bits ++ 0x6B#7 ++ 0#7 ++ a ++ 64#7 : BitVec 32)]
  | .sadv p d a => [(p.bits ++ 0x6C#7 ++ d ++ a ++ 0#7 : BitVec 32)]
  | .sseek p d a x => [(p.bits ++ 0x6C#7 ++ d ++ a ++ 1#1 ++ x : BitVec 32)]
  | .stend p d a => [(p.bits ++ 0x6D#7 ++ d ++ a ++ 0#7 : BitVec 32)]
  | .sjoin p d a kmask mode t => [(p.bits ++ 0x6E#7 ++ d ++ a ++ 0#7 : BitVec 32), (kmask ++ bit mode ++ 0#9 ++ t.bits : BitVec 32)]
  | .sfuse p d a b al be t => [(p.bits ++ 0x6F#7 ++ d ++ a ++ b : BitVec 32), (0#2 ++ al ++ be ++ 0#4 ++ t.bits : BitVec 32)]
  | .stopk p d a kind final t => [(p.bits ++ 0x6F#7 ++ d ++ a ++ 0#7 : BitVec 32), (1#2 ++ bit kind ++ bit final ++ 0#14 ++ t.bits : BitVec 32)]
  | .spawn p a eoff => [(p.bits ++ 0x70#7 ++ 0#7 ++ a ++ 0#7 : BitVec 32), (0#11 ++ eoff : BitVec 32)]
  | .spawno p d a b eoff => [(p.bits ++ 0x71#7 ++ d ++ a ++ b : BitVec 32), (0#11 ++ eoff : BitVec 32)]
  | .txb p mode foff => [(p.bits ++ 0x72#7 ++ 0#21 : BitVec 32), (bit mode ++ 0#10 ++ foff : BitVec 32)]
  | .txe p => [(p.bits ++ 0x73#7 ++ 0#21 : BitVec 32)]
  | .txa p n => [(p.bits ++ 0x74#7 ++ 0#7 ++ n ++ 0#7 : BitVec 32)]
  | .txs p d => [(p.bits ++ 0x75#7 ++ d ++ 0#14 : BitVec 32)]
  | .reggrow p d n => [(p.bits ++ 0x76#7 ++ d ++ n ++ 0#7 : BitVec 32)]
  | .regshrink p n => [(p.bits ++ 0x76#7 ++ 0#7 ++ n ++ 1#7 : BitVec 32)]
  | .mfs p d uni w64 num => [(p.bits ++ 0x77#7 ++ d ++ bit uni ++ bit w64 ++ 0#4 ++ num : BitVec 32)]
  | .mts p d uni w64 num => [(p.bits ++ 0x78#7 ++ d ++ bit uni ++ bit w64 ++ 0#4 ++ num : BitVec 32)]
  | .clkTime p d w => [(p.bits ++ 0x79#7 ++ d ++ 0#7 ++ 0#5 ++ bit w ++ 0#1 : BitVec 32)]
  | .clkCycle p d w => [(p.bits ++ 0x79#7 ++ d ++ 0#7 ++ 0#5 ++ bit w ++ 1#1 : BitVec 32)]
  | .launch p d a t => [(p.bits ++ 0x7A#7 ++ d ++ a ++ 0#7 : BitVec 32), (0#18 ++ t.bits : BitVec 32)]
  | .reservedMajor p op rest => [(p.bits ++ op ++ rest : BitVec 32)]
  | .zeroWord => [0#32]
  | _ => []

/-- The words that a decode of the pair (w, x) consumes. -/
def wordsOf (w x : BitVec 32) : List (BitVec 32) := if xMajor (fld w 21 7).toNat then [w, x] else [w]

/-- The instruction of a word and the word after it. Total: every pair of words is an instruction or a named refusal. -/
def decodeWords (w x : BitVec 32) : Except DecodeError Instr :=
  match parse w x with
  | some i =>
    if wf i && encode i == wordsOf w x then .ok i
    else if fld w 21 7 == 0x7F#7 then .error .badHeader else .error .reservedField
  | none => .error .reservedField

/-- The little-endian word at the head of a byte list (00 R6). -/
def wordOfBytes : List (BitVec 8) → Option (BitVec 32 × List (BitVec 8))
  | b0 :: b1 :: b2 :: b3 :: rest => some ((b3 ++ b2 ++ b1 ++ b0 : BitVec 32), rest)
  | _ => none

/-- Decode the bytes at the head of a list; the rest of the list is returned beside the instruction. -/
def decode (bs : List (BitVec 8)) : Except DecodeError (Instr × List (BitVec 8)) :=
  match wordOfBytes bs with
  | none => .error .truncated
  | some (w, rest) =>
    if xMajor (fld w 21 7).toNat then
      match wordOfBytes rest with
      | none => .error .truncated
      | some (x, rest') => (decodeWords w x).map (fun i => (i, rest'))
    else (decodeWords w 0#32).map (fun i => (i, rest))

/-- The little-endian bytes of a word. -/
def bytesOfWord (w : BitVec 32) : List (BitVec 8) :=
  [w.extractLsb' 0 8, w.extractLsb' 8 8, w.extractLsb' 16 8, w.extractLsb' 24 8]

/-- The instruction that the decoder reads from bits numbered as spec/opcode_table.json numbers them; bits at and
above `nbits` are zero. -/
def decodeTableWord (nbits w : Nat) : Option Instr :=
  let v := BitVec.ofNat 64 (w % 2 ^ nbits)
  match decode (bytesOfWord (v.extractLsb' 0 32) ++ bytesOfWord (v.extractLsb' 32 32)) with
  | .ok (i, _) => some i
  | .error _ => none

end Sys2Proof
end

