-- ==== Sys2Proof/Config.lean ====
section
/-! DEFINITION. What the device fixes (00 R1) and what the manual leaves open. A constant with a value is a
figure of the manual; an `opaque` constant is a free value: nothing in Lean can evaluate it, so a claim holds
whatever it is. -/

namespace Sys2Proof.Config

/-- Lanes of a spindle (00 R1, R4). -/
def laneCount : Nat := 32
/-- Compute dies (00 R1). -/
def dies : Nat := 4
/-- Pavilions per die, cores per pavilion, cores per die (00 R1). -/
def pavsPerDie : Nat := 6
def coresPerPav : Nat := 8
def coresPerDie : Nat := 48
def coreCount : Nat := 192
def pavCount : Nat := 24
/-- Quadrants per core and spindle slots per quadrant (00 R1). -/
def quadrants : Nat := 4
def slotsPerQuad : Nat := 16
/-- Faceplate rows and bytes per row of a core (00 R1). -/
def faceRows : Nat := 512
def faceRowBytes : Nat := 1024
/-- Scratchpad bytes of a core (00 R1). -/
def scratchBytes : Nat := 262144
/-- Lines of 128 bytes of a core's L1, instruction cache and register cache, those of its uniform store, and the lines of an L2 slice
(00 R1; 12 R287). -/
def l1Lines : Nat := 2048
def icacheLines : Nat := 1024
def regLines : Nat := 4096
def uniformLines : Nat := 1024
def vectorLines : Nat := 3072
def sliceLines : Nat := 16384
/-- L2 slices and memory agents per die (00 R1). -/
def slicesPerDie : Nat := 48
def agentsPerDie : Nat := 16
/-- First physical address beyond HBM, and the host physical window (18 R387). -/
def hbmTop : Nat := 0x0000_0060_0000_0000
def hostBase : Nat := 0x0008_0000_0000_0000
def hostTop : Nat := 0x0010_0000_0000_0000
/-- Bytes of one HBM stack (18 R387). -/
def stackBytes : Nat := 0xC_0000_0000
/-- Lines of a deferred store buffer (18 R394), pre-images of a slice (21 R439), rendezvous latches, cursors and
spawn bins of a core (08 R199, 10 R230, 11 R253). -/
def bufferLines : Nat := 512
def slicePreimages : Nat := 1024
def latchCount : Nat := 8
def cursorCount : Nat := 64
def binCount : Nat := 16
def binCap : Nat := 256
/-- Entries of a core's rights cache, of an agent's translation cache and of an agent's counter cache (18). -/
def rightsEntries : Nat := 2048
def tlbEntries : Nat := 8192
def counterEntries : Nat := 4096
/-- Monitors of a home slice (07 R170) and token states of a die (14 R340). -/
def monitorCount : Nat := 1024
def tokenCount : Nat := 1024
/-- Nominal and least arithmetic clock and its step in MHz (00 R8, 22 R457). -/
def nominalMhz : Nat := 4000
def leastMhz : Nat := 1000
def stepMhz : Nat := 250
/-- Parts of a ns in which a cycle of each frequency from `leastMhz` to `nominalMhz` is a whole number. -/
def nsParts : Nat := 720_720
/-- A zero generator seed is replaced by this (02 R54, 11 R260). -/
def seedForZero : Word := 0x6D2B_79F5#32

/-- Free choice n: between issue and completion of a flag-A operation a destination lane holds the old value or the
result (03 R76). -/
opaque earlyResult : Nat → Bool
/-- Free choice n: which of two values a race leaves (08 R191, 07 R154). -/
opaque raceChoice : Nat → Bool
/-- The bytes of a line that the device has written into a checkpoint or log chunk, free choice n (14 R323). -/
opaque chunkBytes : Nat → BitVec 1024
/-- What a read of n bytes in the reserved range of physical addresses gives in a cycle, where no memory answers (18 R387): cycle, address, n. -/
opaque reservedRead : Nat → Nat → Nat → Nat
/-- SHAKE256-256 of a byte string given as a number (22 R460): a function of NIST FIPS 202, outside the manual. -/
opaque shake256 : Nat → Nat
/-- Whether an XMSS-SHAKE256_20_256 signature verifies (22 R460): key, hash, signature. -/
opaque xmssVerify : Nat → Nat → Nat → Bool
/-- The parts of an XMSS-SHAKE256_20_256 signature with a state index over nonce, measurement, DEVNUM and FWMIN: r, the 67 chain values and the 20 nodes
of the path (22 R460). -/
opaque xmssRandom : Nat → Nat → Nat → Nat → Nat → BitVec 256
opaque xmssChains : Nat → Nat → Nat → Nat → Nat → BitVec 17152
opaque xmssPath : Nat → Nat → Nat → Nat → Nat → BitVec 5120
/-- The bytes of a firmware image's header and body, of its VERSION, its MINVER and its body: what its signature and its measurement cover (22 R460). -/
opaque imageBytes : Nat → Nat → Nat → Nat
/-- The hash of the signing key fused at manufacture (22 R460). -/
opaque fusedKeyHash : Nat

/-- Metered energy in µJ of the tick that falls due at a time: of a core, of memory, L2 and links, and static (22 R455). -/
opaque coreEnergy : Nat → Nat → Nat
opaque memoryEnergy : Nat → Nat
opaque staticEnergy : Nat → Nat
/-- Sensor readings of free choice n: hottest sensor of a die in °C and its lowest core supply in mV (22 R459). -/
opaque dieTemperature : Nat → Nat → Nat
opaque dieSupply : Nat → Nat → Nat
/-- The duration in ms of a bring-up, under 5 s (22 R461). -/
opaque bringUpMs : Nat → Fin 5001
/-- Whether HBM comes up in a bring-up (22 R458, R461). -/
opaque memoryTrains : Nat → Bool
/-- Whether the patterns of a rotation scan pass (21 R446). -/
opaque scanPasses : Nat → Bool
/-- The number of the device at the far end of a Lamvo port, 0 where none is (19 R421). -/
opaque portPeer : Nat → BitVec 18
/-- The Lamvo port has a far end that trains with it at a bring-up (22 R461). -/
opaque portTrains : Nat → Bool
/-- The HBM channel, 0 to 31, of a physical address of its stack (22 R459). -/
opaque hbmChannel : Nat → Fin 32

end Sys2Proof.Config
end

