-- ==== Sys2Proof/Machine/State.lean ====
section
/-! DEFINITION. The machine's state, as plain data: everything the manual gives the module, from a lane's
registers (01 R13) to the counters that outlive every reset (22 R459). Sparse files (`Cells`, `Memory`) hold
only their cells that are not zero, by rising key, so equal contents are equal data. -/

namespace Sys2Proof.Machine

open Sys2Proof

/-- Physical memory: bytes by physical address, HBM and host memory (18 R387). Unlisted bytes read as zero. -/
abbrev Memory := List Host.Cell

/-- Rising keys and no zero cell: the one form of a sparse file. -/
def cellsWf {w : Nat} : List (Nat × BitVec w) → Bool
  | [] => true
  | [(_, v)] => v != 0#w
  | (k, v) :: (k', v') :: r => v != 0#w && decide (k < k') && cellsWf ((k', v') :: r)

/-- Memory stands in its canonical form. -/
abbrev Memory.wf (m : Memory) : Prop := cellsWf m = true

/-- What holds a lane at its word (12 R277). -/
inductive Hold where
  /-- `RCVW wN` (05 R124). -/
  | rcvw (n : Nat)
  /-- `TBAR` (07 R178). -/
  | tbar
  /-- `NBAR.WAIT` or `NBAR.ARRIVEWAIT` on bN with the phase it waits to leave and the token pair (07 R179). -/
  | nbar (n pair : Nat) (phase : Bool)
  /-- `GBAR n` (07 R181). -/
  | gbar (n : Nat)
  /-- `TXE` (11 R259). -/
  | txe
  /-- `REGGROW` by chunks, with its predicate; `id` tells its request from others (11 R263). -/
  | reggrow (pd chunks id : Nat)
  /-- `REGSHRINK` by chunks; `id` tells it from others (11 R263). -/
  | regshrink (chunks id : Nat)
  /-- A holding instruction of 07 R151 whose effect is under way; it takes this many bytes of text. -/
  | completing (len : Nat)
  /-- An ordered thread at its commit point, waiting for its token (14 R338). -/
  | token
  /-- An ordered thread in serial mode at its entry, waiting for its token (14 R339). -/
  | serial
  deriving DecidableEq, Repr

/-- The state of a lane (12 R277). `stalled` and `header` refine Eligible: the fragment is not ready. -/
inductive LaneSt where
  | eligible
  /-- Not ready: the word issues again (12 R281, 18 R389). -/
  | stalled
  /-- Stopped at a header until its WAIT flags are clear (03 R74). -/
  | header
  | parked
  | held (h : Hold)
  | waiting
  | sleeping (til : Nat)
  | backoff (til : Nat)
  | exited
  deriving DecidableEq, Repr

/-- A per-lane fault record (12 R297), without its VALID bit; `tissue` is the device time at which its word issued (11 R271). -/
structure LaneRec where
  cause : BitVec 8
  defer : Bool
  pending : Bool
  chained : Bool
  acc : BitVec 5
  wpart : BitVec 8
  rights : BitVec 16
  pc : DWord
  addr : DWord
  tissue : Nat
  tdetect : Nat
  deriving DecidableEq, Repr

/-- A command's snapshot (08 R187, 11 R464); `chained`: its word is not the first of its chain (12 R297). -/
structure Snap where
  w0 : Word
  w1 : Word
  spidx : Nat
  pc : DWord
  tacc : Nat
  chained : Bool
  regs : List Word
  deriving DecidableEq, Repr

/-- A range already written when a command ends early (12 R298 PARTW). -/
structure PartRange where
  space : Nat
  start : Nat
  len : Nat
  deriving DecidableEq, Repr

/-- A deferred report (12 R298). `unserved` holds the list positions that no owner served (08 R206). -/
structure DefRec where
  cause : BitVec 8
  kind : Nat
  toTeam : Bool
  dropped : Bool
  wlane : Nat
  wspidx : Nat
  agent : Nat
  wteam : Nat
  later : Nat
  wpc : DWord
  addr : DWord
  tissue : Nat
  tdetect : Nat
  bmask : BitVec 128
  acc : BitVec 5
  parts : List PartRange
  unserved : List Nat
  snap : Option Snap
  deriving DecidableEq, Repr

/-- A deferred report on its way to the team at a position (12 R298, 08 R186, 18 R397). `mayKill`: it kills a
team that has ended; without it the report is dropped then (17 R375). -/
structure Report where
  team : Nat
  info : DefRec
  mayKill : Bool
  deriving DecidableEq, Repr

/-- A line of a transaction's log (14 R322). -/
structure TxLine where
  ea : Nat
  ln : Nat
  version : Nat
  mask : BitVec 128
  data : BitVec 1024
  deriving DecidableEq, Repr

/-- An open transaction of a lane (11 R256, 14 R322). `ts`: timestamp validation; `chkRegs` are the v registers whose lines it has written
first, which copied them into the checkpoint chunks. -/
structure Txn where
  ts : Bool
  fallback : DWord
  txbpc : DWord
  start : Nat
  chkV : Cells 32
  chkP : BitVec 7
  chkFlags : BitVec 6
  chkRng : Word
  chkRegs : List Nat
  reads : List TxLine
  writes : List TxLine
  deriving DecidableEq, Repr

/-- The status word of R262 that lives on after the transaction, less OPEN and ATT. -/
structure TxStatus where
  committed : Bool
  cause : BitVec 3
  xcode : BitVec 7
  fcause : BitVec 8
  deriving DecidableEq, Repr

/-- A waiting lane's compare (07 R169): address space, address, compare, width, comparand, its acquire, its destination and the device time of
its issue. `counted`: SUBSTCNT has counted the word's sector for its `WAITC` (21 R435). -/
structure Monitor where
  ea : Nat
  va : DWord
  cmp : BitVec 4
  w64 : Bool
  operand : DWord
  acq : Bool
  scope : BitVec 3
  dest : Nat
  tissue : Nat
  counted : Bool
  deriving DecidableEq, Repr

/-- A release that reached a lane while it could not take it (07 R171, 11 R272): where it goes on and the value it
receives. -/
structure Release where
  pc : DWord
  val : Option DWord
  deriving DecidableEq, Repr

/-- One thread's state outside the v registers and predicates (01 R13, R26, R36). `issued` is the device time at which its last word issued
(11 R271), `chained` says that this was not the first word of its chain (12 R297), `imgcause` is the TCAUSE that the image in memory was given last. -/
structure Lane where
  pc : DWord
  st : LaneSt
  stamp : Nat
  issued : Nat
  chained : Bool
  priv : Bool
  tx : Bool
  spec : Bool
  rollbk : Bool
  txatt : BitVec 4
  fpflags : BitVec 6
  rng : Word
  boff : Word
  tcause : BitVec 9
  imgcause : BitVec 9
  tcode : BitVec 7
  txstat : TxStatus
  restart : Bool
  serial : Bool
  record : Option LaneRec
  page : Option (Nat × Nat)
  pendingTrap : Bool
  deferred : Option DefRec
  monitor : Option Monitor
  rel : Option Release
  txn : Option Txn
  seq : Word
  deriving DecidableEq, Repr

/-- What the device keeps of a trapped spindle while its handler runs (11 R272, R274): its own fields; the rest of
the image is in memory. `wrel` marks the reconvergence barriers that have released since; `barred` is as in `Spindle`. -/
structure Trapped where
  lanes : List Lane
  lmask : LaneMask
  cause : BitVec 16
  vcount : Nat
  k : Cells 8
  uchunk : Nat
  chunks : List Nat
  frame : DWord
  epc : List DWord
  gang : DWord
  ftz : Bool
  txctl : BitVec 12
  wpart : Cells 32
  warr : Cells 32
  wpark : BitVec 8
  wrel : BitVec 8
  barred : Option Hold
  deriving DecidableEq, Repr

/-- Where a spindle stands. -/
inductive SpSt where
  | resident
  | dormant
  | suspended
  | ended
  deriving DecidableEq, Repr

/-- A spindle: its place, its uniform state and its lanes' registers (01 R13, R35-R37), with the marks of its vector lines and, in `upoison`, of the
lines of its uniform store (12 R287; 21 R430). v register r of lane l is
cell 32 r + l of `v`; p register n is the lane mask in cell n of `p`; entry i of pm n is cell 128 n + i of `pm`
exclusive-or i, so that the dispatch value is zero. `txchunks` holds the checkpoint chunks, under 32, and each lane's log chunks (14 R323). `age` orders the spindles of a quadrant, `aged` is the
cycle of its last change (12 R283); `stopped`: a delivery has begun and waits for the flags (11 R269); `barred` is the team barrier or group at
which the spindle has arrived (07 R178, R181), `want` the vector lines whose fetch for its next chain has started (12 R288). -/
structure Spindle where
  team : Nat
  idx : Nat
  core : Nat
  quad : Nat
  slot : Nat
  st : SpSt
  crank : Nat
  age : Nat
  aged : Nat
  vcount : Nat
  v : Cells 32
  vpoison : Cells 4
  upoison : Cells 4
  s : Cells 32
  p : Cells 32
  f : Cells 6
  wpart : Cells 32
  warr : Cells 32
  wpark : BitVec 8
  k : Cells 8
  pm : Cells 8
  gang : DWord
  ftz : Bool
  srseed : Word
  txctl : BitVec 12
  bankconf : Word
  lanes : List Lane
  uchunk : Nat
  chunks : List Nat
  txchunks : List (Nat × Nat)
  entry : DWord
  domain : DWord
  stopped : Bool
  want : List Nat
  wantPc : DWord
  fresh : Bool
  barred : Option Hold
  trapped : Option Trapped
  deriving DecidableEq, Repr

/-- A named barrier (01 R19). `init` is false until the first `NBAR.INIT`. -/
structure NBar where
  init : Bool
  expected : Nat
  arrived : Nat
  bytes : BitVec 48
  phase : Bool
  deriving DecidableEq, Repr

/-- A thread to be: a record of a bin or of the spawn arena (11 R255). -/
structure SpawnRec where
  entry : DWord
  domain : DWord
  args : List Word
  seq : Word
  ordered : Bool
  slot : Nat
  deriving DecidableEq, Repr

/-- Team states (17 R367). -/
inductive TeamSt where
  | pending
  | reserved
  | running
  | suspending
  | suspended
  | ended
  | killed
  deriving DecidableEq, Repr

/-- A kill report (17 R379). -/
structure KillRep where
  cause : BitVec 8
  hcause : BitVec 8
  source : Nat
  lmask : LaneMask
  spidx : Nat
  pc : DWord
  addr : DWord
  parts : List PartRange
  deriving DecidableEq, Repr

/-- Cursor states (10 R230). -/
inductive CursorSt where
  | ready
  | atEnd
  | failed
  deriving DecidableEq, Repr

/-- A cursor that is not FREE (10 R230): list base, NB, lease class, block b and posting i, the block's
offset and header, its packed areas when they have been read (R234: the documents, the impact area, and its poisoned 32-byte sectors by address with
whether the page is error-tolerant), and the last document of the block processed before. -/
structure Cursor where
  core : Nat
  num : Nat
  rank : Nat
  team : Nat
  sp : Nat
  base : DWord
  nb : Nat
  lc : BitVec 3
  b : Nat
  i : Nat
  off : Nat
  hdr : BitVec 128
  packed : Bool
  docs : List Nat
  impacts : Nat
  impBad : List (Nat × Bool)
  lastDoc : Option Nat
  st : CursorSt
  closing : Bool
  saved : Bool
  deriving DecidableEq, Repr

/-- A flag-A operation between issue and completion (03 R75, R76): the v cells and the predicate bits it will write, and
the registers of a second destination. -/
structure PendingOp where
  id : Nat
  sp : Nat
  flag : Nat
  lanes : LaneMask
  writes : List (Nat × Word)
  pwrites : List (Nat × Nat × Bool)
  second : List Nat
  deriving DecidableEq, Repr

/-- A member's part of an `MMA` (08 R199): its live lanes, its B registers, register j of lane l in cell 32 j + l, and
whether a live lane's register was poisoned (21 R433). -/
structure Share where
  spidx : Nat
  live : LaneMask
  b : Cells 32
  poison : Bool
  deriving DecidableEq, Repr

/-- A member that has arrived at a rendezvous latch (08 R199). -/
structure LatchMember where
  sp : Nat
  lanes : LaneMask
  flag : Nat
  snap : Snap
  sregs : Cells 32
  share : Share
  deriving DecidableEq, Repr

/-- A rendezvous latch (08 R199). -/
structure Latch where
  core : Nat
  rank : Nat
  team : Nat
  gang : DWord
  w0 : Word
  w1 : Word
  instr : Instr
  members : List LatchMember
  bad : Bool
  saved : Bool
  deriving DecidableEq, Repr

/-- A 128-byte unit that a snapshot copies before the interval's first write of it: line `line` of the image of spindle number `sp` of the
state, the vector lines after the 16 uniform ones; or a unit of the team's scratchpad shares or faceplate rows (21 R438). -/
inductive SnapUnit where
  | image (sp line : Nat)
  | scratch (n : Nat)
  | face (n : Nat)
  deriving DecidableEq, Repr

/-- What a rollback restores (21 R438), copied at the interval's opening, with the flag-A operations under way then; and the units whose
copies the interval has taken, with the chunks that hold them. -/
structure Snapshot where
  spindles : List (Nat × Spindle)
  scratch : Cells 8
  scratchPoison : List Nat
  face : Cells 8
  facePoison : List Nat
  nbars : List NBar
  tbcount : Nat
  spawntimer : Word
  substcnt : Word
  metaskip : Word
  cursors : List Cursor
  ops : List PendingOp
  latches : List Latch
  units : List SnapUnit
  chunks : List Nat
  deriving DecidableEq, Repr

/-- A team (00 R4, 17). `prev` is its state code when its partition's halt began (22 R453). Registers of team scope stand here (01 R24); the scratchpad byte at offset o of rank r is
cell 2^18 r + o of `scratch`, the byte b of faceplate row j of rank r cell 1024 (512 r + j) + b of `face`. -/
structure Team where
  launch : Nat
  part : Nat
  idx : Nat
  st : TeamSt
  cores : Nat
  share : Nat
  tiles : Nat
  nspin : Nat
  ranks : List Nat
  pav : Nat
  qdie : Nat
  sdie : Nat
  since : Nat
  dispatched : Nat
  suspSeq : Nat
  tsusp : Nat
  tres : Nat
  prev : Nat
  prio : BitVec 4
  rollb : Bool
  spawntimer : Word
  regarena : DWord
  spawnarena : DWord
  substcnt : Word
  metaskip : Word
  energyused : Nat
  nbars : List NBar
  tbcount : Nat
  chunks : List Nat
  growq : List Nat
  arena : List SpawnRec
  arenaHead : Nat
  scratch : Cells 8
  scratchPoison : List Nat
  face : Cells 8
  facePoison : List Nat
  reserve : Option Nat
  kill : Option KillRep
  interval : BitVec 32
  ineligible : Bool
  retried : Bool
  snap : Option Snapshot
  deriving DecidableEq, Repr

/-- Launch states (17 R358). -/
inductive LaunchSt where
  | waiting
  | ready
  | admitted
  | running
  | complete
  deriving DecidableEq, Repr

/-- A launch record as read (17 R354). -/
structure LaunchRec where
  entry : DWord
  teams : Nat
  spindles : Nat
  vcount : Nat
  cores : Nat
  prio : Nat
  coop : Bool
  priv : Bool
  rollb : Bool
  ndep : Nat
  scratch : Nat
  tiles : Nat
  grouptab : DWord
  rabase : DWord
  rasize : Nat
  sasize : Nat
  dlcontrib : Nat
  energy : Nat
  done : DWord
  deps : List (DWord × Nat)
  args : List Word
  deriving DecidableEq, Repr

/-- A launch (17 R358). `grouptab` is its GROUPTAB register (01 R24); `step` is the cooperative step of R364; `issuer` is the spindle and command it came from. -/
structure Launch where
  num : Nat
  part : Nat
  recva : DWord
  die : Nat
  st : LaunchSt
  info : LaunchRec
  grouptab : DWord
  prio : Nat
  priv : Bool
  root : Bool
  sat : List Bool
  step : Nat
  next : Nat
  issuer : Option (Nat × Snap)
  anyKilled : Bool
  abandoned : Bool
  discarded : Bool
  cause : BitVec 8
  deriving DecidableEq, Repr

/-- A partition with its context's registers and accounts (17 R380, 01 R24, 22 R449-R454). `haltReason` is not 0 from the
beginning of a halt, `halted` from its end (22 R452). -/
structure Partition where
  pnum : BitVec 16
  pavs : List Nat
  share : Nat
  started : Bool
  halted : Bool
  haltReason : Nat
  haltTime : Nat
  haltDie : Nat
  asid : BitVec 14
  trapvec : DWord
  tframe : DWord
  tiletab : DWord
  bindtab : DWord
  deadline : DWord
  used : Nat
  energyres : Int
  nextLaunch : Nat
  deriving DecidableEq, Repr

/-- The engines that take commands (08 R183, 09 R207, 10 R232, 11 R252, R267). -/
inductive Engine where
  | matrix
  | copy
  | gather
  | ple
  | spawn
  | distributor
  deriving DecidableEq, Repr

/-- Where a command stands (08 R190, R188, R192): not started; past its first read; its last access made. -/
inductive CmdSt where
  | queued
  | started
  | ran
  deriving DecidableEq, Repr

/-- An accepted engine command (08 R183-R188): its instruction, its snapshot, the register values read at issue, the
page it waits for, the other gang members, the list positions that other devices still owe, each with its device, and those whose owner it
cannot reach (R206), the addresses of its rows of other devices and the lease class of their copies (R204), the ranges it has
written and the results it will deliver. `priv` and `launch` serve a `LAUNCH`: its issuer's mode and the record read. `written` holds what a command with writes to come has written, as space, key and length (21 R434). `scratchOld` holds, for each scratchpad byte that a thread wrote since its issue, the
old value exclusive-or the new; `scratchNew` holds, for each that it has written itself, its value in bits 7 to 0, bit 8 set, and above it the other value that
the byte may have until the command completes (R191). -/
structure Cmd where
  id : Nat
  core : Nat
  rank : Nat
  team : Nat
  sp : Nat
  engine : Engine
  instr : Instr
  snap : Snap
  sregs : Cells 32
  kregs : Cells 8
  pm : Cells 8
  lanes : LaneMask
  charges : List (Nat × Nat)
  shares : List Share
  threads : List SpawnRec
  scratchOld : Cells 8
  scratchNew : Cells 17
  st : CmdSt
  saved : Bool
  page : Option (Nat × Nat)
  others : List (Nat × Snap)
  remote : List (Nat × Nat)
  asked : Nat
  lost : List Nat
  rowVas : List (Nat × DWord)
  lease : Nat
  parts : List PartRange
  swrites : List (Nat × Word)
  pmwrite : Option (Nat × List Nat)
  pwrite : Option (Nat × Bool)
  bytes : Nat
  priv : Bool
  launch : Option LaunchRec
  written : List (Nat × Nat × Nat)
  deriving DecidableEq, Repr

/-- A spawn bin that belongs to a team (11 R253). `start` is the cycle its timer started, `ready` the cycle it became
ready to launch; `elapsed` carries the timer across a suspension (12 R294). -/
structure Bin where
  core : Nat
  num : Nat
  rank : Nat
  team : Nat
  entry : DWord
  domain : DWord
  ordered : Bool
  threads : List SpawnRec
  start : Nat
  ready : Option Nat
  saved : Bool
  elapsed : Nat
  deriving DecidableEq, Repr

/-- A request for a domain's commit token (14 R340). `granted` once the token has reached the thread. -/
structure TokenReq where
  ea : Nat
  va : DWord
  seq : Word
  sp : Nat
  lane : Nat
  since : Nat
  granted : Bool
  deriving DecidableEq, Repr

/-- The store instruction that dirtied a line first (18 R396). -/
structure Tag where
  team : Nat
  idx : Nat
  lane : Nat
  pc : Word
  time : Nat
  size : Nat
  atomic : Bool
  deriving DecidableEq, Repr

/-- The contents of a 128-byte line wherever it stands: bytes, which of them are held and which dirty, the marks of its
four sectors, the sectors a full-sector store has written (21 R431), its writer tag and LATER (18 R396). -/
structure Line where
  data : BitVec 1024
  valid : BitVec 128
  dirty : BitVec 128
  poison : BitVec 4
  full : BitVec 4
  tag : Option Tag
  later : Nat
  deriving DecidableEq, Repr

/-- A pre-image of a rollback interval (21 R439). -/
structure Undo where
  team : Nat
  interval : BitVec 32
  line : Line
  pend : Bool
  deriving DecidableEq, Repr

/-- A line at its home slice (13 R304, 14 R327, 18 R393), with the pre-images that open intervals keep there (21 R439). -/
structure HomeLine where
  ea : Nat
  ln : Nat
  line : Line
  version : Nat
  owner : Option Nat
  pend : Bool
  undo : List Undo
  deriving DecidableEq, Repr

/-- A copy of a line in a core's L1 (13 R303-R306). `til` is the lease's end in device time, none for a copy that does not expire (lease
class 7, a sealed or owned copy), 0 for a core's own bytes without a lease; `oteam` is the team whose request won the ownership (21 R439). -/
structure L1Line where
  core : Nat
  ea : Nat
  ln : Nat
  line : Line
  owned : Bool
  oteam : Nat
  til : Option Nat
  isSealed : Bool
  deriving DecidableEq, Repr

/-- A copy, in a slice of die `die`, of a line of another device's memory (01 R31; 08 R204; 13 R307): the bytes held, their marks and the
lease's end in device time, none for a copy that does not expire. -/
structure RemoteLine where
  die : Nat
  dev : Nat
  ea : Nat
  ln : Nat
  data : BitVec 1024
  valid : BitVec 128
  poison : BitVec 4
  til : Option Nat
  deriving DecidableEq, Repr

/-- A line of a core's instruction cache (18 R408). -/
structure ICLine where
  core : Nat
  ea : Nat
  ln : Nat
  data : BitVec 1024
  poison : BitVec 4
  deriving DecidableEq, Repr

/-- A rights cache entry (18 R389) or a translation cache entry (R390, with `unit` the agent): the leaf of `span`
4 KiB pages from `page`. -/
structure LeafEntry where
  unit : Nat
  ea : Nat
  page : Nat
  span : Nat
  leaf : DWord
  deriving DecidableEq, Repr

/-- A deferred store buffer entry (18 R394). -/
structure BufEntry where
  agent : Nat
  ea : Nat
  ln : Nat
  line : Line
  deriving DecidableEq, Repr

/-- A page request not yet served (18 R392). `queued`: it stands in the ring. -/
structure PageReq where
  ea : Nat
  page : Nat
  kind : Nat
  time : Nat
  queued : Bool
  deriving DecidableEq, Repr

/-- The access counters of a 64 KiB page (18 R403). -/
structure Counter where
  agent : Nat
  ea : Nat
  page : Nat
  c0 : Nat
  c1 : Nat
  c2 : Nat
  c3 : Nat
  deriving DecidableEq, Repr

/-- A leaf that is to move: its entry's address, the leaf before it was locked, its first page, its pages and its new frame. -/
structure LeafMove where
  slot : Nat
  leaf : DWord
  first : Nat
  span : Nat
  frame : Nat
  deriving DecidableEq, Repr

/-- A page move (18 R406): its leaves, its new home, the last step done and the cycle of that; `ordered`: the head of the command ring commands it. -/
structure Move where
  ea : Nat
  home : Nat
  leaves : List LeafMove
  step : Nat
  since : Nat
  ordered : Bool
  deriving DecidableEq, Repr

/-- A device write of n bytes of v for a team that waits for its line (19 R413; 18 R394). -/
structure DevPut where
  team : Nat
  asid : BitVec 14
  va : DWord
  n : Nat
  v : Nat
  deriving DecidableEq, Repr

/-- A commit that waits within its second step: its spindle, its lanes, the lines it has locked, and whether it waits for an absent page (14 R329,
R330, R338). -/
structure Commit where
  sp : Nat
  lanes : LaneMask
  locks : List (Nat × Nat)
  parked : Bool
  deriving DecidableEq, Repr

/-- The memory side: physical bytes and marks, homes, caches, buffers and requests (13, 18, 21 R430). `hostHeld` names
the lines the host caches, `hostWait` the lines asked back and the dies waited for, each with the time since (19 R413, R419), `drops` the discarded writes whose report is due
(18 R395), `puts` the device's writes that wait, `commits` the commits that hold locks,
`remote` the copies of other devices' lines, `moves` the page moves under way (18 R406), `served` the requests served for each team
in the present tick of the energy account (22 R455). -/
structure MemSys where
  phys : Memory
  marks : List Nat
  home : List HomeLine
  l1 : List L1Line
  icache : List ICLine
  rights : List LeafEntry
  tlb : List LeafEntry
  buf : List BufEntry
  reqs : List PageReq
  floors : Cells 64
  seals : List (Nat × Nat)
  counters : List Counter
  hostHeld : List Nat
  hostWait : List (Nat × Nat)
  drops : List BufEntry
  puts : List DevPut
  commits : List Commit
  remote : List RemoteLine
  moves : List Move
  served : Cells 64
  deriving DecidableEq, Repr

/-- The registers of the Adeol module controller (18 R404, R409; 19 R421; 21 R444; 22 R458). -/
structure Adeol where
  astbase : DWord
  rmapbase : DWord
  hostframes : DWord
  tcq : DWord
  prq : DWord
  fpool0 : DWord
  fpool1 : DWord
  fpool2 : DWord
  fpool3 : DWord
  fret : DWord
  place : DWord
  placestat : DWord
  isolto : DWord
  fenced : DWord
  hdm : DWord
  lroute : DWord
  lport : Cells 64
  rollctl : DWord
  rollstat : DWord
  errring : DWord
  errstat : DWord
  scanctl : DWord
  scanrec : DWord
  scanstat : DWord
  cfence0 : DWord
  cfence1 : DWord
  cfence2 : DWord
  powercap : DWord
  dumpbase : DWord
  haltstat : DWord
  lifesel : DWord
  bootstat : DWord
  erate : Cells 64
  emax : Cells 64
  staged : List (Nat × DWord)
  deriving DecidableEq, Repr

/-- Module non-volatile memory and the controller's firmware state (22 R459, R460). `pend` holds the counts not yet
committed; `image` is the stored firmware; `recovery` is the state after a failed check. -/
structure Nvm where
  life : Cells 64
  pend : Cells 64
  attidx : Nat
  fwmin : Nat
  measurement : Nat
  image : FirmwareImage
  recovery : Bool
  deriving DecidableEq, Repr

/-- Device time in ns, the arithmetic clock and the core cycle count (00 R8, 22 R457). `frac` is the part of a ns
already spent, in units of 1/`Config.nsParts` ns, which a cycle of every frequency has whole; `coreBase` the cycle of each core's last reset. -/
structure Clock where
  ns : Nat
  frac : Nat
  mhz : Nat
  cycle : Nat
  coreBase : Cells 64
  deriving DecidableEq, Repr

/-- What the module meters (22 R455, R457): its power in W over the last tick of the energy account, if the clock has not moved since; the cycle in which the
present tick began; and the issue and engine cycles of each core's teams in it. -/
structure Meter where
  watts : Option Nat
  since : Nat
  cycles : List ((Nat × Nat) × Nat)
  deriving DecidableEq, Repr

/-- The links (19 R416, R421): the Lamvo ports that have trained since the bring-up, and the UCIe links, by die pair, that have failed. -/
structure Links where
  trained : List Nat
  down : List Nat
  deriving DecidableEq, Repr

/-- The rotation scan (21 R446): the core under test, the next one, when the last scan began and when the core last
held a team. -/
structure Scan where
  core : Option Nat
  next : Nat
  began : Nat
  held : Nat
  deriving DecidableEq, Repr

/-- Device times in ns at which the next placement interval, energy tick, lifetime minute and commit fall due (18 R405;
22 R454, R459). -/
structure Due where
  place : Nat
  energy : Nat
  minute : Nat
  commit : Nat
  deriving DecidableEq, Repr

/-- The word that issues: the spindle's position, the lanes of its fragment, the word's address and its words.
`more`: its chain has a further word; `chained`: it is not the first of its chain; `rest`: the words of its chain that follow it, fetched
with it (03 R70, R71, R463). -/
structure Issue where
  sp : Nat
  lanes : LaneMask
  pc : DWord
  w0 : Word
  w1 : Word
  chained : Bool
  more : Bool
  rest : List (Word × Word)
  clear : Bool
  deriving DecidableEq, Repr

/-- The pipes (03 R81). -/
inductive Pipe where
  | a | f | s | m | b | e
  deriving DecidableEq, Repr

/-- A pick of the present cycle: the spindle, the pipes that its chain uses and the lines that it reads from each register bank (12 R284,
R285). -/
structure Pick where
  sp : Nat
  pipes : List Pipe
  banks : List Nat
  deriving DecidableEq, Repr

/-- A vector line in a core's register cache (12 R287-R290): the line of v register `reg` of a spindle, and the chain, by its PC, for which it is
gathered. The list holds them by rising time of
their last use. -/
structure RegLine where
  core : Nat
  sp : Nat
  reg : Nat
  dirty : Bool
  gathered : Option DWord
  deriving DecidableEq, Repr

/-- What the module answers the host and other devices: a partition start's cause (17 R357, 0 for success), an attestation's
signature, none for EXHAUSTED (22 R460), the data of a host access or snoop by physical address (19 R413, R414), a row
for another device by its tag, with the sectors of it that are marked on an error-tolerant page, what became of a row that it sent or asked for (0: it is applied; else the cause that refused it; 08 R206),
and what it asks of and sends to other devices: a row at an address under an ASID, for list position `pos` of a command, and a row to be applied under ROP with its marks (19 R418). -/
inductive Reply where
  | start (pnum cause : Nat)
  | attest (signature : Option Nat)
  | host (pa data : Nat)
  | row (tag data tolerant : Nat)
  | acknowledgement (tag cause : Nat)
  | ask (dev asid va size id pos : Nat)
  | send (dev asid va rop size data marks id pos : Nat)
  deriving DecidableEq, Repr

/-- The whole module. `agenda` holds the events of the host, the driver, the links and the units that take place
before the next issue; `reports` are the deferred reports not yet taken; `turn` is the quadrant that picks next in this cycle, `picks` are the picks of this cycle and
`quiet` holds the cycle in which a quadrant picks again (12 R284, R285); `rcache` holds the vector lines of the register caches; `reentry` holds the length of a warm re-entry that waits for its halts (22 R461); `signing` is the
index and the nonce of an attestation whose index is committed (22 R460); `free` counts the free values used. -/
structure State where
  cur : Issue
  agenda : List Instr
  turn : Nat
  picks : List Pick
  ports : List (Nat × Option Nat)
  quiet : Cells 64
  rcache : List RegLine
  free : Nat
  nextId : Nat
  clock : Clock
  spindles : List Spindle
  teams : List Team
  launches : List Launch
  parts : List Partition
  ops : List PendingOp
  cmds : List Cmd
  latches : List Latch
  cursors : List Cursor
  bins : List Bin
  tokens : List TokenReq
  mem : MemSys
  adeol : Adeol
  nvm : Nvm
  scan : Scan
  links : Links
  meter : Meter
  signing : Option (Nat × BitVec 256)
  reentry : Option Nat
  leaseL1 : DWord
  leaseL2 : DWord
  devnum : BitVec 18
  deadDevices : List Nat
  due : Due
  distNext : Nat
  distMsgs : List Nat
  hostReplies : List Reply
  reports : List Report
  deriving DecidableEq, Repr

/-- Why the machine stops with a fault. No step of it does: every exception of the manual is taken, and an access that has no target reads a free
value (log entry 5). -/
inductive Fault where
  deriving DecidableEq, Repr

/-- Why a step has no meaning. -/
inductive Refusal where
  /-- The instruction's meaning is not written. Safe: nothing is claimed of it. No arm of `exec` raises it. -/
  | notModelled (mnemonic : String)
  deriving DecidableEq, Repr

/-- The measurement of an image (22 R460). -/
def measureImage (i : FirmwareImage) : Nat := Config.shake256 (Config.imageBytes i.version i.minver i.body)
/-- The image that the module came up with. -/
def firstImage : FirmwareImage := { key := 0, body := 0, signature := 0, version := 0, minver := 0, ms := 0 }

def Adeol.reset : Adeol :=
  { astbase := 0#64, rmapbase := 0#64, hostframes := 0#64, tcq := 0#64, prq := 0#64, fpool0 := 0#64, fpool1 := 0#64,
    fpool2 := 0#64, fpool3 := 0#64, fret := 0#64, place := 0x0020_4010_03E8_0000#64, placestat := 0#64,
    isolto := 200#64, fenced := 0#64, hdm := 0#64, lroute := 0#64, lport := [], rollctl := 16384#64, rollstat := 0#64,
    errring := 0#64, errstat := 0#64, scanctl := 0x8000_003C_0000_07D0#64, scanrec := 0#64, scanstat := 0#64,
    cfence0 := 0#64, cfence1 := 0#64, cfence2 := 0#64, powercap := 3200#64, dumpbase := 0#64, haltstat := 0#64,
    lifesel := 0#64, bootstat := 0#64, erate := [], emax := [], staged := [] }

def MemSys.reset : MemSys :=
  { phys := [], marks := [], home := [], l1 := [], icache := [], rights := [], tlb := [], buf := [], reqs := [],
    floors := [], seals := [], counters := [], hostHeld := [], hostWait := [], drops := [], puts := [], commits := [], remote := [], moves := [], served := [] }

/-- The module right after a cold reset: phase 6 of 22 R461, no partition started, every register at its reset
value. -/
def State.reset : State :=
  { cur := { sp := 0, lanes := 0#32, pc := 0#64, w0 := 0#32, w1 := 0#32, chained := false, more := false, rest := [], clear := false },
    agenda := [], turn := 0, picks := [], ports := [], quiet := [], rcache := [], free := 0, nextId := 0,
    clock := { ns := 0, frac := 0, mhz := 4000, cycle := 0, coreBase := [] },
    spindles := [], teams := [], launches := [], parts := [], ops := [], cmds := [], latches := [], cursors := [],
    bins := [], tokens := [], mem := MemSys.reset, adeol := Adeol.reset,
    nvm := { life := [], pend := [], attidx := 0, fwmin := 0, measurement := measureImage firstImage, image := firstImage, recovery := false },
    scan := { core := none, next := 0, began := 0, held := 0 }, links := { trained := [], down := [] },
    meter := { watts := none, since := 0, cycles := [] }, signing := none, reentry := none,
    leaseL1 := 0x00FF_8040_1004_0100#64, leaseL2 := 0x00FF_8040_1004_0100#64, devnum := 0#18, deadDevices := [],
    due := { place := 1_000_000, energy := 1000, minute := 60_000_000_000, commit := 600_000_000_000 }, distNext := 0, distMsgs := [], hostReplies := [], reports := [] }

end Sys2Proof.Machine
end

