-- ==== Sys2Proof/Machine/Cells.lean ====
section
/-! DEFINITION. The reads and writes of sparse files, and the bit, byte and mask helpers that the other
operations share (00 R6, R12). -/

namespace Sys2Proof.Machine

open Sys2Proof

/-- The cell at key k; an unlisted cell is zero. -/
def cellGet {w : Nat} (c : List (Nat × BitVec w)) (k : Nat) : BitVec w :=
  match c with
  | [] => 0#w
  | (a, v) :: r => if a = k then v else cellGet r k

/-- The file without the cell at key k. -/
def cellErase {w : Nat} (c : List (Nat × BitVec w)) (k : Nat) : List (Nat × BitVec w) :=
  match c with
  | [] => []
  | (a, v) :: r => if a = k then cellErase r k else (a, v) :: cellErase r k

/-- Places a cell before the first greater key. -/
def cellInsert {w : Nat} (c : List (Nat × BitVec w)) (k : Nat) (x : BitVec w) : List (Nat × BitVec w) :=
  match c with
  | [] => [(k, x)]
  | (a, v) :: r => if k < a then (k, x) :: (a, v) :: r else (a, v) :: cellInsert r k x

/-- Writes a cell. Writing zero removes it, so that equal contents are equal lists. -/
def cellSet {w : Nat} (c : List (Nat × BitVec w)) (k : Nat) (x : BitVec w) : List (Nat × BitVec w) :=
  if x = 0#w then cellErase c k else cellInsert (cellErase c k) k x

/-- Writes several cells in order. -/
def cellSets {w : Nat} (c : List (Nat × BitVec w)) (l : List (Nat × BitVec w)) : List (Nat × BitVec w) :=
  l.foldl (fun c x => cellSet c x.1 x.2) c

/-- The cells with keys in [lo, lo + n). -/
def cellRange {w : Nat} (c : List (Nat × BitVec w)) (lo n : Nat) : List (Nat × BitVec w) :=
  c.filter (fun x => lo ≤ x.1 && x.1 < lo + n)

/-- The file without its cells in [lo, lo + n). -/
def cellDrop {w : Nat} (c : List (Nat × BitVec w)) (lo n : Nat) : List (Nat × BitVec w) :=
  c.filter (fun x => !(lo ≤ x.1 && x.1 < lo + n))

/-- Bits [lo + n − 1 : lo] of a natural number. -/
def bitsOf (x lo n : Nat) : Nat := (x >>> lo) % 2 ^ n

/-- Two's complement reading of the low n bits (00 R12). -/
def signExt (x n : Nat) : Int := if x.testBit (n - 1) then (x % 2 ^ n : Int) - 2 ^ n else (x % 2 ^ n : Int)

/-- `wrap` of 00 R12: an exact integer modulo 2^n. -/
def wrapTo (n : Nat) (x : Int) : BitVec n := BitVec.ofInt n x

/-- `saturate` of 00 R12. -/
def saturate (x lo hi : Int) : Int := if x < lo then lo else if x > hi then hi else x

/-- The n bytes from key a of a byte file, little-endian (00 R6). -/
def bytesGet (c : List (Nat × Byte)) (a n : Nat) : Nat :=
  (cellRange c a n).foldl (fun acc x => acc ||| (x.2.toNat <<< (8 * (x.1 - a)))) 0

/-- Writes n bytes from key a of a byte file, little-endian. -/
def bytesSet (c : List (Nat × Byte)) (a n : Nat) (v : Nat) : List (Nat × Byte) :=
  (List.range n).foldl (fun c i => cellSet c (a + i) (BitVec.ofNat 8 (v >>> (8 * i)))) c

/-- A mask of n ones from bit lo, in w bits. -/
def maskOf (w lo n : Nat) : BitVec w := BitVec.ofNat w ((2 ^ n - 1) <<< lo)

/-- Replaces n bytes from byte offset o of a line. -/
def lineBytesSet (d : BitVec 1024) (o n v : Nat) : BitVec 1024 :=
  let m := maskOf 1024 (8 * o) (8 * n)
  (d &&& ~~~m) ||| (BitVec.ofNat 1024 (v <<< (8 * o)) &&& m)

/-- Reads n bytes from byte offset o of a line. -/
def lineBytesGet (d : BitVec 1024) (o n : Nat) : Nat := bitsOf d.toNat (8 * o) (8 * n)

/-- The bit mask of a byte mask: eight bits for each byte. -/
def spreadBytes (m : BitVec 128) : BitVec 1024 :=
  BitVec.ofNat 1024 ((List.range 128).foldl (fun acc i => if m.getLsbD i then acc ||| (0xFF <<< (8 * i)) else acc) 0)

/-- The lanes of a mask, ascending (00 R11). -/
def lanesOf (m : LaneMask) : List Nat := (List.range 32).filter (fun l => m.getLsbD l)

/-- The mask of one lane. -/
def laneBit (l : Nat) : LaneMask := BitVec.ofNat 32 (2 ^ l)

/-- The mask of the lanes that satisfy f. -/
def maskBy (f : Nat → Bool) : LaneMask :=
  BitVec.ofNat 32 ((List.range 32).foldl (fun acc l => if f l then acc ||| 2 ^ l else acc) 0)

/-- The lowest lane of a mask, 0 for none (01 R16). -/
def lowestLane (m : LaneMask) : Nat := (lanesOf m).headD 0

/-- The sectors (bits) of a line that bytes o to o + n − 1 meet. -/
def sectorMask (o n : Nat) : BitVec 4 :=
  BitVec.ofNat 4 ((List.range 4).foldl (fun acc i => if o < 32 * (i + 1) && 32 * i < o + n then acc ||| 2 ^ i else acc) 0)

/-- Inserts into a rising list of numbers, once. -/
def insertNat (l : List Nat) (x : Nat) : List Nat :=
  match l with
  | [] => [x]
  | a :: r => if x < a then x :: a :: r else if x = a then a :: r else a :: insertNat r x

/-- The elements of a list with their positions. -/
def enumFrom {α : Type} (n : Nat) (l : List α) : List (Nat × α) :=
  match l with
  | [] => []
  | a :: r => (n, a) :: enumFrom (n + 1) r

/-- Inserts by a key, keeping rising key order, after equal keys. -/
def insertBy {α : Type} (key : α → Nat) (x : α) (l : List α) : List α :=
  match l with
  | [] => [x]
  | a :: r => if key x < key a then x :: a :: r else a :: insertBy key x r

/-- A stable sort by rising key. -/
def sortBy {α : Type} (key : α → Nat) (l : List α) : List α := l.foldl (fun acc x => insertBy key x acc) []

/-- The bits of a Bool. -/
def boolNat (b : Bool) : Nat := if b then 1 else 0

/-- Words of a number, lowest first. -/
def wordsOfNat (n v : Nat) : List Word := (List.range n).map (fun i => BitVec.ofNat 32 (v >>> (32 * i)))

/-- A saturating 32-bit count (01 R34). -/
def satAdd (c : Word) (n : Nat) : Word := BitVec.ofNat 32 (min (c.toNat + n) 0xFFFF_FFFF)

end Sys2Proof.Machine
end

