-- ==== Sys2Proof/Machine/Regs.lean ====
section
/-! DEFINITION. The register files of a spindle and the access to spindles, lanes and teams (01 R13-R22). All
reads and writes of registers pass through the operations of this file. -/

namespace Sys2Proof.Machine

open Sys2Proof

def TxStatus.clear : TxStatus := { committed := false, cause := 0#3, xcode := 0#7, fcause := 0#8 }

/-- A lane as it stands before any thread takes it. -/
def Lane.blank : Lane :=
  { pc := 0#64, st := .exited, stamp := 0, issued := 0, chained := false, priv := false, tx := false, spec := false, rollbk := false, txatt := 0#4,
    fpflags := 0#6, rng := 0#32, boff := 0#32, tcause := 0#9, imgcause := 0#9, tcode := 0#7, txstat := TxStatus.clear, restart := false,
    serial := false, record := none, page := none, pendingTrap := false, deferred := none, monitor := none, rel := none,
    txn := none, seq := 0#32 }

/-- A spindle at its dispatch values (01 R13, R24), with no live lane. -/
def Spindle.blank : Spindle :=
  { team := 0, idx := 0, core := 0, quad := 0, slot := 0, st := .ended, crank := 0, age := 0, aged := 0, vcount := 16, v := [],
    vpoison := [], upoison := [], s := [], p := [], f := [], wpart := [], warr := [], wpark := 0#8, k := [], pm := [], gang := 0#64,
    ftz := false, srseed := 0#32, txctl := 0x8E6#12, bankconf := 0#32, lanes := List.replicate 32 Lane.blank,
    uchunk := 0, chunks := [], txchunks := [], entry := 0#64, domain := 0#64, stopped := false, want := [], wantPc := 0#64, fresh := false, barred := none, trapped := none }

def NBar.fresh : NBar := { init := false, expected := 0, arrived := 0, bytes := 0#48, phase := false }

/-- A team with nothing dispatched: every team register at its reset value (01 R24). -/
def Team.blank : Team :=
  { launch := 0, part := 0, idx := 0, st := .pending, cores := 1, share := 0, tiles := 0, nspin := 0, ranks := [],
    pav := 0, qdie := 0, sdie := 0, since := 0, dispatched := 0, suspSeq := 0, tsusp := 0, tres := 0, prev := 0, prio := 0#4, rollb := false,
    spawntimer := 0x800#32, regarena := 0#64, spawnarena := 0#64, substcnt := 0#32, metaskip := 0#32,
    energyused := 0, nbars := List.replicate 16 NBar.fresh, tbcount := 0, chunks := [], growq := [], arena := [],
    arenaHead := 0, scratch := [], scratchPoison := [], face := [], facePoison := [], reserve := none, kill := none,
    interval := 0#32, ineligible := false, retried := false, snap := none }

/-- A partition's context before its start (01 R24: context and partition registers reset to 0). -/
def Partition.blank : Partition :=
  { pnum := 0#16, pavs := [], share := 0, started := false, halted := false, haltReason := 0, haltTime := 0, haltDie := 0xFF, asid := 0#14,
    trapvec := 0#64, tframe := 0#64, tiletab := 0#64, bindtab := 0#64, deadline := 0#64, used := 0, energyres := 0,
    nextLaunch := 1 }

/-- A launch record with nothing in it, and a launch of it. -/
def LaunchRec.blank : LaunchRec :=
  { entry := 0#64, teams := 0, spindles := 0, vcount := 16, cores := 0, prio := 0, coop := false, priv := false, rollb := false, ndep := 0, scratch := 0,
    tiles := 0, grouptab := 0#64, rabase := 0#64, rasize := 0, sasize := 0, dlcontrib := 0, energy := 0, done := 0#64, deps := [], args := [] }
def Launch.blank : Launch :=
  { num := 0, part := 0, recva := 0#64, die := 0, st := .waiting, info := LaunchRec.blank, prio := 0, priv := false, root := false, sat := [], step := 0, next := 0,
    grouptab := 0#64, issuer := none, anyKilled := false, abandoned := false, discarded := false, cause := 0#8 }

-- Places in the state

def State.spindle (s : State) (i : Nat) : Spindle := s.spindles.getD i Spindle.blank
def State.team (s : State) (t : Nat) : Team := s.teams.getD t Team.blank
def State.part (s : State) (p : Nat) : Partition := s.parts.getD p Partition.blank
def Spindle.lane (sp : Spindle) (l : Nat) : Lane := sp.lanes.getD l Lane.blank
def State.lane (s : State) (i l : Nat) : Lane := (s.spindle i).lane l

def State.modSp (s : State) (i : Nat) (f : Spindle → Spindle) : State := { s with spindles := s.spindles.modify i f }
/-- An event: its effect; in a state that does not bring it about it does not happen, and the state stays (log entry 4). -/
def happens (s : State) (x : Option State) : Host.Outcome State Fault Refusal := .next (x.getD s)
def State.modTeam (s : State) (t : Nat) (f : Team → Team) : State := { s with teams := s.teams.modify t f }
def State.modPart (s : State) (p : Nat) (f : Partition → Partition) : State := { s with parts := s.parts.modify p f }
def Spindle.modLane (sp : Spindle) (l : Nat) (f : Lane → Lane) : Spindle := { sp with lanes := sp.lanes.modify l f }
def State.modLane (s : State) (i l : Nat) (f : Lane → Lane) : State := s.modSp i (fun sp => sp.modLane l f)
def State.modMem (s : State) (f : MemSys → MemSys) : State := { s with mem := f s.mem }

/-- The team and the partition of spindle i. -/
def State.teamOf (s : State) (i : Nat) : Team := s.team (s.spindle i).team
def State.partOf (s : State) (i : Nat) : Partition := s.part (s.teamOf i).part

/-- The launch of a team, and its record. -/
def State.launch (s : State) (n : Nat) : Launch := s.launches.getD n Launch.blank
def State.launchOf (s : State) (t : Nat) : Launch := s.launch (s.team t).launch
def State.launchRec (s : State) (t : Nat) : LaunchRec := (s.launchOf t).info
def State.modLaunch (s : State) (n : Nat) (f : Launch → Launch) : State := { s with launches := s.launches.modify n f }

/-- Changes every lane of a mask, ascending. -/
def State.modLanes (s : State) (i : Nat) (m : LaneMask) (f : Nat → Lane → Lane) : State :=
  (lanesOf m).foldl (fun s l => s.modLane i l (f l)) s

-- v, d and q registers (R13)

def Spindle.getV (sp : Spindle) (r l : Nat) : Word := cellGet sp.v (32 * r + l)
def Spindle.getD (sp : Spindle) (r l : Nat) : DWord := sp.getV (r + 1) l ++ sp.getV r l
def Spindle.getQ (sp : Spindle) (r l : Nat) : BitVec 128 :=
  (sp.getV (r + 3) l ++ sp.getV (r + 2) l ++ sp.getV (r + 1) l ++ sp.getV r l : BitVec 128)
def Spindle.setV (sp : Spindle) (r l : Nat) (x : Word) : Spindle := { sp with v := cellSet sp.v (32 * r + l) x }
def Spindle.setD (sp : Spindle) (r l : Nat) (x : DWord) : Spindle :=
  (sp.setV r l (x.extractLsb' 0 32)).setV (r + 1) l (x.extractLsb' 32 32)
def Spindle.setQ (sp : Spindle) (r l : Nat) (x : BitVec 128) : Spindle :=
  (sp.setD r l (x.extractLsb' 0 64)).setD (r + 2) l (x.extractLsb' 64 64)
/-- A register under W64: a d register, else a v register zero-extended (05 R105). -/
def Spindle.getVD (sp : Spindle) (w64 : Bool) (r l : Nat) : DWord :=
  if w64 then sp.getD r l else (sp.getV r l).setWidth 64
def Spindle.setVD (sp : Spindle) (w64 : Bool) (r l : Nat) (x : DWord) : Spindle :=
  if w64 then sp.setD r l x else sp.setV r l (x.setWidth 32)

/-- The v cells that a write of n words to register r of lane l makes. -/
def vWrites (r l n v : Nat) : List (Nat × Word) :=
  (List.range n).map (fun i => (32 * (r + i) + l, BitVec.ofNat 32 (v >>> (32 * i))))
def Spindle.setVs (sp : Spindle) (w : List (Nat × Word)) : Spindle := { sp with v := cellSets sp.v w }

-- s and sd registers

def Spindle.getS (sp : Spindle) (r : Nat) : Word := cellGet sp.s r
def Spindle.getSD (sp : Spindle) (r : Nat) : DWord := sp.getS (r + 1) ++ sp.getS r
def Spindle.setS (sp : Spindle) (r : Nat) (x : Word) : Spindle := { sp with s := cellSet sp.s r x }
def Spindle.setSD (sp : Spindle) (r : Nat) (x : DWord) : Spindle :=
  (sp.setS r (x.extractLsb' 0 32)).setS (r + 1) (x.extractLsb' 32 32)

-- Predicates (R15): 7 reads true in every lane and discards

def Spindle.pred (sp : Spindle) (q : Nat) : LaneMask := if q = 7 then BitVec.allOnes 32 else cellGet sp.p q
/-- Writes bits `b` to predicate q in the lanes of m. -/
def Spindle.setPred (sp : Spindle) (q : Nat) (m b : LaneMask) : Spindle :=
  if q = 7 then sp else { sp with p := cellSet sp.p q ((cellGet sp.p q &&& ~~~m) ||| (b &&& m)) }

-- Completion flags (R17), reconvergence barriers (R18), stream and permutation registers (R20, R21)

def Spindle.flag (sp : Spindle) (n : Nat) : BitVec 6 := cellGet sp.f n
def Spindle.setFlag (sp : Spindle) (n : Nat) (x : BitVec 6) : Spindle := { sp with f := cellSet sp.f n x }
/-- f0-f11 all read clear. -/
def Spindle.flagsClear (sp : Spindle) : Bool := sp.f.isEmpty
def Spindle.getK (sp : Spindle) (n : Nat) : Byte := cellGet sp.k n
def Spindle.setK (sp : Spindle) (n : Nat) (x : Byte) : Spindle := { sp with k := cellSet sp.k n x }
/-- Entry i of pm n; stored exclusive-or i. -/
def Spindle.pmEntry (sp : Spindle) (n i : Nat) : Byte := cellGet sp.pm (128 * n + i) ^^^ BitVec.ofNat 8 i
def Spindle.setPm (sp : Spindle) (n i : Nat) (x : Byte) : Spindle :=
  { sp with pm := cellSet sp.pm (128 * n + i) (x ^^^ BitVec.ofNat 8 i) }

-- Lane sets

/-- The live lanes (12 R277). -/
def Spindle.live (sp : Spindle) : LaneMask := maskBy (fun l => (sp.lane l).st != .exited)
def LaneSt.isEligible : LaneSt → Bool
  | .eligible => true
  | _ => false
def LaneSt.isParked : LaneSt → Bool
  | .parked => true
  | _ => false
def LaneSt.isWaiting : LaneSt → Bool
  | .waiting => true
  | _ => false
/-- Lanes that will issue again without another agent: eligible, stalled or stopped at a header. -/
def LaneSt.canIssue : LaneSt → Bool
  | .eligible => true
  | .stalled => true
  | .header => true
  | _ => false
def Spindle.lanesIn (sp : Spindle) (f : LaneSt → Bool) : LaneMask := maskBy (fun l => f (sp.lane l).st)

/-- IDENT (01 R33). -/
def State.ident (s : State) (i l : Nat) : DWord :=
  let sp := s.spindle i
  BitVec.ofNat 64 (((s.team sp.team).idx % 2 ^ 24) <<< 40 ||| (sp.crank % 8) <<< 16 ||| (sp.idx % 1024) <<< 5 ||| l % 32)

/-- TSTAT (01 R26). -/
def Lane.tstat (ln : Lane) : Word :=
  BitVec.ofNat 32 (boolNat ln.priv <<< 31 ||| boolNat ln.tx <<< 30 ||| boolNat ln.spec <<< 29 ||| boolNat ln.rollbk <<< 28 |||
    ln.txatt.toNat <<< 24)

/-- The transaction status word (11 R262). -/
def Lane.txWord (ln : Lane) : Word :=
  BitVec.ofNat 32 (boolNat ln.tx <<< 31 ||| boolNat ln.txstat.committed <<< 30 ||| ln.txatt.toNat <<< 26 |||
    ln.txstat.cause.toNat <<< 23 ||| ln.txstat.xcode.toNat <<< 16 ||| ln.txstat.fcause.toNat <<< 8)

/-- A generator seed: zero is replaced (02 R54, 11 R260). -/
def seedOf (x : Word) : Word := if x = 0#32 then Config.seedForZero else x

/-- Handler context (11 R272): the spindle runs its trap handler. -/
def Spindle.inHandler (sp : Spindle) : Bool := sp.trapped.isSome

/-- Core, die and pavilion numbers (21 R444, 00 R1). -/
def dieOfCore (core : Nat) : Nat := core / Config.coresPerDie
def pavOfCore (core : Nat) : Nat := core / Config.coresPerPav
def dieOfPav (pav : Nat) : Nat := pav / Config.pavsPerDie

end Sys2Proof.Machine
end

