-- ==== Sys2Proof/Machine/Mem.lean ====
section
/-! DEFINITION. The memory system: physical memory, the walk of the page tables, the homes, the copies of the L1s,
the rights check and the accesses of lanes, engines and the device itself (07 R147-R174, 13 R301-R319, 18 R381-R397,
21 R430-R440). -/

namespace Sys2Proof.Machine

open Sys2Proof

/-- The answer to one access. `bad` carries the cause and the RIGHTS field of a fault record (12 R297); `absent` names
the page that is mapped but not resident; `wait` asks for a later try, with the line the host must give back. -/
inductive Got (α : Type) where
  | ok (s : State) (a : α)
  | bad (s : State) (cause : BitVec 8) (rights : BitVec 16)
  | absent (s : State) (ea page : Nat)
  | wait (host : Option Nat)

def Got.andThen {α β : Type} (x : Got α) (f : State → α → Got β) : Got β :=
  match x with
  | .ok s a => f s a
  | .bad s c r => .bad s c r
  | .absent s ea pg => .absent s ea pg
  | .wait h => .wait h

/-- On whose behalf an access is made: the core whose L1 serves it, and the context. -/
structure Who where
  core : Nat
  pn : BitVec 16
  asid : BitVec 14
  team : Nat
  deriving DecidableEq, Repr

/-- Spindle i as an accessor of memory. -/
def State.who (s : State) (i : Nat) : Who :=
  { core := (s.spindle i).core, pn := (s.partOf i).pnum, asid := (s.partOf i).asid, team := (s.spindle i).team }

/-- The effective ASID of an address (18 R381). -/
def eaOf (asid : BitVec 14) (va : DWord) : Nat := if va.getLsbD 56 then 0 else asid.toNat
/-- Bits [63:57] equal bit 56 (07 R147). -/
def canonical (va : DWord) : Bool := va == (va.setWidth 57).signExtend 64
/-- VA[56:7], VA[56:12] and the byte within the line. -/
def lnOf (va : DWord) : Nat := va.toNat % 2 ^ 57 / 128
def pageOf (va : DWord) : Nat := va.toNat % 2 ^ 57 / 4096
def pageOfLn (ln : Nat) : Nat := ln / 32
def offOf (va : DWord) : Nat := va.toNat % 128
/-- The virtual address of a line. -/
def vaOfLn (ln : Nat) : DWord := (BitVec.ofNat 57 (ln * 128)).signExtend 64
def vaOfPage (page : Nat) : DWord := (BitVec.ofNat 57 (page * 4096)).signExtend 64

/-- The sectors that have a bit in a byte mask. -/
def sectorsOf (m : BitVec 128) : BitVec 4 :=
  BitVec.ofNat 4 ((List.range 4).foldl (fun acc i => if m.extractLsb' (32 * i) 32 != 0#32 then acc ||| 2 ^ i else acc) 0)
/-- The sectors whose 32 bytes are all in a byte mask. -/
def fullSectors (m : BitVec 128) : BitVec 4 :=
  BitVec.ofNat 4 ((List.range 4).foldl (fun acc i => if m.extractLsb' (32 * i) 32 == BitVec.allOnes 32 then acc ||| 2 ^ i else acc) 0)

def Line.empty : Line :=
  { data := 0#1024, valid := 0#128, dirty := 0#128, poison := 0#4, full := 0#4, tag := none, later := 0 }
/-- The line as a clean copy takes it. -/
def Line.clean (x : Line) : Line := { x with dirty := 0#128, full := 0#4, tag := none, later := 0 }

def satLater (n : Nat) : Nat := min n 0xFFFF_FFFF

/-- Merges the dirty bytes of `inc` over `x`, with marks (21 R431) and writer tags (18 R396). -/
def Line.merge (inc x : Line) : Line :=
  let m := spreadBytes inc.dirty
  let t := sectorsOf inc.dirty
  { data := (x.data &&& ~~~m) ||| (inc.data &&& m),
    valid := x.valid ||| inc.dirty,
    dirty := x.dirty ||| inc.dirty,
    poison := (x.poison &&& ~~~t) ||| (t &&& inc.full &&& inc.poison) ||| (t &&& ~~~inc.full &&& (x.poison ||| inc.poison)),
    full := x.full ||| (t &&& inc.full),
    tag := if inc.dirty == 0#128 then x.tag else if x.dirty == 0#128 then inc.tag else x.tag,
    later := if inc.dirty == 0#128 then x.later else if x.dirty == 0#128 then inc.later
      else satLater (x.later + inc.later + boolNat (decide (inc.tag ≠ x.tag))) }

/-- As `merge`, for a copy that the line itself becomes: marks of its clean sectors stay too (21 R431). -/
def Line.mergeMarks (inc x : Line) : Line :=
  { inc.merge x with poison := (inc.merge x).poison ||| (inc.poison &&& ~~~(sectorsOf inc.dirty)) }

/-- Puts memory's bytes under the bytes a line already holds (18 R393). -/
def Line.under (x : Line) (data : BitVec 1024) (poison : BitVec 4) : Line :=
  let m := spreadBytes x.valid
  { x with data := (x.data &&& m) ||| (data &&& ~~~m), valid := BitVec.allOnes 128,
           poison := (x.full &&& x.poison) ||| (~~~x.full &&& (x.poison ||| poison)) }

-- Physical memory (18 R387)

def physLine (m : MemSys) (pa : Nat) : BitVec 1024 :=
  (cellRange m.phys pa 128).foldl (fun acc c => acc ||| ((BitVec.ofNat 1024 c.2.toNat) <<< (8 * (c.1 - pa)))) 0#1024
def physMarks (m : MemSys) (pa : Nat) : BitVec 4 :=
  BitVec.ofNat 4 ((List.range 4).foldl (fun acc i => if m.marks.contains (pa / 32 + i) then acc ||| 2 ^ i else acc) 0)
def MemSys.setMark (m : MemSys) (sector : Nat) (b : Bool) : MemSys :=
  { m with marks := if b then insertNat m.marks sector else m.marks.filter (· != sector) }
/-- Writes the masked bytes of a line to memory with its marks: a sector that a full-sector store has written takes the line's mark, another has
memory's too (21 R431). -/
def physStore (m : MemSys) (pa : Nat) (x : Line) (mask : BitVec 128) : MemSys :=
  let phys := (List.range 128).foldl (fun c i => if mask.getLsbD i then cellSet c (pa + i) (x.data.extractLsb' (8 * i) 8) else c) m.phys
  let marks := (x.full &&& x.poison) ||| (~~~x.full &&& (physMarks m pa ||| x.poison))
  if marks == physMarks m pa then { m with phys := phys }
  else (List.range 4).foldl (fun m i => m.setMark (pa / 32 + i) (marks.getLsbD i)) { m with phys := phys }

/-- The reserved range of physical addresses, which is no target (18 R387). -/
def reservedPa (pa : Nat) : Bool := decide (Config.hbmTop ≤ pa) && decide (pa < Config.hostBase)
/-- n bytes of memory at a physical address. In the reserved range nothing holds a byte: a read gives a free value, a write goes nowhere (log
entry 5). -/
def physGet (s : State) (pa n : Nat) : Nat :=
  if reservedPa pa then Config.reservedRead s.clock.cycle pa n % 2 ^ (8 * n) else bytesGet s.mem.phys pa n
def physPut (m : MemSys) (pa n v : Nat) : MemSys := if reservedPa pa then m else { m with phys := bytesSet m.phys pa n v }

/-- The reverse map entry of a frame: HBM frames, then host frames (18 R391). -/
def rmapIndex (s : State) (pa : Nat) : Option Nat :=
  if pa < Config.hbmTop then some (pa / 4096)
  else if Config.hostBase ≤ pa && (pa - Config.hostBase) / 4096 < s.adeol.hostframes.toNat then
    some (Config.hbmTop / 4096 + (pa - Config.hostBase) / 4096)
  else none

/-- The base field [51:12] of a register or entry. -/
def baseOf (x : DWord) : Nat := bitsOf x.toNat 12 40 * 4096

/-- The mapping (EASID, VPN) that the reverse map records for a frame. -/
def rmapGet (s : State) (pa : Nat) : Option (Nat × Nat) :=
  match rmapIndex s pa with
  | none => none
  | some i =>
    if baseOf s.adeol.rmapbase = 0 then none
    else
      let e := physGet s (baseOf s.adeol.rmapbase + 8 * i) 8
      if e.testBit 14 then some (bitsOf e 0 14, bitsOf e 15 45) else none

def rmapSet (s : State) (pa : Nat) (e : Option (Nat × Nat)) : State :=
  match rmapIndex s pa with
  | none => s
  | some i =>
    if baseOf s.adeol.rmapbase = 0 then s
    else
      let v := match e with
        | some (ea, vpn) => vpn <<< 15 ||| 2 ^ 14 ||| ea
        | none => 0
      s.modMem (fun m => physPut m (baseOf s.adeol.rmapbase + 8 * i) 8 v)

-- Homes, L1 copies and buffer entries

def homeFind (m : MemSys) (ea ln : Nat) : Option HomeLine := m.home.find? (fun h => h.ea == ea && h.ln == ln)
def homePut (m : MemSys) (h : HomeLine) : MemSys :=
  { m with home := insertBy (fun x => x.ea * 2 ^ 50 + x.ln) h (m.home.filter (fun x => !(x.ea == h.ea && x.ln == h.ln))) }
def homeDel (m : MemSys) (ea ln : Nat) : MemSys := { m with home := m.home.filter (fun x => !(x.ea == ea && x.ln == ln)) }
def l1Find (m : MemSys) (core ea ln : Nat) : Option L1Line :=
  m.l1.find? (fun x => x.core == core && x.ea == ea && x.ln == ln)
def l1Put (m : MemSys) (x : L1Line) : MemSys :=
  let rest := m.l1.filter (fun y => !(y.core == x.core && y.ea == x.ea && y.ln == x.ln))
  { m with l1 := insertBy (fun y => (y.core * 2 ^ 14 + y.ea) * 2 ^ 50 + y.ln) x rest }
def l1Del (m : MemSys) (core ea ln : Nat) : MemSys :=
  { m with l1 := m.l1.filter (fun x => !(x.core == core && x.ea == ea && x.ln == ln)) }
def bufFind (m : MemSys) (ea ln : Nat) : Option BufEntry := m.buf.find? (fun b => b.ea == ea && b.ln == ln)
def bufDel (m : MemSys) (ea ln : Nat) : MemSys := { m with buf := m.buf.filter (fun b => !(b.ea == ea && b.ln == ln)) }

/-- The bytes of a home line with its owner's dirty bytes over them (13 R304). -/
def homeView (m : MemSys) (h : HomeLine) : Line :=
  match h.owner with
  | none => h.line
  | some c =>
    match l1Find m c h.ea h.ln with
    | none => h.line
    | some x => x.line.mergeMarks h.line

/-- The line of a mapping at a physical address: (EASID, line). -/
def lineOfPa (s : State) (pa : Nat) : Option (Nat × Nat) :=
  (rmapGet s pa).map (fun x => (x.1, x.2 * 32 + pa % 4096 / 128))

/-- Reads n bytes of a physical address within one line: at the home that the reverse map names, or at memory
(18 R390, R398). -/
def paRead (s : State) (pa n : Nat) : Nat :=
  let raw := physGet s pa n
  match lineOfPa s pa with
  | none => raw
  | some (ea, ln) =>
    match homeFind s.mem ea ln with
    | none => raw
    | some h =>
      let x := (homeView s.mem h).under (physLine s.mem (pa / 128 * 128)) 0#4
      lineBytesGet x.data (pa % 128) n

-- The page tables (18 R382-R388)

/-- What a walk finds: no mapping, an entry that R388 calls malformed, or a leaf with its level. -/
inductive Walk where
  | unmapped
  | malformed
  | badRoot
  | leaf (e : DWord) (level : Nat)
  deriving DecidableEq, Repr

def leafP (e : DWord) : Bool := e.getLsbD 0
def leafR (e : DWord) : Bool := e.getLsbD 1
def leafW (e : DWord) : Bool := e.getLsbD 2
def leafX (e : DWord) : Bool := e.getLsbD 3
def leafClass (e : DWord) : Nat := (e.extractLsb' 4 2).toNat
def leafET (e : DWord) : Bool := e.getLsbD 6
def leafLock (e : DWord) : Bool := e.getLsbD 7
def leafContig (e : DWord) : Bool := e.getLsbD 8
def leafIs (e : DWord) : Bool := e.getLsbD 9
def leafHome (e : DWord) : Nat := (e.extractLsb' 10 2).toNat
def leafLcap (e : DWord) : Nat := (e.extractLsb' 52 3).toNat
def leafNomig (e : DWord) : Bool := e.getLsbD 55
def leafRwx (e : DWord) : BitVec 3 := e.extractLsb' 1 3

/-- 4 KiB pages of a leaf at a level. -/
def spanOf (level : Nat) : Nat := 512 ^ level

/-- The level of a leaf that spans so many pages. -/
def levelOf (span : Nat) : Nat := if span = 1 then 0 else if span = 512 then 1 else 2

/-- A frame that memory has (18 R387, R388): not reserved, and no host frame beyond HOSTFRAMES. -/
def frameOk (s : State) (pa : Nat) : Bool := (rmapIndex s pa).isSome

/-- Memory has every frame of a leaf at a level (18 R388). -/
def leafFramesOk (s : State) (pa level : Nat) : Bool := frameOk s pa && frameOk s (pa + 4096 * (spanOf level - 1))

/-- A frame aligned for entry k of its table line: to the page size, and in a run of 16 to the run, whose frames are
consecutive (18 R385, R386). -/
def frameFits (pa level k : Nat) (contig : Bool) : Bool :=
  let size := 4096 * spanOf level
  if contig then pa % (16 * size) == k % 16 * size else pa % size == 0

/-- R388 at a level, for entry k of its table. -/
def malformedAt (s : State) (e : DWord) (level k : Nat) : Bool :=
  e.extractLsb' 56 8 != 0#8 || leafClass e == 3 ||
  (if leafIs e then
    decide (3 ≤ level) ||
    (leafP e && (!frameFits (baseOf e) level k (leafContig e) || !leafFramesOk s (baseOf e) level))
  else leafP e && (level == 0 || e &&& ~~~(0x000F_FFFF_FFFF_F001#64) != 0#64 || !frameOk s (baseOf e)))

/-- Walks from a level's table. -/
def walkFrom (s : State) (va : Nat) : Nat → Nat → Walk
  | 0, table =>
    let e := BitVec.ofNat 64 (paRead s (table + 8 * bitsOf va 12 9) 8)
    if malformedAt s e 0 (bitsOf va 12 9) then .malformed
    else if !leafIs e then .unmapped
    else if !leafP e && leafRwx e == 0#3 then .unmapped
    else .leaf e 0
  | lv + 1, table =>
    let e := BitVec.ofNat 64 (paRead s (table + 8 * bitsOf va (12 + 9 * (lv + 1)) 9) 8)
    if malformedAt s e (lv + 1) (bitsOf va (12 + 9 * (lv + 1)) 9) then .malformed
    else if leafIs e then (if !leafP e && leafRwx e == 0#3 then .unmapped else .leaf e (lv + 1))
    else if !leafP e then .unmapped
    else walkFrom s va lv (baseOf e)

/-- The walk of a page under an EASID (18 R382, R384). `pn` is the context's partition, none for the agents. -/
def walk (s : State) (pn : Option (BitVec 16)) (ea page : Nat) : Walk :=
  let a := baseOf s.adeol.astbase + 16 * ea
  let root := BitVec.ofNat 64 (paRead s a 8)
  let w1 := paRead s (a + 8) 8
  if !root.getLsbD 0 then .unmapped
  else if root &&& ~~~(0x000F_FFFF_FFFF_F001#64) != 0#64 || w1 >>> 16 != 0 || !frameOk s (baseOf root) then .badRoot
  else if pn.isSome && ea != 0 && pn != some (BitVec.ofNat 16 w1) then .unmapped
  else walkFrom s (page * 4096) 4 (baseOf root)

-- Rings of the controller (18 R398, R409): HEAD and TAIL, then entries from byte 4096

def ringCap (r : DWord) (size : Nat) : Nat := (bitsOf r.toNat 0 8 - 1) * 4096 / size
def ringHead (s : State) (r : DWord) : Nat := paRead s (baseOf r) 8
def ringTail (s : State) (r : DWord) : Nat := paRead s (baseOf r + 8) 8
def ringSlot (r : DWord) (size i : Nat) : Nat := baseOf r + 4096 + size * (i % ringCap r size)

/-- The physical address of a line of a present page, through the agents' translation. -/
def leafPa (e : DWord) (level page : Nat) : Nat := baseOf e + page % spanOf level * 4096

/-- Marks a team's open interval ineligible (21 R440). -/
def State.ineligible (s : State) (t : Nat) : State := s.modTeam t (fun x => { x with ineligible := true })

/-- The line loses its tags: every interval that keeps a pre-image of it is ineligible (21 R440). -/
def tagsLost (s : State) (h : HomeLine) : State := h.undo.foldl (fun s u => s.ineligible u.team) s

/-- A line is about to be served to an agent: another agent on a tagged line makes its interval ineligible (21 R440). -/
def homeTouch (s : State) (h : HomeLine) (team : Option Nat) : State :=
  h.undo.foldl (fun s u => if team == some u.team then s else s.ineligible u.team) s

/-- Merges an owner's dirty bytes into its home and takes the line from that core (13 R304). -/
def recallLine (s : State) (h : HomeLine) : State × HomeLine :=
  match h.owner with
  | none => (s, h)
  | some c =>
    match l1Find s.mem c h.ea h.ln with
    | none =>
      let h := { h with owner := none }
      (s.modMem (fun m => homePut m h), h)
    | some x =>
      let ln := x.line.mergeMarks h.line
      let h := { h with line := ln, owner := none, pend := h.pend && ln.valid != BitVec.allOnes 128,
                        version := if x.line.dirty == 0#128 then h.version else s.clock.ns }
      (s.modMem (fun m => homePut (l1Del m c h.ea h.ln) h), h)

/-- The move that a page is under, when it has come to a step (18 R406). -/
def moveOf (m : MemSys) (ea page step : Nat) : Option (Move × LeafMove) :=
  m.moves.findSome? (fun v =>
    if v.ea == ea && step ≤ v.step then (v.leaves.find? (fun x => x.first ≤ page && page < x.first + x.span)).map (fun x => (v, x)) else none)
/-- A page that a move keeps from writes: its lock fan-out has been made (18 R407). -/
def moving (s : State) (ea page : Nat) : Bool := (moveOf s.mem ea page 2).isSome

/-- Where a write to a frame whose copy has been made goes beside it: the same place of the new frame (18 R406 step 4). -/
def copiedPa (m : MemSys) (pa : Nat) : Option Nat :=
  m.moves.findSome? (fun v =>
    if 4 ≤ v.step then (v.leaves.find? (fun x => baseOf x.leaf ≤ pa && pa < baseOf x.leaf + 4096 * x.span)).map (fun x => pa - baseOf x.leaf + x.frame) else none)

/-- Masked bytes of a line go to memory, and to the copy of a frame under move. -/
def memStore (m : MemSys) (pa : Nat) (x : Line) (mask : BitVec 128) : MemSys :=
  match copiedPa m pa with
  | none => physStore m pa x mask
  | some q => physStore (physStore m pa x mask) q x mask

/-- n bytes go to memory, and to the copy of a frame under move. -/
def memPut (m : MemSys) (pa n v : Nat) : MemSys :=
  match copiedPa m pa with
  | none => physPut m pa n v
  | some q => physPut (physPut m pa n v) q n v

/-- Writes n bytes of a physical address within one line: at its home when one holds the line, else at memory. -/
def paWrite (s : State) (pa n v : Nat) : State :=
  let raw := s.modMem (fun m => memPut m pa n v)
  match lineOfPa s pa with
  | none => raw
  | some (ea, ln) =>
    match homeFind s.mem ea ln with
    | none => raw
    | some h0 =>
      let (s, h) := recallLine s h0
      let s := homeTouch s h none
      let mask := maskOf 128 (pa % 128) n
      let inc : Line := { Line.empty with data := lineBytesSet 0#1024 (pa % 128) n v, dirty := mask, full := fullSectors mask }
      s.modMem (fun m => homePut m { h with line := inc.merge h.line, version := s.clock.ns })

/-- Reads or writes n bytes of consecutive physical addresses, by 8-byte fields. -/
def paReads (s : State) (pa n : Nat) : Nat :=
  (List.range (n / 8)).foldl (fun acc i => acc ||| paRead s (pa + 8 * i) 8 <<< (64 * i)) 0
def paWrites (s : State) (pa n v : Nat) : State :=
  (List.range (n / 8)).foldl (fun s i => paWrite s (pa + 8 * i) 8 (bitsOf v (64 * i) 64)) s

/-- Appends an entry to a ring that the device fills, when it has room. -/
def ringPush (s : State) (r : DWord) (size v : Nat) : Option State :=
  if baseOf r = 0 || ringCap r size = 0 || ringTail s r - ringHead s r ≥ ringCap r size then none
  else
    let t := ringTail s r
    some (paWrite (paWrites s (ringSlot r size t) size v) (baseOf r + 8) 8 (t + 1))

/-- Takes the oldest entry of a ring that software fills. -/
def ringPop (s : State) (r : DWord) (size : Nat) : Option (State × Nat) :=
  if baseOf r = 0 || ringCap r size = 0 || ringHead s r ≥ ringTail s r then none
  else
    let h := ringHead s r
    some (paWrite s (baseOf r) 8 (h + 1), paReads s (ringSlot r size h) size)

/-- The record of a page request (18 R392). -/
def reqRecord (q : PageReq) : Nat :=
  q.ea ||| q.kind <<< 16 ||| (vaOfPage q.page).toNat <<< 64 ||| q.time <<< 128

/-- Moves waiting page requests into the ring while it has room. -/
def drainReqs (s : State) : State :=
  s.mem.reqs.foldl (fun s q =>
    if q.queued then s
    else
      match ringPush s s.adeol.prq 32 (reqRecord q) with
      | none => s
      | some s => s.modMem (fun m => { m with reqs := m.reqs.map (fun x => if x.ea == q.ea && x.page == q.page then { x with queued := true } else x) })) s

/-- Posts a page request; further requests for the page merge into it (18 R392). -/
def postReq (s : State) (ea page kind : Nat) : State :=
  if s.mem.reqs.any (fun q => q.ea == ea && q.page == page) then s
  else drainReqs (s.modMem (fun m => { m with reqs := m.reqs ++ [{ ea := ea, page := page, kind := kind, time := s.clock.ns, queued := false }] }))

/-- The state s0 with the page requests that an abandoned try made. -/
def State.withReqs (s0 : State) (l : List PageReq) : State :=
  let new := l.filter (fun q => !s0.mem.reqs.any (fun x => x.ea == q.ea && x.page == q.page))
  if new.isEmpty then s0
  else drainReqs (s0.modMem (fun m => { m with reqs := m.reqs ++ new.map (fun q => { q with queued := false }) }))

-- Rights at the core (18 R389)

/-- What the rights cache answers. -/
inductive Rights where
  | none
  | never
  | leaf (e : DWord)
  deriving DecidableEq, Repr

/-- The newest entries of each unit, up to its room; the list has the newest last. The order of eviction is the model's choice (log entry 8). -/
def withinRoom (room : Nat) (l : List LeafEntry) : List LeafEntry :=
  if l.length ≤ room then l
  else l.foldr (fun x acc => if (acc.filter (fun y => y.unit == x.unit)).length < room then x :: acc else acc) []

/-- The leaf less its frame. -/
def lessFrame (e : DWord) : DWord := e &&& ~~~(0x000F_FFFF_FFFF_F000#64)

def rightsFind (m : MemSys) (core ea page : Nat) : Option LeafEntry :=
  m.rights.find? (fun x => x.unit == core && x.ea == ea && x.page ≤ page && page < x.page + x.span)

/-- 4 KiB pages that a rights cache entry covers: the whole leaf, a 16 GiB leaf too; a smaller run has an entry for each page, the choice that
R386 leaves the device (R389). -/
def rightsSpan (e : DWord) (level : Nat) : Nat := if level = 2 && leafContig e then 16 * spanOf 2 else spanOf level

/-- A rights miss: the agent walks and returns the leaf less its frame, or no rights (18 R389, R382, R388). -/
def rightsMiss (s : State) (core : Nat) (pn : BitVec 16) (ea page : Nat) : State × Rights :=
  match walk s (some pn) ea page with
  | .unmapped => (s, .none)
  | .badRoot => (postReq s ea page 7, .none)
  | .malformed => (postReq s ea page 7, .never)
  | .leaf e lv =>
    let n := rightsSpan e lv
    let e := lessFrame e
    (s.modMem (fun m => { m with rights := m.rights ++ [{ unit := core, ea := ea, page := page / n * n, span := n, leaf := e }] }), .leaf e)

/-- The rights of a page at a core, through its rights cache. -/
def rightsOf (s : State) (core : Nat) (pn : BitVec 16) (ea page : Nat) : State × Rights :=
  match rightsFind s.mem core ea page with
  | some x => (s, .leaf x.leaf)
  | none => rightsMiss s core pn ea page

/-- The 4 KiB page is sealed (07 R174). -/
def sealedPage (m : MemSys) (ea page : Nat) : Bool := m.seals.contains (ea, page)

-- Agents (18 R383, R390-R394)

/-- The slice of a home die (18 R383). -/
def sliceOf (ea ln : Nat) : Nat :=
  bitsOf (ln ^^^ (ln >>> 12) ^^^ (ln >>> 24) ^^^ (ln >>> 36) ^^^ ea) 0 12 % Config.slicesPerDie
def agentOf (die ea ln : Nat) : Nat := die * Config.agentsPerDie + sliceOf ea ln / 3

/-- What an agent's translation of a page gives. -/
inductive Trans where
  | present (e : DWord) (pa : Nat)
  | absent (e : DWord)
  | fail
  deriving DecidableEq, Repr

/-- The entry for a line at the agent that serves its slice at the home die of the leaf (R383, R390). -/
def tlbFind (m : MemSys) (ea ln : Nat) : Option LeafEntry :=
  m.tlb.find? (fun x => x.ea == ea && x.page ≤ pageOfLn ln && pageOfLn ln < x.page + x.span && x.unit == agentOf (leafHome x.leaf) ea ln)

/-- The leaf of a line's page as its agent holds or walks it, with the physical address of the page. A page under move is served at its old home
from its old frame (18 R407). -/
def agentLeaf (s : State) (ea ln : Nat) : Walk × Nat :=
  match moveOf s.mem ea (pageOfLn ln) 1 with
  | some (_, x) => (.leaf x.leaf (levelOf x.span), baseOf x.leaf + (pageOfLn ln - x.first) * 4096)
  | none =>
    match tlbFind s.mem ea ln with
    | some x => (.leaf x.leaf (levelOf x.span), baseOf x.leaf + (pageOfLn ln - x.page) * 4096)
    | none =>
      match walk s none ea (pageOfLn ln) with
      | .leaf e lv => (.leaf e lv, leafPa e lv (pageOfLn ln))
      | w => (w, 0)

/-- The home die of a line: the HOME field of its leaf (18 R383). -/
def homeDie (s : State) (ea ln : Nat) : Nat :=
  match agentLeaf s ea ln with
  | (.leaf e _, _) => leafHome e
  | _ => 0

/-- The physical address of a line of a present page. -/
def linePa (s : State) (ea ln : Nat) : Option Nat :=
  match agentLeaf s ea ln with
  | (.leaf e _, pa) => if leafP e then some (pa + ln % 32 * 128) else none
  | _ => none

/-- The agent of a line keeps the leaf of the line's page that it has walked (18 R390). -/
def tlbKeep (s : State) (ea ln : Nat) (e : DWord) (lv : Nat) : State :=
  if (tlbFind s.mem ea ln).isSome then s
  else s.modMem (fun x =>
    { x with tlb := withinRoom Config.tlbEntries (x.tlb ++ [{ unit := agentOf (leafHome e) ea ln, ea := ea, page := pageOfLn ln / spanOf lv * spanOf lv,
                                                              span := spanOf lv, leaf := e }]) })

/-- Translates a line's page: checks and records its mapping, and posts the request that a failure needs (18 R391, R392). -/
def translate (s : State) (ea ln kind : Nat) : State × Trans :=
  let page := pageOfLn ln
  match agentLeaf s ea ln with
  | (.leaf e lv, pa) =>
    if !leafP e then (postReq s ea page kind, .absent e)
    else
      match rmapGet s pa with
      | some m =>
        if m == (ea, page) then (tlbKeep s ea ln e lv, .present e pa) else (postReq s ea page 6, .fail)
      | none => (tlbKeep (rmapSet s pa (some (ea, page))) ea ln e lv, .present e pa)
  | (.malformed, _) => (postReq s ea page 7, .fail)
  | (.badRoot, _) => (postReq s ea page 7, .fail)
  | (.unmapped, _) => (s, .fail)

/-- FENCED has the die's, or the host's, bit (19 R421). -/
def fencedDie (s : State) (d : Nat) : Bool := s.adeol.fenced.getLsbD d
def fencedHost (s : State) : Bool := s.adeol.fenced.getLsbD 4

/-- Memory behind a fence reads as poison (19 R419). -/
def fencedPa (s : State) (home pa : Nat) : Bool :=
  fencedDie s home || (decide (pa < Config.hbmTop) && fencedDie s (pa / Config.stackBytes / 2)) ||
  (decide (Config.hostBase ≤ pa) && fencedHost s)

/-- The line that the host caches, when it must be asked back first (19 R413). -/
def hostBusy (s : State) (ea ln : Nat) : Option Nat :=
  if s.mem.hostHeld.isEmpty then none
  else
    match linePa s ea ln with
    | none => none
    | some pa => if s.mem.hostHeld.contains (pa / 128) then some (pa / 128) else none

/-- The UCIe link of two dies (19 R416; 22 R459). -/
def diePair (a b : Nat) : Nat := if min a b = 0 then max a b - 1 else a + b

/-- Messages from die a to die b get no answer: their link has failed, and neither is fenced. -/
def cutOff (s : State) (a b : Nat) : Bool := a != b && s.links.down.contains (diePair a b) && !fencedDie s a && !fencedDie s b

/-- The place of a die among what is waited for, above all lines. -/
def dieKey (d : Nat) : Nat := 2 ^ 50 + d

/-- What an access from a die to a line must wait for (19 R413, R416, R419): the home's die, or that of the line's owner or of its frame, across a failed
link; or the host. -/
def awaited (s : State) (die : Option Nat) (ea ln : Nat) : Option Nat :=
  if s.links.down.isEmpty then hostBusy s ea ln
  else
    let home := homeDie s ea ln
    let from' := (die.filter (fun d => cutOff s d home)).map (fun _ => home)
    let owner := ((s.mem.l1.find? (fun x => x.owned && x.ea == ea && x.ln == ln)).map (fun x => dieOfCore x.core)).filter (cutOff s home)
    let frame := ((linePa s ea ln).filter (fun pa => decide (pa < Config.hbmTop)) |>.map (fun pa => pa / Config.stackBytes / 2)).filter (cutOff s home)
    match from' <|> owner <|> frame with
    | some d => some (dieKey d)
    | none => hostBusy s ea ln

/-- What was asked for and has not come is noted with the time: a line asked back of the host, or a die's answer (19 R413, R419). -/
def State.askBack (s : State) (what : Option Nat) : State :=
  match what with
  | none => s
  | some k => if s.mem.hostWait.any (fun x => x.1 == k) then s else s.modMem (fun m => { m with hostWait := m.hostWait ++ [(k, s.clock.ns)] })

def floorKey (die ea ln : Nat) : Nat := die * Config.slicesPerDie + sliceOf ea ln

/-- Adds to the counter of a page (18 R403). A full counter cache loses the entry of its lowest page: which one is the model's choice (log entry 8). -/
def countAccess (s : State) (die ea ln : Nat) : State :=
  let pg := ln / 512
  let bump : Counter → Counter := fun c =>
    { c with c0 := if die = 0 then min 255 (c.c0 + 1) else c.c0, c1 := if die = 1 then min 255 (c.c1 + 1) else c.c1,
             c2 := if die = 2 then min 255 (c.c2 + 1) else c.c2, c3 := if die = 3 then min 255 (c.c3 + 1) else c.c3 }
  s.modMem (fun m =>
    if m.counters.any (fun c => c.ea == ea && c.page == pg) then
      { m with counters := m.counters.map (fun c => if c.ea == ea && c.page == pg then bump c else c) }
    else
      let agent := agentOf (homeDie s ea ln) ea (pg * 512)
      let kept := if (m.counters.filter (fun c => c.agent == agent)).length < Config.counterEntries then m.counters else m.counters.eraseP (fun c => c.agent == agent)
      { m with counters := insertBy (fun c => c.ea * 2 ^ 50 + c.page) (bump { agent := agent, ea := ea, page := pg, c0 := 0, c1 := 0, c2 := 0, c3 := 0 }) kept })

/-- The version that a line of the slice may have at least rises (14 R327). -/
def floorTo (s : State) (die ea ln version : Nat) : State := s.modMem (fun m =>
  let k := floorKey die ea ln
  { m with floors := cellSet m.floors k (BitVec.ofNat 64 (max (cellGet m.floors k).toNat version)) })

/-- The eviction floor rises to the version of a line which leaves its home (14 R327). -/
def raiseFloor (s : State) (die : Nat) (h : HomeLine) : State := floorTo s die h.ea h.ln h.version

/-- Bytes of a line that no home holds change: a fill that follows has at least the present time as its version (14 R327). -/
def floorNow (s : State) (ea ln : Nat) : State := floorTo s (homeDie s ea ln) ea ln s.clock.ns

/-- A home line that leaves for its agent's deferred store buffer: into the line's entry, or a new one where there is room (18 R394). None where the
buffer is full. -/
def intoBuffer (s : State) (e : DWord) (h : HomeLine) : Option State :=
  let ag := agentOf (leafHome e) h.ea h.ln
  let gone (m : MemSys) : MemSys := homeDel m h.ea h.ln
  match bufFind s.mem h.ea h.ln with
  | some b => some ((raiseFloor s (leafHome e) h).modMem (fun m => { gone (bufDel m h.ea h.ln) with buf := (bufDel m h.ea h.ln).buf ++ [{ b with line := h.line.mergeMarks b.line }] }))
  | none =>
    if h.line.dirty == 0#128 && h.line.poison == 0#4 then some ((raiseFloor s (leafHome e) h).modMem gone)
    else if (s.mem.buf.filter (fun b => b.agent == ag)).length ≥ Config.bufferLines then none
    else some ((raiseFloor s (leafHome e) h).modMem (fun m => { gone m with buf := m.buf ++ [{ agent := ag, ea := h.ea, ln := h.ln, line := { h.line with valid := h.line.dirty } }] }))

/-- The bytes and marks of a home line go to memory through the translation, or to the deferred store buffer of a page that is absent, or under move
(18 R406 step 3); a full buffer keeps the line (14 R327, 18 R393, R394; 21 R431). -/
def evictInto (s : State) (h : HomeLine) : State :=
  if h.line.dirty == 0#128 && h.line.poison == 0#4 && !h.pend then (raiseFloor s (homeDie s h.ea h.ln) h).modMem (fun m => homeDel m h.ea h.ln)
  else
    let (s, t) := translate s h.ea h.ln 3
    match t with
    | .present e pa =>
      if (moveOf s.mem h.ea (pageOfLn h.ln) 3).isSome then (intoBuffer s e h).getD s
      else
        let put (m : MemSys) : MemSys := if fencedPa s (leafHome e) pa then m else physStore m (pa + h.ln % 32 * 128) h.line h.line.dirty
        (raiseFloor s (leafHome e) h).modMem (fun m => homeDel (put m) h.ea h.ln)
    | .absent e => (intoBuffer s e h).getD s
    | .fail =>
      let die := homeDie s h.ea h.ln
      (raiseFloor s die h).modMem (fun m => { homeDel m h.ea h.ln with drops := m.drops ++ [{ agent := agentOf die h.ea h.ln, ea := h.ea, ln := h.ln, line := h.line }] })

/-- Evicts a home line, its owner's bytes with it. A tagged line makes its intervals ineligible (21 R440). -/
def homeEvict (s : State) (h0 : HomeLine) : State :=
  let (s, h) := recallLine s h0
  evictInto (tagsLost s h) h

/-- The lines that a slice holds (00 R1). -/
def sliceHeld (s : State) (k : Nat) : List HomeLine := s.mem.home.filter (fun h => floorKey (homeDie s h.ea h.ln) h.ea h.ln == k)

/-- Makes room for a line that its slice does not hold: a full slice gives up a copy of another device's line, or evicts the first line that can
leave (18 R393, R394). Which line leaves is the model's choice (log entry 9). None when no line can leave. -/
def homeRoom (s : State) (ea ln : Nat) : Option State :=
  if s.mem.home.length + s.mem.remote.length < Config.sliceLines then some s
  else
    let k := floorKey (homeDie s ea ln) ea ln
    let l := sliceHeld s k
    let far (x : RemoteLine) : Bool := floorKey x.die x.ea x.ln == k
    if l.length + s.mem.remote.countP far < Config.sliceLines then some s
    else if s.mem.remote.any far then some (s.modMem (fun m => { m with remote := m.remote.eraseP far }))
    else l.findSome? (fun h => let t := homeEvict s h; if (homeFind t.mem h.ea h.ln).isNone then some t else none)

/-- A slice that holds more lines than it has gives up those beyond them (00 R1). -/
def sliceTrim (s : State) (k : Nat) : Nat → State
  | 0 => s
  | n + 1 =>
    let l := sliceHeld s k
    let far (x : RemoteLine) : Bool := floorKey x.die x.ea x.ln == k
    if l.length + s.mem.remote.countP far ≤ Config.sliceLines then s
    else if s.mem.remote.any far then sliceTrim (s.modMem (fun m => { m with remote := m.remote.eraseP far })) k n
    else
      match l.findSome? (fun h => let t := homeEvict s h; if (homeFind t.mem h.ea h.ln).isNone then some t else none) with
      | some t => sliceTrim t k n
      | none => s

/-- A copy of another device's line enters its slice, where there is room for it (01 R31; 08 R204). -/
def remotePut (s : State) (x : RemoteLine) : State :=
  let k := floorKey x.die x.ea x.ln
  let s := s.modMem (fun m => { m with remote := m.remote.filter (fun y => !(y.die == x.die && y.dev == x.dev && y.ea == x.ea && y.ln == x.ln)) })
  if (sliceHeld s k).length + s.mem.remote.countP (fun y => floorKey y.die y.ea y.ln == k) < Config.sliceLines then
    s.modMem (fun m => { m with remote := m.remote ++ [x] })
  else s

/-- The version of a line that comes to its home: the slice's eviction floor (14 R327). -/
def floorOf (s : State) (die ea ln : Nat) : Nat := (cellGet s.mem.floors (floorKey die ea ln)).toNat

/-- Brings a line to a home with room for it: from memory with any deferred bytes over it, or from a buffer entry of an absent page
under a pending fill (18 R393, R394; 14 R327). -/
def homeTake (s : State) (ea ln kind : Nat) : Got HomeLine :=
  let (s, t) := translate s ea ln kind
  match t with
  | .fail => .bad s 0x0B#8 0#16
  | .absent e =>
    match bufFind s.mem ea ln with
    | none => .absent s ea (pageOfLn ln)
    | some b =>
      let h : HomeLine := { ea := ea, ln := ln, line := b.line, version := floorOf s (leafHome e) ea ln, owner := none, pend := b.line.valid != BitVec.allOnes 128, undo := [] }
      .ok (s.modMem (fun m => homePut (bufDel m ea ln) h)) h
  | .present e pa0 =>
    let pa := pa0 + ln % 32 * 128
    let marks := if fencedPa s (leafHome e) pa then 0xF#4 else physMarks s.mem pa
    let raw : Line := { Line.empty with data := physLine s.mem pa, valid := BitVec.allOnes 128, poison := marks }
    let line := match bufFind s.mem ea ln with
      | none => raw
      | some b => b.line.mergeMarks raw
    let h : HomeLine := { ea := ea, ln := ln, line := line, version := floorOf s (leafHome e) ea ln, owner := none, pend := false, undo := [] }
    .ok (s.modMem (fun m => homePut (bufDel m ea ln) h)) h

/-- A line at its home, brought there where it does not stand. `must`: the bytes of a write-back never wait for room (18 R401). -/
def homeFillR (s : State) (ea ln kind : Nat) (must : Bool) : Got HomeLine :=
  match homeFind s.mem ea ln with
  | some h => .ok s h
  | none =>
    match homeRoom s ea ln with
    | some t => homeTake t ea ln kind
    | none => if must then homeTake s ea ln kind else .wait none
def homeFill (s : State) (ea ln kind : Nat) : Got HomeLine := homeFillR s ea ln kind false

/-- As `homeFill` for a writer: an absent page allocates an empty line under a pending fill (18 R393). A full deferred
store buffer makes it wait (R394), except for a write-back. -/
def homeFillW (s : State) (ea ln kind : Nat) (mustTake : Bool) : Got HomeLine :=
  match homeFillR s ea ln kind mustTake with
  | .absent s ea' pg =>
    if !mustTake && (s.mem.buf.filter (fun b => b.agent == agentOf (homeDie s ea ln) ea ln)).length ≥ Config.bufferLines then .wait none
    else
      let _ := ea'
      let _ := pg
      let h : HomeLine := { ea := ea, ln := ln, line := Line.empty, version := floorOf s (homeDie s ea ln) ea ln, owner := none, pend := true, undo := [] }
      .ok (s.modMem (fun m => homePut m h)) h
  | r => r

/-- A commit holds the line's lock (14 R329). -/
def locked (s : State) (ea ln : Nat) : Bool := s.mem.commits.any (fun c => c.locks.contains (ea, ln))

/-- A commit holds a lock on a line that p picks (14 R330). -/
def lockedAny (s : State) (p : Nat → Nat → Bool) : Bool := s.mem.commits.any (fun c => c.locks.any (fun x => p x.1 x.2))

/-- A request served for a team is metered (22 R455). -/
def countServed (s : State) (team : Option Nat) : State :=
  match team with
  | none => s
  | some t => s.modMem (fun m => { m with served := cellSet m.served t (cellGet m.served t + 1) })

/-- A read or write at the home for a team (none: not a context): the line with its owner recalled, the host asked
back and the access of a core of a die counted (13 R304, 19 R413, 18 R403). A locked line makes it wait (14 R330). -/
def homeServe (s : State) (team die : Option Nat) (ea ln kind : Nat) (write : Bool) : Got HomeLine :=
  if locked s ea ln then .wait none
  else
  match awaited s die ea ln with
  | some l => .wait (some l)
  | none =>
    match (if write then homeFillW s ea ln kind false else homeFill s ea ln kind) with
    | .ok s h =>
      let (s, h) := recallLine s h
      let s := countServed (homeTouch s h team) team
      let s := match die with
        | none => s
        | some d => countAccess s d ea ln
      .ok s h
    | r => r

/-- A read or write at the home by agent `w` (none: not a context). -/
def homeGet (s : State) (w : Option Who) (ea ln kind : Nat) (write : Bool) : Got HomeLine :=
  homeServe s (w.map (·.team)) (w.map (fun w => dieOfCore w.core)) ea ln kind write

/-- A commit visits a line at its home and locks it (14 R329 step 2): a line that it writes never waits for its page (R330). -/
def homeLock (s : State) (w : Who) (ea ln : Nat) (write : Bool) : Got HomeLine :=
  if locked s ea ln then .wait none
  else
  match awaited s (some (dieOfCore w.core)) ea ln with
  | some l => .wait (some l)
  | none =>
    match (if write then homeFillW s ea ln 2 true else homeFill s ea ln 1) with
    | .ok s h =>
      let (s, h) := recallLine s h
      .ok (countAccess (countServed (homeTouch s h (some w.team)) (some w.team)) (dieOfCore w.core) ea ln) h
    | r => r

/-- The team keeps an undo pre-image of the line before a write of its open interval, beside those of other teams (21 R439, R440). -/
def preImage (s : State) (team : Nat) (h : HomeLine) : State × HomeLine :=
  let t := s.team team
  if !t.rollb || t.snap.isNone then (s, h)
  else
    if h.undo.any (fun u => u.team == team && u.interval == t.interval) then (s, h)
    else
      let s := homeTouch s h (some team)
      let mine := (s.mem.home.filter (fun x => x.undo.any (fun u => u.team == team && u.interval == t.interval))).length
      let k := floorKey (homeDie s h.ea h.ln) h.ea h.ln
      let slice := (s.mem.home.filter (fun x => !x.undo.isEmpty && floorKey (homeDie s x.ea x.ln) x.ea x.ln == k)).foldl (fun n x => n + x.undo.length) 0
      if slice ≥ Config.slicePreimages || mine ≥ bitsOf s.adeol.rollctl.toNat 0 32 then (s.ineligible team, h)
      else
        let h := { h with undo := h.undo.filter (fun u => u.team != team) ++ [{ team := team, interval := t.interval, line := h.line, pend := h.pend }] }
        (s.modMem (fun m => homePut m h), h)

/-- The merge of written bytes into a home line (14 R327: the version rises). -/
def homeMerge (s : State) (h : HomeLine) (inc : Line) : State :=
  let ln := inc.merge h.line
  s.modMem (fun m => homePut m { h with line := ln, version := s.clock.ns, pend := h.pend && ln.valid != BitVec.allOnes 128 })

/-- Writes a core's dirty bytes of a line back to its home; the copy stays clean (13 R303, 18 R401: it never waits). A
write that its page refuses is discarded and reported (18 R391, R395). -/
def writeBack (s : State) (core ea ln : Nat) : State :=
  match l1Find s.mem core ea ln with
  | none => s
  | some x =>
    if x.line.dirty == 0#128 then s
    else
      let kept : L1Line := { x with line := { x.line with dirty := 0#128, full := 0#4, tag := none, later := 0 } }
      match homeFillW s ea ln 3 true with
      | .ok s h =>
        let s := homeTouch s h (some x.oteam)
        let s := homeMerge s h x.line
        s.modMem (fun m => l1Put m kept)
      | .bad s _ _ =>
        s.modMem (fun m => { l1Del m core ea ln with drops := m.drops ++ [{ agent := agentOf (homeDie s ea ln) ea ln, ea := ea, ln := ln, line := x.line }] })
      | _ => s

/-- Ends a core's copy of a line, after a write-back of its dirty bytes and the return of its ownership, with the marks of an owned line
(21 R431). -/
def l1End (s : State) (core ea ln : Nat) : State :=
  let s := writeBack s core ea ln
  match l1Find s.mem core ea ln with
  | none => s
  | some x =>
    let s := s.modMem (fun m => l1Del m core ea ln)
    if x.owned then
      match homeFind s.mem ea ln with
      | some h => if h.owner == some core then s.modMem (fun m => homePut m { h with owner := none, line := x.line.mergeMarks h.line }) else s
      | none => s
    else s

/-- Writes back the dirty lines of the L1s that satisfy p (07 R165, R167). -/
def wbLines (s : State) (p : L1Line → Bool) : State :=
  (s.mem.l1.filter p).foldl (fun s x => writeBack s x.core x.ea x.ln) s
/-- Ends the unowned copies that satisfy p (13 R305); dirty bytes are written back first. A sealed copy stays (R306). -/
def invLines (s : State) (p : L1Line → Bool) : State :=
  (s.mem.l1.filter (fun x => !x.owned && !x.isSealed && p x)).foldl (fun s x => l1End s x.core x.ea x.ln) s

/-- `FENCE.REL` and `FENCE.ACQ` of a core at `.team` or wider (07 R167). -/
def coreRelease (s : State) (core : Nat) : State := wbLines s (fun x => x.core == core)
def coreAcquire (s : State) (core : Nat) : State := invLines s (fun x => x.core == core)

-- Accesses through the L1

/-- Room in a core's L1 for a line that it does not hold: a full L1 ends its first copy (00 R1; 13 R306). Which copy ends is the model's
choice (log entry 9). -/
def l1Room (s : State) (core ea ln : Nat) : State :=
  if s.mem.l1.length < Config.l1Lines || (l1Find s.mem core ea ln).isSome then s
  else
    match s.mem.l1.filter (fun x => x.core == core) with
    | [] => s
    | x :: rest => if rest.length + 1 < Config.l1Lines then s else l1End s core x.ea x.ln

/-- The byte mask of n bytes at offset o. -/
def byteMask (o n : Nat) : BitVec 128 := maskOf 128 o n

/-- The copy serves reads now (13 R306). -/
def L1Line.serves (x : L1Line) (now : Nat) : Bool :=
  x.owned || (match x.til with
    | none => true
    | some t => decide (now < t))

/-- The copy without its lease: the core's own dirty bytes alone serve its reads (13 R303). -/
def L1Line.ownOnly (x : L1Line) : L1Line := { x with line := { x.line with valid := x.line.dirty }, til := some 0 }

/-- The lease length of a class in ns (01 R31); none: does not expire. -/
def leaseLen (reg : DWord) (cls : Nat) : Option Nat := if cls = 7 then none else some (bitsOf reg.toNat (8 * cls) 8 * 256)

/-- A read of masked bytes of a line through the core's L1, under effective lease class `lc` (07 R155, 13 R304-R306). -/
def l1Read (s : State) (w : Who) (ea ln : Nat) (need : BitVec 128) (lc kind : Nat) : Got Line :=
  let hit := match l1Find s.mem w.core ea ln with
    | none => none
    | some x =>
      if need &&& ~~~x.line.valid == 0#128 && (x.owned || need &&& ~~~x.line.dirty == 0#128 || (x.serves s.clock.ns && lc != 0))
      then some x.line else none
  match hit with
  | some line => .ok s line
  | none =>
    let s := l1Room (l1End s w.core ea ln) w.core ea ln
    match homeGet s (some w) ea ln kind false with
    | .ok s h =>
      if need &&& ~~~h.line.valid != 0#128 then .absent (postReq s ea (pageOfLn ln) kind) ea (pageOfLn ln)
      else
        let isSealed := sealedPage s.mem ea (pageOfLn ln)
        let til := if isSealed then some none else
          match leaseLen s.leaseL1 lc with
          | none => some none
          | some 0 => none
          | some n => some (some (s.clock.ns + n))
        match (if lc = 0 then none else til) with
        | none => .ok s h.line
        | some til =>
          .ok (s.modMem (fun m => l1Put m { core := w.core, ea := ea, ln := ln, line := h.line.clean, owned := false, oteam := w.team,
                                            til := til, isSealed := isSealed })) h.line
    | .bad s c r => .bad s c r
    | .absent s ea pg => .absent s ea pg
    | .wait h => .wait h

/-- A read at the home, bypassing the core's L1, whose own copy ends (07 R166, R169, 14 R324). -/
def homeRead (s : State) (w : Who) (ea ln : Nat) (need : BitVec 128) (kind : Nat) : Got HomeLine :=
  let s := l1End s w.core ea ln
  match homeGet s (some w) ea ln kind false with
  | .ok s h =>
    if need &&& ~~~h.line.valid != 0#128 then .absent (postReq s ea (pageOfLn ln) kind) ea (pageOfLn ln) else .ok s h
  | r => r

/-- Ownership of a coherent line for the core, under a pending fill where the page is absent (13 R303, R304, 18 R393,
21 R439). -/
def l1Own (s : State) (w : Who) (ea ln : Nat) : Got L1Line :=
  let fresh := match l1Find s.mem w.core ea ln with
    | none => none
    | some x => if x.owned && (x.oteam == w.team || (!(s.team w.team).rollb && !(s.team x.oteam).rollb)) then some x else none
  match fresh with
  | some x => .ok s x
  | none =>
    let s := l1Room (l1End s w.core ea ln) w.core ea ln
    match homeGet s (some w) ea ln 2 true with
    | .ok s h =>
      let (s, h) := preImage s w.team h
      let h := { h with owner := some w.core, version := s.clock.ns }
      let x : L1Line := { core := w.core, ea := ea, ln := ln, line := h.line.clean, owned := true, oteam := w.team, til := none, isSealed := false }
      .ok (s.modMem (fun m => l1Put (homePut m h) x)) x
    | .bad s c r => .bad s c r
    | .absent s ea pg => .absent s ea pg
    | .wait h => .wait h

/-- A write of the dirty bytes of `inc` into the core's L1: with ownership on a coherent page, as the core's own dirty
bytes on a non-coherent one (13 R303). -/
def l1Write (s : State) (w : Who) (cls ea ln : Nat) (inc : Line) : Got Unit :=
  let s := if cls != 1 && (s.team w.team).rollb then s.ineligible w.team else s
  if cls = 0 then
    let s := l1Room s w.core ea ln
    let x : L1Line := match l1Find s.mem w.core ea ln with
      | some x => if x.serves s.clock.ns then x else x.ownOnly
      | none => { core := w.core, ea := ea, ln := ln, line := Line.empty, owned := false, oteam := w.team, til := some 0, isSealed := false }
    .ok (s.modMem (fun m => l1Put m { x with line := inc.merge x.line })) ()
  else
    match l1Own s w ea ln with
    | .ok s x => .ok (s.modMem (fun m => l1Put m { x with line := inc.merge x.line })) ()
    | .bad s c r => .bad s c r
    | .absent s ea pg => .absent s ea pg
    | .wait h => .wait h

/-- A write at the home, for agent `w` (none: not a context) (13 R303). -/
def homeWrite (s : State) (w : Option Who) (ea ln : Nat) (inc : Line) : Got Unit :=
  let s := match w with
    | none => s
    | some w => l1End s w.core ea ln
  match homeGet s w ea ln 2 true with
  | .ok s h =>
    let (s, h) := match w with
      | none => (s, h)
      | some w => preImage s w.team h
    .ok (homeMerge s h inc) ()
  | .bad s c r => .bad s c r
  | .absent s ea pg => .absent s ea pg
  | .wait h => .wait h

/-- A write of a team with rollback on to a page that is not device-coherent makes its interval ineligible (R335; 21 R440). -/
def ineligibleWrite (s : State) (w : Who) (ea ln : Nat) : State :=
  match rightsOf s w.core w.pn ea (pageOfLn ln) with
  | (_, .leaf e) => if leafClass e != 1 && (s.team w.team).rollb then s.ineligible w.team else s
  | _ => s

/-- The bytes of a write: n bytes of v at offset o. -/
def incOf (o n v : Nat) (full : BitVec 4) (tag : Option Tag) : Line :=
  { data := lineBytesSet 0#1024 o n v, valid := byteMask o n, dirty := byteMask o n, poison := 0#4, full := full, tag := tag, later := 0 }

-- The checks at the core (07 R147, R148, R150)

/-- Rights needed: R, W and X. -/
structure Need where
  r : Bool
  w : Bool
  x : Bool
  deriving DecidableEq, Repr

/-- The RIGHTS field of a fault record (12 R297). `rv`: the leaf was read for this check, by a rights miss (20 R427). -/
def rightsField (e : Option DWord) (nd : Need) (isSealed rv : Bool) : BitVec 16 :=
  let need := boolNat nd.x ||| boolNat nd.w <<< 1 ||| boolNat nd.r <<< 2
  match e with
  | none => BitVec.ofNat 16 (need <<< 3)
  | some e =>
    BitVec.ofNat 16 (boolNat (leafX e) ||| boolNat (leafW e && !isSealed) <<< 1 ||| boolNat (leafR e) <<< 2 ||| need <<< 3 |||
      leafClass e <<< 6 ||| boolNat (leafET e) <<< 8 ||| boolNat rv <<< 9)

/-- Check 2 of R148 for one page: the leaf, a fault, or a wait on LOCK (18 R389), or for the end of the page's move (R407). A page that can never become resident
fails as 18 R395 gives for FAIL. `rv`: the leaf was already read for this instruction. -/
def checkPage (s : State) (w : Who) (ea page : Nat) (nd : Need) (rv : Bool) : Got DWord :=
  let rv := rv || (rightsFind s.mem w.core ea page).isNone
  let (s, r) := rightsOf s w.core w.pn ea page
  match r with
  | .none => .bad s 0x09#8 (rightsField none nd false false)
  | .never => .bad s 0x0B#8 (rightsField none nd false false)
  | .leaf e =>
    let sl := sealedPage s.mem ea page
    if (nd.r && !leafR e) || (nd.w && !leafW e) || (nd.x && !leafX e) || (nd.w && sl) then .bad s 0x09#8 (rightsField (some e) nd sl rv)
    else if nd.w && (leafLock e || moving s ea page) then .wait none
    else .ok s e

/-- An access that lies in one line: alignment, the form of the address and the rights. -/
def checkAccess (s : State) (w : Who) (va : DWord) (align : Nat) (nd : Need) (rv : Bool) : Got DWord :=
  if va.toNat % align != 0 then .bad s 0x08#8 0#16
  else if !canonical va then .bad s 0x09#8 (rightsField none nd false false)
  else checkPage s w (eaOf w.asid va) (pageOf va) nd rv

/-- The widest scope that a class allows: `.team`, `.dev` or `.sys` (07 R150). -/
def scopeOk (cls : Nat) (scope : BitVec 3) : Bool :=
  if cls = 0 then scope.toNat ≤ 1 else if cls = 1 then scope.toNat ≤ 3 else true

/-- The bits of a line's marks that masked bytes meet (21 R432). -/
def marksHit (x : Line) (need : BitVec 128) : BitVec 4 := x.poison &&& sectorsOf need

/-- The bytes of marked sectors read as zero (21 R433). -/
def zeroMarked (x : Line) (p : BitVec 4) : BitVec 1024 :=
  let m : BitVec 128 := (if p.getLsbD 0 then maskOf 128 0 32 else 0#128) ||| (if p.getLsbD 1 then maskOf 128 32 32 else 0#128) |||
    (if p.getLsbD 2 then maskOf 128 64 32 else 0#128) ||| (if p.getLsbD 3 then maskOf 128 96 32 else 0#128)
  x.data &&& ~~~(spreadBytes m)

-- Accesses of the device itself through a context's translation (images, frames, records)

/-- The leaf of a line says error-tolerant (18 R385). -/
def lineET (s : State) (ea ln : Nat) : Bool :=
  match agentLeaf s ea ln with
  | (.leaf e _, _) => leafET e
  | _ => false

/-- Reads n bytes of a virtual range at the homes, line by line; the page must exist. `acc` collects from byte k. Marked sectors read as zero on an
error-tolerant page and are POISON elsewhere, as for an engine (21 R433). -/
def devRead (s : State) (w : Who) (va : DWord) (n : Nat) : Got Nat :=
  (List.range ((offOf va + n + 127) / 128)).foldl (fun r j =>
    match r with
    | .ok s acc =>
      let start := if j = 0 then va else BitVec.ofNat 64 ((va.toNat / 128 + j) * 128)
      let o := offOf start
      let done := start.toNat - va.toNat
      let len := min (128 - o) (n - done)
      let ea := eaOf w.asid start
      match homeGet s (some w) ea (lnOf start) 5 false with
      | .ok s h =>
        if byteMask o len &&& ~~~h.line.valid != 0#128 then .absent (postReq s ea (pageOf start) 5) ea (pageOf start)
        else
          let hit := marksHit h.line (byteMask o len)
          if hit != 0#4 && !lineET s ea (lnOf start) then .bad s 0x10#8 0#16
          else .ok s (acc ||| lineBytesGet (zeroMarked h.line hit) o len <<< (8 * done))
      | .bad s c r => .bad s c r
      | .absent s ea pg => .absent s ea pg
      | .wait h => .wait h
    | r => r) (.ok s 0)

/-- Writes n bytes of a virtual range at the homes for the context; `die` names the die of the core that asks, where one does (18 R403), `tag` the
instruction (R396). -/
def devWriteAs (s : State) (w : Who) (die : Option Nat) (tag : Option Tag) (va : DWord) (n v : Nat) : Got Unit :=
  (List.range ((offOf va + n + 127) / 128)).foldl (fun r j =>
    match r with
    | .ok s _ =>
      let start := if j = 0 then va else BitVec.ofNat 64 ((va.toNat / 128 + j) * 128)
      let o := offOf start
      let done := start.toNat - va.toNat
      let len := min (128 - o) (n - done)
      let ea := eaOf w.asid start
      let s := (s.mem.l1.filter (fun x => x.ea == ea && x.ln == lnOf start && !x.owned)).foldl (fun s x => l1End s x.core x.ea x.ln) s
      match homeServe s (some w.team) die ea (lnOf start) 5 true with
      | .ok s h => .ok (homeMerge s h (incOf o len (bitsOf v (8 * done) (8 * len)) (fullSectors (byteMask o len)) tag)) ()
      | .bad s c r => .bad s c r
      | .absent s ea pg => .absent s ea pg
      | .wait h => .wait h
    | r => r) (.ok s ())

/-- A core's write of n bytes of a virtual range at the homes. -/
def devWrite (s : State) (w : Who) (va : DWord) (n v : Nat) : Got Unit := devWriteAs s w (some (dieOfCore w.core)) none va n v

/-- Writes one whole line with its marks at its home, as the register cache and the save areas do (01 R38). -/
def devWriteLine (s : State) (w : Who) (va : DWord) (v : Nat) (poison : BitVec 4) : Got Unit :=
  let ea := eaOf w.asid va
  let s := (s.mem.l1.filter (fun x => x.ea == ea && x.ln == lnOf va && !x.owned)).foldl (fun s x => l1End s x.core x.ea x.ln) s
  match homeGet s (some w) ea (lnOf va) 5 true with
  | .ok s h =>
    let all := BitVec.allOnes 128
    .ok (homeMerge s h { data := BitVec.ofNat 1024 v, valid := all, dirty := all, poison := poison, full := 0xF#4, tag := none, later := 0 }) ()
  | .bad s c r => .bad s c r
  | .absent s ea pg => .absent s ea pg
  | .wait h => .wait h

/-- Reads one whole line with its marks at its home. -/
def devReadLine (s : State) (w : Who) (va : DWord) : Got (Nat × BitVec 4) :=
  let ea := eaOf w.asid va
  match homeGet s (some w) ea (lnOf va) 5 false with
  | .ok s h =>
    if h.line.valid != BitVec.allOnes 128 then .absent (postReq s ea (pageOf va) 5) ea (pageOf va)
    else .ok s (h.line.data.toNat, h.line.poison)
  | .bad s c r => .bad s c r
  | .absent s ea pg => .absent s ea pg
  | .wait h => .wait h

/-- A write of the device's own records, which waits while its line must. Where the page refuses it, it is lost: the manual gives such a
failure no reader. -/
def devPut (s0 : State) (w : Who) (va : DWord) (n v : Nat) : State :=
  let s := s0.modMem (fun m => { m with puts := m.puts.filter (fun p => !(p.asid == w.asid && p.va == va)) })
  match devWriteAs s w none none va n v with
  | .ok s _ => s
  | .bad s _ _ => s
  | .absent s _ _ => s
  | .wait h => (s.askBack h).modMem (fun m => { m with puts := m.puts ++ [{ team := w.team, asid := w.asid, va := va, n := n, v := v }] })

/-- The device's writes that wait are tried again. -/
def retryPuts (s : State) : State :=
  s.mem.puts.foldl (fun s p => devPut s { core := 0, pn := 0#16, asid := p.asid, team := p.team } p.va p.n p.v) s

end Sys2Proof.Machine
end

