-- ==== Sys2Proof/Machine/Ops.lean ====
section
/-! DEFINITION. The shared operations over lanes, spindles and teams: ending a team, aborting a transaction, parking a
lane, fetching words, charging flags, the frame every instruction issues in, the register image, taking a trap and
returning from one (00 R11, R12; 03 R70-R78, R463; 11 R256-R276; 12 R277-R300; 17 R376-R379; 21 R441, R442). -/

namespace Sys2Proof.Machine

open Sys2Proof

/-- `sr_step` (02 R53). -/
def srStep (x : Word) : Word :=
  let x := x ^^^ (x <<< 13)
  let x := x ^^^ (x >>> 17)
  x ^^^ (x <<< 5)

/-- The generator state of lane L after SRSEED is written with s (02 R54). -/
def srSeed (s : Word) (l : Nat) : Word := seedOf (s ^^^ BitVec.ofNat 32 (l * 0x9E37_79B9))

/-- Cycles of the core since its last reset (01 R24 CYCLE). -/
def State.coreCycle (s : State) (core : Nat) : Nat := s.clock.cycle - (cellGet s.clock.coreBase core).toNat

-- Arenas and images (01 R35, 17 R356)

/-- Base of the team's register arena (01 R32). -/
def Team.arenaBase (t : Team) : DWord := t.regarena &&& ~~~0xFFFF#64
/-- The address of a chunk: units of 2 KiB from the arena's base (01 R35). -/
def Team.chunkVa (t : Team) (c : Nat) : DWord := t.arenaBase + BitVec.ofNat 64 (2048 * c)
/-- The device's accesses for a team. -/
def State.teamWho (s : State) (t : Nat) : Who :=
  { core := (s.team t).ranks.headD 0, pn := (s.part (s.team t).part).pnum, asid := (s.part (s.team t).part).asid, team := t }
/-- IMAGE: the address of a spindle's uniform chunk. -/
def State.imageVa (s : State) (i : Nat) : DWord := (s.teamOf i).chunkVa (s.spindle i).uchunk

/-- A field of a record at a byte offset. -/
def atByte (o v : Nat) : Nat := v <<< (8 * o)

/-- PARTW (12 R298). -/
def PartRange.bytes (p : PartRange) : Nat := p.start % 2 ^ 57 ||| (p.space % 16) <<< 60 ||| (p.len % 2 ^ 64) <<< 64

/-- Entry k of a PARTW list: an entry without a range is unused, SPACE 15 (12 R298). -/
def partSlot (l : List PartRange) (k : Nat) : Nat :=
  match l[k]? with
  | some p => p.bytes
  | none => 15 <<< 60

-- Ending a team (17 R376-R379)

/-- The kill report (17 R379). -/
def KillRep.bytes (r : KillRep) (now : Nat) : Nat :=
  atByte 0 r.cause.toNat ||| atByte 1 r.hcause.toNat ||| atByte 2 r.source ||| atByte 4 r.lmask.toNat ||| atByte 8 (r.spidx % 1024) |||
  atByte 16 r.pc.toNat ||| atByte 24 now ||| atByte 32 r.addr.toNat ||| atByte 40 r.parts.length |||
  (List.range 13).foldl (fun acc k => acc ||| atByte (48 + 16 * k) (partSlot r.parts k)) 0

/-- Writes the STATE code of the context record (17 R367, R370). -/
def putTeamState (s : State) (t code : Nat) : State :=
  devPut s (s.teamWho t) (s.team t).arenaBase 4 (0x0100_0000 ||| code)

/-- A spindle that holds nothing more; lanes in `kept` keep the logs of a commit that finishes (17 R377). -/
def Spindle.endWith (sp : Spindle) (kept : LaneMask) : Spindle :=
  { sp with st := .ended, lanes := (enumFrom 0 sp.lanes).map (fun x => { x.2 with
                            st := .exited, tx := false, txn := if kept.getLsbD x.1 then x.2.txn else none, monitor := none, record := none,
                            pendingTrap := false, deferred := none, page := none, rel := none }),
            stopped := false, want := [], barred := none, trapped := none }

/-- A spindle that holds nothing more. -/
def Spindle.finish (sp : Spindle) : Spindle := sp.endWith 0#32

/-- The lanes of spindle i whose commit is past its first step (14 R329). -/
def commitMask (s : State) (i : Nat) : LaneMask := (s.mem.commits.filter (fun c => c.sp == i)).foldl (fun m c => m ||| c.lanes) 0#32

def State.isOf (s : State) (t i : Nat) : Bool := (s.spindle i).team == t

/-- Frees all that a team holds on the device and discards its threads, commands and monitors. Commits past their first step finish by themselves
(17 R377). -/
def dropTeam (s : State) (t : Nat) : State :=
  let s := { s with
    ops := s.ops.filter (fun o => !s.isOf t o.sp), cmds := s.cmds.filter (fun c => c.team != t),
    latches := s.latches.filter (fun l => l.team != t), cursors := s.cursors.filter (fun c => c.team != t),
    bins := s.bins.filter (fun b => b.team != t), tokens := s.tokens.filter (fun k => !s.isOf t k.sp),
    rcache := s.rcache.filter (fun x => !s.isOf t x.sp),
    spindles := (enumFrom 0 s.spindles).map (fun (x : Nat × Spindle) => if x.2.team == t then x.2.endWith (commitMask s x.1) else x.2) }
  s.modTeam t (fun x => { x with nbars := List.replicate 16 NBar.fresh, chunks := [], growq := [], arena := [], scratch := [],
                                 scratchPoison := [], face := [], facePoison := [], snap := none, tbcount := 0, reserve := none })

def TeamSt.over : TeamSt → Bool
  | .ended => true
  | .killed => true
  | _ => false
def TeamSt.placed : TeamSt → Bool
  | .running => true
  | .suspending => true
  | .suspended => true
  | _ => false

/-- The team holds rows and shares on its cores. -/
def TeamSt.holds : TeamSt → Bool
  | .running => true
  | .suspending => true
  | _ => false

/-- Discards a team's undo pre-images (its lines lose their tags). -/
def dropUndo (s : State) (t : Nat) : State :=
  s.modMem (fun m => { m with home := m.home.map (fun h => if h.undo.any (fun u => u.team == t) then { h with undo := h.undo.filter (fun u => u.team != t) } else h) })

-- The provisional records of the rotation scan (21 R447)

/-- The physical address of a core's provisional record, none while the scan is off. -/
def scanRecPa (s : State) (core : Nat) : Option Nat := if baseOf s.adeol.scanrec = 0 then none else some (baseOf s.adeol.scanrec + 4096 * core)

/-- The number of a team's launch. -/
def State.launchNum (s : State) (t : Nat) : Nat :=
  match s.launches[(s.team t).launch]? with
  | some l => l.num
  | none => 0

/-- The key fields of a team's entry: PNUM, ASID, TEAM and LAUNCH. -/
def scanKey (s : State) (t : Nat) : Nat :=
  let x := s.team t
  let num := s.launchNum t
  (s.part x.part).pnum.toNat ||| atByte 2 (s.part x.part).asid.toNat ||| atByte 4 (x.idx % 2 ^ 24) ||| atByte 8 (num % 2 ^ 48)

/-- The place of a team's entry in a record. -/
def scanEntry (s : State) (pa t : Nat) : Option Nat :=
  (List.range (min 126 (paRead s (pa + 8) 4))).find? (fun i => paReads s (pa + 64 + 32 * i) 16 == scanKey s t)

/-- A team takes a slot on a core: its entry is updated, or added with TFIRST. -/
def scanEnter (s : State) (core t : Nat) : State :=
  match scanRecPa s core with
  | none => s
  | some pa =>
    match scanEntry s pa t with
    | some i => paWrite s (pa + 64 + 32 * i + 24) 8 s.clock.ns
    | none =>
      let n := paRead s (pa + 8) 4
      if 126 ≤ n then paWrite s (pa + 12) 1 1
      else paWrite (paWrites s (pa + 64 + 32 * n) 32 (scanKey s t ||| atByte 16 s.clock.ns ||| atByte 24 s.clock.ns)) (pa + 8) 4 (n + 1)

/-- A team leaves a core: TLAST is written. -/
def scanLeave (s : State) (core t : Nat) : State :=
  match scanRecPa s core with
  | none => s
  | some pa =>
    match scanEntry s pa t with
    | some i => paWrite s (pa + 64 + 32 * i + 24) 8 s.clock.ns
    | none => s

/-- A team leaves all its cores. -/
def leaveCores (s : State) (t : Nat) : State := (s.team t).ranks.foldl (fun s c => scanLeave s c t) s

/-- A team is KILLED, with its report in its context record (17 R379). -/
def markKilled (s : State) (t : Nat) (r : KillRep) : State :=
  let s := s.modTeam t (fun x => { x with st := .killed, kill := some r })
  putTeamState (devPut s (s.teamWho t) ((s.team t).arenaBase + 0x340#64) 256 (r.bytes s.clock.ns)) t 5

/-- The destinations that a team's started commands have partly written (17 R377). -/
def cutParts (s : State) (t : Nat) : List PartRange :=
  (s.cmds.filter (fun c => c.team == t && (c.st != .ran || !c.remote.isEmpty))).flatMap (·.parts)

/-- Kills one team, placed or not (17 R377, R379). -/
def killOne (s : State) (t : Nat) (r : KillRep) : State :=
  if (s.team t).st.over then s
  else
    let r := { r with parts := r.parts ++ cutParts s t }
    let s := if (s.team t).st.holds then leaveCores s t else s
    markKilled (dropUndo (dropTeam s t) t) t r

def KillRep.plain (cause : BitVec 8) (source : Nat) : KillRep :=
  { cause := cause, hcause := 0#8, source := source, lmask := 0#32, spidx := 0, pc := 0#64, addr := 0#64, parts := [] }

/-- The teams of a launch. -/
def State.teamsOf (s : State) (n : Nat) : List Nat := (List.range s.teams.length).filter (fun t => (s.team t).launch == n)

/-- The siblings of a killed team of a cooperative launch are killed (17 R378). -/
def killSiblings (s : State) (t : Nat) : State :=
  let n := (s.team t).launch
  let coop := match s.launches[n]? with
    | some l => l.info.coop
    | none => false
  if coop then (s.teamsOf n).foldl (fun s u => if u = t then s else killOne s u (KillRep.plain 0x1D#8 7)) s else s

/-- Kills a team and, in a cooperative launch, its siblings (17 R377, R378). -/
def killTeam (s : State) (t : Nat) (r : KillRep) : State := killSiblings (killOne s t r) t

-- The register cache (12 R287-R290)

/-- The line of v register r of spindle i is present. -/
def rcHas (s : State) (i r : Nat) : Bool := s.rcache.any (fun x => x.sp == i && x.reg == r)
/-- Lines of spindle i are used: they stand present, as the most recently used ones. -/
def rcUse (s : State) (i : Nat) (regs : List Nat) (dirty : Bool) : State :=
  { s with rcache := regs.foldl (fun l r =>
      let old := l.find? (fun x => x.sp == i && x.reg == r)
      l.filter (fun x => !(x.sp == i && x.reg == r)) ++ [{ core := (s.spindle i).core, sp := i, reg := r, dirty := dirty || old.any (·.dirty), gathered := old.bind (·.gathered) }]) s.rcache }
/-- No line of spindle i is present. -/
def rcDrop (s : State) (i : Nat) : State := { s with rcache := s.rcache.filter (fun x => x.sp != i) }
/-- The lines of spindle i are as in memory, and none is gathered: it has left its slot, or its image is current (01 R38; 12 R288). -/
def rcClean (s : State) (i : Nat) : State :=
  { s with rcache := s.rcache.map (fun x => if x.sp == i then { x with dirty := false, gathered := none } else x) }

/-- The line of v register r (01 R35). -/
def vectorLine (sp : Spindle) (r : Nat) : Nat :=
  (cellRange sp.v (32 * r) 32).foldl (fun acc c => acc ||| atByte (4 * (c.1 - 32 * r)) c.2.toNat) 0

/-- The address of the line of v register r of spindle i: in its chunks, or in the frame slot while its handler runs (01 R35, 11 R270). -/
def State.vectorVa (s : State) (i r : Nat) : DWord :=
  match (s.spindle i).trapped with
  | some t => t.frame + BitVec.ofNat 64 (0x1000 + 128 * r)
  | none => (s.teamOf i).chunkVa ((s.spindle i).chunks.getD (r / 16) 0) + BitVec.ofNat 64 (128 * (r % 16))

/-- Registers of spindle i take new values beside an issue: a present line is dirty, an absent one is written to the image, from which it will enter
on demand (12 R287, R288). A line that must wait is written when it can be. -/
def vectorsSet (s : State) (i : Nat) (regs : List Nat) : State :=
  regs.foldl (fun s r =>
    if rcHas s i r then { s with rcache := s.rcache.map (fun x => if x.sp == i && x.reg == r then { x with dirty := true } else x) }
    else
      let v := vectorLine (s.spindle i) r
      match devWriteLine s (s.who i) (s.vectorVa i r) v (cellGet (s.spindle i).vpoison r) with
      | .ok s _ => s
      | .wait _ => devPut s (s.who i) (s.vectorVa i r) 128 v
      | _ => s) s

-- Transactions (11 R260, 14 R332, R339)

/-- Restores the checkpoint of a lane (14 R322). -/
def restoreChk (sp : Spindle) (l : Nat) (x : Txn) : Spindle :=
  let v := cellSets (sp.v.filter (fun c => c.1 % 32 != l)) (x.chkV.map (fun c => (32 * c.1 + l, c.2)))
  let sp := { sp with v := v }
  let sp := (List.range 7).foldl (fun sp q => sp.setPred q (laneBit l) (if x.chkP.getLsbD q then laneBit l else 0#32)) sp
  sp.modLane l (fun y => { y with fpflags := x.chkFlags, rng := x.chkRng })

/-- The checkpoint of a lane: v registers, predicates, FPFLAGS and generator (11 R256). -/
def Spindle.chkV (sp : Spindle) (l : Nat) : Cells 32 :=
  (sp.v.filter (fun c => c.1 % 32 == l)).map (fun c => (c.1 / 32, c.2))
def Spindle.chkP (sp : Spindle) (l : Nat) : BitVec 7 :=
  BitVec.ofNat 7 ((List.range 7).foldl (fun acc q => if (sp.pred q).getLsbD l then acc ||| 2 ^ q else acc) 0)

/-- Starts a transaction in a lane (11 R256). -/
def beginTxn (s : State) (i l : Nat) (ts : Bool) (fallback txbpc : DWord) : State :=
  s.modSp i (fun sp => sp.modLane l (fun x =>
    { x with tx := true, txn := some { ts := ts, fallback := fallback, txbpc := txbpc, start := s.clock.ns, chkV := sp.chkV l, chkP := sp.chkP l,
                                       chkFlags := x.fpflags, chkRng := x.rng, chkRegs := [], reads := [], writes := [] } }))

/-- A request for the domain's token (14 R340). -/
def askToken (s : State) (i l : Nat) : State :=
  let sp := s.spindle i
  let ea := eaOf (s.partOf i).asid sp.domain
  if s.tokens.any (fun k => k.sp == i && k.lane == l) then s
  else { s with tokens := s.tokens ++ [{ ea := ea, va := sp.domain, seq := (sp.lane l).seq, sp := i, lane := l, since := s.clock.ns, granted := false }] }

/-- The token is asked for no longer. -/
def dropToken (s : State) (i l : Nat) : State := { s with tokens := s.tokens.filter (fun k => !(k.sp == i && k.lane == l)) }

/-- A commit of lane l of spindle i that waits gives its locks back. -/
def dropCommit (s : State) (i l : Nat) : State :=
  s.modMem (fun m => { m with commits := m.commits.filter (fun c => !(c.sp == i && c.lanes.getLsbD l)) })

/-- What stands against a domain word: none where it lies on a device-coherent or system-coherent page of this device (14 R336), else the RIGHTS
field that a record of CLASS gives (12 R297). -/
def domainFault (s : State) (i : Nat) : State × Option (BitVec 16) :=
  let w := s.who i
  let va := (s.spindle i).domain
  let ea := eaOf w.asid va
  let nd : Need := { r := true, w := true, x := false }
  let rv := (rightsFind s.mem w.core ea (pageOf va)).isNone
  if !canonical va then (s, some (rightsField none nd false false))
  else
    match rightsOf s w.core w.pn ea (pageOf va) with
    | (s, .leaf e) => (s, if leafClass e == 0 then some (rightsField (some e) nd (sealedPage s.mem ea (pageOf va)) rv) else none)
    | (s, _) => (s, some (rightsField none nd false false))

/-- Lane l parks at its PC with a precise trap of its own pending (11 R268). -/
def pendTrap (s : State) (i l : Nat) (cause : BitVec 8) (addr : DWord) (wpart : BitVec 8) (rights : BitVec 16) : State :=
  s.modLane i l (fun y =>
    { y with st := .parked, page := none, pendingTrap := true, tcause := cause.setWidth 9, tcode := 0#7,
             record := some { cause := cause, defer := false, pending := true, chained := y.chained, acc := 0#5, wpart := wpart, rights := rights, pc := y.pc,
                              addr := addr, tissue := y.issued, tdetect := s.clock.ns } })

/-- Participation of lane l in w0-w7 (12 R297 WPART). -/
def Spindle.wpartOf (sp : Spindle) (l : Nat) : BitVec 8 :=
  BitVec.ofNat 8 ((List.range 8).foldl (fun acc n => if (cellGet sp.wpart n).getLsbD l then acc ||| 2 ^ n else acc) 0)

/-- A serial thread asks for its token, and waits, where its domain word's class holds; else CLASS is pending (14 R336, R339). -/
def askSerial (s : State) (i l : Nat) : State :=
  match domainFault s i with
  | (s, none) => (askToken s i l).modLane i l (fun y => { y with st := .held .serial })
  | (s, some r) => pendTrap s i l 0x0A#8 (s.spindle i).domain ((s.spindle i).wpartOf l) r

/-- An ordered thread starts again at its entry, speculatively or, waiting for its token, serially (14 R339). The class of its domain word is
checked before a token is asked for; DEDUCED (log entry 93): a serial thread whose check fails parks at its entry with CLASS pending. -/
def restartOrdered (s : State) (i l : Nat) (ser : Bool) : State :=
  let entry := (s.spindle i).entry
  let s := (dropToken s i l).modLane i l (fun x => { x with pc := entry, tx := false, txn := none, serial := ser, stamp := s.clock.cycle, st := .eligible,
                                                            chained := false })
  if ser then askSerial s i l else beginTxn s i l false 0#64 entry

/-- Delay of an abort at attempt a, with jitter j (11 R260, 01 R30). -/
def backoffCycles (txctl : BitVec 12) (a : Nat) (j : Word) : Nat :=
  let base := (txctl.extractLsb' 0 4).toNat
  let cap := (txctl.extractLsb' 4 4).toNat
  min (2 ^ cap) (2 ^ base * 2 ^ a) + j.toNat % 2 ^ base

/-- Aborts a lane's open transaction (11 R260, 14 R332, R339): causes 1 LANE, 2 VALIDATE, 3 CAPACITY, 4 EXPLICIT, 5 FAULT,
6 PREEMPT. The lane's state after a FAULT abort is its caller's. -/
def abortTx (s : State) (i l : Nat) (cause : BitVec 3) (xcode : BitVec 7) (fcause : BitVec 8) : State :=
  match (s.lane i l).txn with
  | none => s
  | some x =>
    let spec := (s.lane i l).spec
    let a := (s.lane i l).txatt.toNat
    let txctl := (s.spindle i).txctl
    let attempts := (txctl.extractLsb' 8 4).toNat
    let s := vectorsSet ((dropCommit s i l).modSp i (fun sp => restoreChk sp l x)) i x.chkRegs
    let s := s.modLane i l (fun y => { y with
      tx := false, txn := none,
      txstat := { y.txstat with committed := false, cause := cause, xcode := if cause == 4#3 then xcode else y.txstat.xcode,
                                fcause := if cause == 5#3 then fcause else 0#8 } })
    if spec then
      let s := s.modLane i l (fun y => { y with txatt := BitVec.ofNat 4 (min 15 (a + 1)) })
      restartOrdered s i l (cause == 3#3 || cause == 4#3 || cause == 5#3 || (cause == 2#3 && decide (attempts ≤ min 15 (a + 1))))
    else if (cause == 1#3 || cause == 2#3 || cause == 6#3) && decide (a < attempts) then
      let g := srStep (s.lane i l).boff
      s.modLane i l (fun y => { y with
        pc := x.txbpc, restart := true, stamp := s.clock.cycle,
        boff := if cause == 6#3 then y.boff else g,
        st := if cause == 6#3 then .eligible else .backoff (s.clock.cycle + backoffCycles txctl a g) })
    else s.modLane i l (fun y => { y with pc := x.fallback, stamp := s.clock.cycle, st := .eligible })

-- Reconvergence barriers (05 R124)

def Spindle.wParticipants (sp : Spindle) (n : Nat) : LaneMask := cellGet sp.wpart n
def Spindle.wArrived (sp : Spindle) (n : Nat) : LaneMask := cellGet sp.warr n

/-- The lanes of the program that a spindle runs: those of the trapped image while its handler runs (11 R272). -/
def Spindle.progLanes (sp : Spindle) : List Lane :=
  match sp.trapped with
  | some t => t.lanes
  | none => sp.lanes

/-- The identities of the `REGGROW` requests that lanes are held in, rising (11 R264). -/
def growIds (l : List Lane) : List Nat :=
  l.foldl (fun acc y => match y.st with
    | .held (.reggrow _ _ id) => insertNat acc id
    | _ => acc) []

/-- `evaluate(N)` of R124. -/
def rcvEval (s : State) (i n : Nat) : State :=
  let sp := s.spindle i
  let part := sp.wParticipants n
  let ok := maskBy (fun l => (sp.wArrived n).getLsbD l || (sp.lane l).st == .exited || ((sp.lane l).st.isParked && sp.wpark.getLsbD n))
  let held := sp.lanesIn (fun st => st == .held (.rcvw n))
  if part &&& ~~~ok == 0#32 && (held != 0#32 || sp.wArrived n != 0#32) then
    (s.modLanes i held (fun _ y => { y with st := .eligible, pc := y.pc + 4#64, stamp := s.clock.cycle })).modSp i
      (fun sp => { sp with warr := cellSet sp.warr n 0#32 })
  else s
/-- Changes lane l of the program of spindle i: of the trapped image while its handler runs. -/
def modProg (s : State) (i l : Nat) (f : Lane → Lane) : State :=
  s.modSp i (fun sp => match sp.trapped with
    | some t => { sp with trapped := some { t with lanes := t.lanes.modify l f } }
    | none => sp.modLane l f)

/-- A lane that no release has reached yet. -/
def Lane.unreleased (y : Lane) : Bool := y.rel.isNone

/-- `evaluate(N)` for the barriers of a trapped image: the release is recorded, and takes effect at `ERET` (11 R272). -/
def rcvEvalTrapped (n : Nat) (t : Trapped) : Trapped :=
  let ln (l : Nat) : Lane := t.lanes.getD l Lane.blank
  let arr := cellGet t.warr n
  let ok := maskBy (fun l => arr.getLsbD l || (ln l).st == .exited || ((ln l).st.isParked && t.wpark.getLsbD n))
  let held := maskBy (fun l => (ln l).st == .held (.rcvw n) && (ln l).unreleased)
  if cellGet t.wpart n &&& ~~~ok == 0#32 && (held != 0#32 || arr != 0#32) then
    { t with lanes := (enumFrom 0 t.lanes).map (fun x => if held.getLsbD x.1 then { x.2 with rel := some { pc := x.2.pc + 4#64, val := none } } else x.2),
             warr := cellSet t.warr n 0#32, wrel := t.wrel ||| BitVec.ofNat 8 (2 ^ n) }
  else t
/-- The barriers of a trapped image are looked at. -/
def rcvEvalProg (s : State) (i : Nat) : State :=
  s.modSp i (fun sp => { sp with trapped := sp.trapped.map (fun t => (List.range 8).foldl (fun t n => rcvEvalTrapped n t) t) })

/-- The device evaluates whenever a participant exits or parks (05 R124). -/
def rcvEvalAll (s : State) (i : Nat) : State := (List.range 8).foldl (fun s n => rcvEval s i n) s

-- Parking (00 R12 `fault`, 11 R268, 12 R292, R297)

/-- The ACC field: log2 of the size, write, atomic (12 R297). -/
def accField (log2 : Nat) (write atomic : Bool) : BitVec 5 := BitVec.ofNat 5 (log2 ||| boolNat write <<< 3 ||| boolNat atomic <<< 4)

/-- `fault(cause)` for one lane of the issuing word: it parks at the word with a record and enters the pending trap mask.
In handler context any fault kills the team (11 R273). In an ordered speculative thread it aborts the transaction and is
not delivered (14 R332). -/
def faultLane (s : State) (i l : Nat) (cause : BitVec 8) (addr : DWord) (acc : BitVec 5) (rights : BitVec 16) : State :=
  let sp := s.spindle i
  let ln := sp.lane l
  if sp.st == .ended then s
  else
  match sp.trapped with
  | some t =>
    killTeam s sp.team { cause := t.cause.setWidth 8, hcause := cause, source := 2, lmask := t.lmask, spidx := sp.idx, pc := s.cur.pc, addr := addr, parts := [] }
  | none =>
    if ln.tx && ln.spec then abortTx s i l 5#3 0#7 cause
    else
      let r : LaneRec := { cause := cause, defer := false, pending := true, chained := s.cur.chained, acc := acc, wpart := sp.wpartOf l,
                           rights := rights, pc := s.cur.pc, addr := addr, tissue := s.clock.ns, tdetect := s.clock.ns }
      s.modLane i l (fun y => { y with st := .parked, pc := s.cur.pc, record := some r, page := none, pendingTrap := true, tcause := cause.setWidth 9, tcode := 0#7 })

/-- `fault(cause)` for a set of lanes. -/
def faultLanes (s : State) (x : LaneMask) (cause : BitVec 8) (addr : DWord) : State :=
  (lanesOf x).foldl (fun s l => faultLane s s.cur.sp l cause addr 0#5 0#16) s

/-- A lane parks until its page is resident (12 R292): no trap is pending. -/
def absentLane (s : State) (i l ea page : Nat) (addr : DWord) (acc : BitVec 5) (rights : BitVec 16) : State :=
  let sp := s.spindle i
  let r : LaneRec := { cause := 0x0B#8, defer := false, pending := false, chained := s.cur.chained, acc := acc, wpart := sp.wpartOf l, rights := rights,
                       pc := s.cur.pc, addr := addr, tissue := s.clock.ns, tdetect := s.clock.ns }
  s.modLane i l (fun y => { y with st := .parked, pc := s.cur.pc, record := some r, page := some (ea, page) })

/-- The fragment is not ready: its lanes try again (12 R281). `host` names a line asked back from the host. -/
def stallLanes (s : State) (x : LaneMask) (host : Option Nat) : State :=
  let s := s.modLanes s.cur.sp x (fun _ y => if y.st.isEligible then { y with st := .stalled } else y)
  let s := s.askBack host
  { s with cur := { s.cur with more := false } }

-- The register image (01 R35-R38)

/-- n-byte fields of the lanes or registers of a line. -/
def packBytes (n : Nat) (l : List Nat) : Nat := (enumFrom 0 l).foldl (fun acc x => acc ||| atByte (n * x.1) x.2) 0

/-- The lines of the uniform chunk (01 R36, R37); lines 14 and 15 are zero. DESIGN CHOICE (log entry 106): the waiting mask holds the lanes at
`WAITC` (12 R278), and not those at `RCVW` (05 R124). -/
def uniformLines (s : State) (i : Nat) : List Nat :=
  let sp := s.spindle i
  let all := List.range 32
  let mask (f : Lane → Bool) : Nat := (maskBy (fun l => f (sp.lane l))).toNat
  [ 0x0100_0000 ||| sp.vcount <<< 8 ||| atByte 4 (sp.idx % 1024) ||| atByte 8 sp.gang.toNat ||| atByte 16 (boolNat sp.ftz) ||| atByte 20 sp.srseed.toNat |||
      atByte 24 sp.txctl.toNat ||| atByte 28 sp.bankconf.toNat ||| atByte 32 (packBytes 1 ((List.range 8).map (fun n => (sp.getK n).toNat))) |||
      atByte 40 (packBytes 1 ((List.range 12).map (fun n => (sp.flag n).toNat))) |||
      atByte 64 (packBytes 4 ((List.range 8).map (fun n => sp.chunks.getD n 0xFFFF_FFFF))),
    packBytes 16 ((List.range 8).map (fun n => (sp.wParticipants n).toNat ||| (sp.wArrived n).toNat <<< 32 ||| boolNat (sp.wpark.getLsbD n) <<< 64)),
    packBytes 4 (all.map (fun n => (sp.getS n).toNat)),
    packBytes 4 (all.map (fun n => (sp.getS (32 + n)).toNat)),
    packBytes 1 ((List.range 128).map (fun n => (sp.pmEntry 0 n).toNat)),
    packBytes 1 ((List.range 128).map (fun n => (sp.pmEntry 1 n).toNat)),
    packBytes 8 ((List.range 16).map (fun l => (sp.lane l).pc.toNat)),
    packBytes 8 ((List.range 16).map (fun l => (sp.lane (16 + l)).pc.toNat)),
    packBytes 4 ((List.range 7).map (fun q => (sp.pred q).toNat)) ||| atByte 28 sp.live.toNat ||| atByte 32 (mask (fun l => l.st.isParked)) |||
      atByte 36 (mask (fun l => l.st.isWaiting)) ||| atByte 40 (mask (fun l => l.pendingTrap)) ||| atByte 44 (mask (fun l => l.deferred.isSome)) |||
      atByte 48 (mask (fun l => l.restart)),
    packBytes 4 (all.map (fun l => (sp.lane l).tstat.toNat)),
    packBytes 4 (all.map (fun l => (sp.lane l).fpflags.toNat)),
    packBytes 4 (all.map (fun l => (sp.lane l).rng.toNat)),
    packBytes 4 (all.map (fun l => (sp.lane l).tcause.toNat)),
    packBytes 4 (all.map (fun l => (sp.lane l).txWord.toNat)), 0, 0 ]

/-- Writes a list of lines, each with its address and marks. -/
def putLines (s : State) (w : Who) (l : List (DWord × Nat × BitVec 4)) : Got Unit :=
  l.foldl (fun r x =>
    match r with
    | .ok s _ => devWriteLine s w x.1 x.2.1 x.2.2
    | r => r) (.ok s ())

/-- The v registers of spindle i whose lines are dirty in the register cache. -/
def rcDirty (s : State) (i : Nat) : List Nat := (s.rcache.filter (fun x => x.sp == i && x.dirty)).map (·.reg)

/-- The image in memory is current: the lines are clean, and the device knows the TCAUSE values that it wrote. -/
def imageWritten (s : State) (i : Nat) : State :=
  rcClean (s.modSp i (fun sp => { sp with lanes := sp.lanes.map (fun y => { y with imgcause := y.tcause }) })) i

/-- Writes every dirty image line of spindle i back: its uniform lines and the dirty vector lines of the register cache (01 R38). -/
def writeImage (s : State) (i : Nat) : Got Unit :=
  let sp := s.spindle i
  let u := s.imageVa i
  match putLines s (s.who i)
    ((enumFrom 0 (uniformLines s i)).map (fun x => (u + BitVec.ofNat 64 (128 * x.1), x.2, cellGet sp.upoison x.1)) ++
     (rcDirty s i).map (fun r => (s.vectorVa i r, vectorLine sp r, cellGet sp.vpoison r))) with
  | .ok s _ => .ok (imageWritten s i) ()
  | r => r

/-- A line as memory holds it, without an access: the bytes that a fetch on demand will find (12 R288). Zero where no byte is there. -/
def peekLine (s : State) (w : Who) (va : DWord) : Nat × BitVec 4 :=
  let ea := eaOf w.asid va
  let x : Line := match homeFind s.mem ea (lnOf va) with
    | some h => homeView s.mem h
    | none => (match bufFind s.mem ea (lnOf va) with
      | some b => b.line
      | none => Line.empty)
  let x := match linePa s ea (lnOf va) with
    | some pa => x.under (physLine s.mem pa) (physMarks s.mem pa)
    | none => x
  (x.data.toNat, x.poison)

/-- Reads lines, with their marks. -/
def getLines (s : State) (w : Who) (l : List DWord) : Got (List (Nat × BitVec 4)) :=
  l.foldl (fun r va =>
    match r with
    | .ok s acc =>
      match devReadLine s w va with
      | .ok s x => .ok s (acc ++ [x])
      | .bad s c r => .bad s c r
      | .absent s ea pg => .absent s ea pg
      | .wait h => .wait h
    | r => r) (.ok s [])

/-- The address of the first marked sector among lines from an address. -/
def markedSector (base : DWord) (u : List (Nat × BitVec 4)) : Option DWord :=
  (enumFrom 0 u).findSome? (fun x => ((List.range 4).find? (x.2.2.getLsbD ·)).map (fun k => base + BitVec.ofNat 64 (128 * x.1 + 32 * k)))

/-- A GANG value that an `MTS` accepts (01 R22). -/
def gangOk (g : DWord) : Bool :=
  let n := (g.extractLsb' 60 3).toNat
  !g.getLsbD 63 && n != 1 && n != 7 && bitsOf g.toNat (10 * n) (60 - 10 * n) == 0

/-- Field n of width k bytes of a line. -/
def unpack (line k n : Nat) : Nat := bitsOf line (8 * k * n) (8 * k)

/-- The edits that a refetched image makes (01 R38): `u` the uniform lines, `v` the vector lines. TCAUSE is edited where line 12 differs from
what the device wrote, so that a cause which the device set since then stays (DEDUCED, 11 R268; log entry 28). DESIGN CHOICE (log entry 87):
an edited generator state of zero becomes the seed for zero, and reserved bits of an edited FPFLAGS or TCAUSE entry are dropped. -/
def applyImage (sp : Spindle) (u : List Nat) (v : List (Nat × BitVec 4)) : Spindle :=
  let ln (n : Nat) : Nat := u.getD n 0
  let cells (w n : Nat) (f : Nat → Nat) : Cells w := cellSets [] ((List.range n).map (fun k => (k, BitVec.ofNat w (f k))))
  let gang := BitVec.ofNat 64 (unpack (ln 0) 8 1)
  let fpm := unpack (ln 0) 4 4
  let txc := unpack (ln 0) 4 6
  { sp with
    gang := if gangOk gang then gang else sp.gang,
    ftz := if fpm ≤ 1 then fpm == 1 else sp.ftz,
    srseed := BitVec.ofNat 32 (unpack (ln 0) 4 5),
    txctl := if txc < 2 ^ 12 then BitVec.ofNat 12 txc else sp.txctl,
    bankconf := BitVec.ofNat 32 (unpack (ln 0) 4 7),
    wpart := cells 32 8 (fun n => bitsOf (ln 1) (128 * n) 32),
    warr := cells 32 8 (fun n => bitsOf (ln 1) (128 * n + 32) 32),
    wpark := BitVec.ofNat 8 ((List.range 8).foldl (fun acc n => if (ln 1).testBit (128 * n + 64) then acc ||| 2 ^ n else acc) 0),
    s := cells 32 64 (fun n => unpack (ln (2 + n / 32)) 4 (n % 32)),
    pm := cellSets [] ((List.range 256).map (fun k => (k, BitVec.ofNat 8 (unpack (ln (4 + k / 128)) 1 (k % 128)) ^^^ BitVec.ofNat 8 (k % 128)))),
    p := cells 32 7 (fun n => unpack (ln 8) 4 n),
    lanes := (enumFrom 0 sp.lanes).map (fun x =>
      { x.2 with
        pc := BitVec.ofNat 64 (unpack (ln (6 + x.1 / 16)) 8 (x.1 % 16)),
        fpflags := BitVec.ofNat 6 (unpack (ln 10) 4 x.1),
        rng := seedOf (BitVec.ofNat 32 (unpack (ln 11) 4 x.1)),
        tcause := if BitVec.ofNat 9 (unpack (ln 12) 4 x.1) == x.2.imgcause then x.2.tcause else BitVec.ofNat 9 (unpack (ln 12) 4 x.1) }),
    v := (enumFrom 0 v).foldl (fun c r => cellSets c ((List.range 32).map (fun l => (32 * r.1 + l, BitVec.ofNat 32 (unpack r.2.1 4 l))))) [],
    vpoison := cellSets [] ((enumFrom 0 v).map (fun r => (r.1, r.2.2))), upoison := [] }

/-- Reads the image of spindle i back from memory: the uniform store takes its lines; the vector lines, none of them present now, enter the
register cache on demand (12 R287, R288). -/
def readImage (s : State) (i : Nat) : Got (List (Nat × BitVec 4) × List (Nat × BitVec 4)) :=
  match getLines s (s.who i) ((List.range 16).map (fun k => s.imageVa i + BitVec.ofNat 64 (128 * k))) with
  | .ok s u => .ok (rcDrop s i) (u, (List.range (s.spindle i).vcount).map (fun r => peekLine s (s.who i) (s.vectorVa i r)))
  | .bad s c r => .bad s c r
  | .absent s ea pg => .absent s ea pg
  | .wait h => .wait h

-- The error ring (21 R445)

/-- Adds an error record, or counts it as dropped. -/
def errRecord (s : State) (kind src unit sect : Nat) (addr : DWord) (pnum launch team interval : Nat) : State :=
  let v := atByte 0 kind ||| atByte 1 src ||| atByte 2 unit ||| atByte 4 sect ||| atByte 8 addr.toNat ||| atByte 16 s.clock.ns |||
    atByte 24 pnum ||| atByte 32 launch ||| atByte 40 team ||| atByte 44 interval
  match ringPush s s.adeol.errring 64 v with
  | some s => s
  | none => { s with adeol := { s.adeol with errstat := BitVec.ofNat 64 (min (s.adeol.errstat.toNat + 1) 0xFFFF_FFFF) } }

-- Rollback (21 R437-R443)

/-- The chunks that a team's spindles hold. -/
def heldChunks (s : State) (t : Nat) : List Nat :=
  (s.spindles.filter (fun sp => sp.team == t)).foldl (fun l sp => (sp.uchunk :: sp.chunks ++ sp.txchunks.map (·.2)).foldl insertNat l) []

/-- The chunks of the snapshot's copies. -/
def Team.snapChunks (x : Team) : List Nat :=
  match x.snap with
  | some sn => sn.chunks
  | none => []

/-- What the interval's opening copies (21 R438); the chunks of the copies of the interval before are free again. -/
def takeSnapshot (s : State) (t : Nat) : State :=
  let x := s.team t
  let own := heldChunks s t
  let sps := (enumFrom 0 s.spindles).filter (fun p => p.2.team == t && p.2.idx < 512 && p.2.st != .ended)
  s.modTeam t (fun y => { y with chunks := y.chunks.filter (fun c => own.contains c || !x.snapChunks.contains c), snap := some {
    spindles := sps, scratch := x.scratch, scratchPoison := x.scratchPoison, face := x.face,
    facePoison := x.facePoison, nbars := x.nbars, tbcount := x.tbcount, spawntimer := x.spawntimer, substcnt := x.substcnt, metaskip := x.metaskip,
    cursors := s.cursors.filter (fun (c : Cursor) => c.team == t && !c.saved), ops := s.ops.filter (fun (o : PendingOp) => s.isOf t o.sp),
    latches := s.latches.filter (fun (l : Latch) => l.team == t), units := [], chunks := [] } })

-- Ages (12 R283)

/-- The spindle becomes the youngest (12 R283). -/
def youngest (s : State) (i : Nat) : State :=
  { s.modSp i (fun sp => { sp with age := s.nextId, aged := s.clock.cycle, fresh := false }) with nextId := s.nextId + 1 }

/-- The spindle has taken its slot: it becomes the youngest, and of the spindles of its quadrant that took theirs in this cycle, and have had no other
age since, the lower slot is the older (12 R283). -/
def newest (s : State) (i : Nat) : State :=
  let s := (youngest s i).modSp i (fun sp => { sp with fresh := true })
  let me := s.spindle i
  let takers := sortBy (fun x => x.2.slot) ((enumFrom 0 s.spindles).filter (fun x =>
    x.2.st == .resident && x.2.core == me.core && x.2.quad == me.quad && x.2.fresh && x.2.aged == s.clock.cycle))
  (takers.zip ((takers.map (fun x => x.2.age)).foldl insertNat [])).foldl (fun s x => s.modSp x.1.1 (fun sp => { sp with age := x.2 })) s

/-- The lowest free slot of a quadrant. -/
def freeSlot (s : State) (core quad : Nat) : Option Nat :=
  (List.range Config.slotsPerQuad).find? (fun k => !s.spindles.any (fun sp => sp.st == .resident && sp.core == core && sp.quad == quad && sp.slot == k))
/-- A free slot in the lowest quadrant that has one. -/
def freePlace (s : State) (core : Nat) : Option (Nat × Nat) :=
  if s.scan.core == some core then none
  else (List.range Config.quadrants).findSome? (fun q => (freeSlot s core q).map (fun k => (q, k)))

/-- Spindle i has taken a slot: it is the newest of its core, and the core's provisional record says so (21 R447). -/
def tookSlot (s : State) (i : Nat) : State := scanEnter (newest s i) (s.spindle i).core (s.spindle i).team

/-- A spindle as its snapshot holds it, its lanes with a fresh stamp, its registers in the register cache or in its image. One that has left its
slot takes one again; without a free slot it stands dormant, its image current, until one is free (21 R442). -/
def restoreSpindle (s : State) (i : Nat) (old : Spindle) : State :=
  let now := s.spindle i
  let x : Spindle := { old with core := now.core, quad := now.quad, slot := now.slot, age := now.age, aged := now.aged, fresh := now.fresh,
                                want := [], lanes := old.lanes.map (fun l => { l with stamp := s.clock.cycle, tx := false, txn := none }) }
  if old.st != .resident || now.st == .resident then vectorsSet (s.modSp i (fun _ => x)) i (List.range old.vcount)
  else
    match freePlace s now.core with
    | some (q, k) => vectorsSet (tookSlot (s.modSp i (fun _ => { x with quad := q, slot := k })) i) i (List.range old.vcount)
    | none =>
      let s := vectorsSet (s.modSp i (fun _ => { x with st := .dormant })) i (List.range old.vcount)
      match writeImage s i with
      | .ok s _ => s
      | _ => s

/-- A cursor number for each of a team's saved cursors on the cores of their ranks: its old number where that is free,
else the lowest free one (10 R231). -/
def seatCursors (taken : List (Nat × Nat)) : List Cursor → List (Cursor × Nat)
  | [] => []
  | c :: rest =>
    let free (n : Nat) : Bool := !taken.contains (c.core, n)
    let n := if free c.num then c.num else ((List.range Config.cursorCount).find? free).getD c.num
    (c, n) :: seatCursors ((c.core, n) :: taken) rest

/-- The cursor numbers of stream registers follow their cursors; `all` takes registers without VALID too. -/
def reseatK (m : List (Nat × Nat)) (all : Bool) (k : Cells 8) : Cells 8 :=
  (List.range 8).foldl (fun acc n =>
    let v := cellGet k n
    match m.find? (fun x => x.1 == (v.extractLsb' 0 6).toNat) with
    | some x => if all || v.getLsbD 7 then cellSet acc n ((v &&& 0x80#8) ||| BitVec.ofNat 8 x.2) else acc
    | none => acc) k

/-- Puts a team's saved cursors, each with the core of its rank, into free cursors of those cores, and rewrites the numbers
in the stream registers, in the commands that wait, and in the open interval's snapshot (10 R231). -/
def reseatCursors (s : State) (t : Nat) (cs : List Cursor) : State :=
  let seats := seatCursors ((s.cursors.filter (fun (c : Cursor) => !c.saved)).map (fun (c : Cursor) => (c.core, c.num))) cs
  let nums (rank : Nat) : List (Nat × Nat) := (seats.filter (fun x => x.1.rank == rank)).map (fun x => (x.1.num, x.2))
  let spk (sp : Spindle) : Spindle :=
    { sp with k := reseatK (nums sp.crank) false sp.k, trapped := sp.trapped.map (fun (r : Trapped) => { r with k := reseatK (nums sp.crank) false r.k }) }
  let s := { s with
    cursors := s.cursors ++ seats.map (fun (x : Cursor × Nat) => { x.1 with num := x.2, saved := false }),
    spindles := s.spindles.map (fun (sp : Spindle) => if sp.team == t then spk sp else sp),
    cmds := s.cmds.map (fun (c : Cmd) => if c.team == t then { c with kregs := reseatK (nums c.rank) true c.kregs } else c) }
  s.modTeam t (fun x => { x with snap := x.snap.map (fun (sn : Snapshot) =>
    { sn with
      spindles := sn.spindles.map (fun p => (p.1, spk p.2)),
      cursors := sn.cursors.map (fun (c : Cursor) => match (nums c.rank).find? (fun y => y.1 == c.num) with
        | some y => { c with num := y.2 }
        | none => c) }) })

/-- Units that team t writes for the first time in its open interval, whatever the bytes, are among its copies (21 R438). -/
def touchUnits (s : State) (t : Nat) (us : List SnapUnit) : State :=
  if (s.team t).snap.isNone then s
  else
    s.modTeam t (fun x => { x with snap := x.snap.map (fun (sn : Snapshot) =>
      { sn with units := us.foldl (fun l u => if l.contains u then l else u :: l) sn.units }) })

/-- A mark that strikes a unit which the interval has not copied yet stands in its copy when that is taken (21 R438). -/
def strikeUnit (s : State) (t : Nat) (u : SnapUnit) (f : Snapshot → Snapshot) : State :=
  s.modTeam t (fun x => { x with snap := x.snap.map (fun (sn : Snapshot) => if sn.units.contains u then sn else f sn) })

/-- A commit past its first step finishes before the pre-images are put back, so that its lines keep only the time of its writes (21 R442 step 1;
14 R327). -/
def commitTimes (s : State) (t : Nat) : State :=
  (s.mem.commits.filter (fun c => s.isOf t c.sp)).foldl (fun s c =>
    (lanesOf c.lanes).foldl (fun s l =>
      match (s.lane c.sp l).txn with
      | none => s
      | some x => x.writes.foldl (fun s y =>
          match homeFind s.mem y.ea y.ln with
          | some h => s.modMem (fun m => homePut m { h with version := s.clock.ns })
          | none => floorNow s y.ea y.ln) s) s) s

/-- A home line gets team t's pre-image back, and loses its tag. -/
def HomeLine.restore (h : HomeLine) (t now : Nat) : HomeLine :=
  match h.undo.find? (fun u => u.team == t) with
  | some u => { h with line := u.line, pend := u.pend, version := now, undo := h.undo.filter (fun v => v.team != t) }
  | none => h

/-- Steps 1 to 6 of a rollback (21 R442). The rerun interval is ineligible. -/
def rollback (s : State) (t : Nat) (addr : DWord) : State :=
  match (s.team t).snap with
  | none => s
  | some sn =>
    let iv := (s.team t).interval
    let s := commitTimes s t
    let s := { s with ops := s.ops.filter (fun (o : PendingOp) => !s.isOf t o.sp) ++ sn.ops, cmds := s.cmds.filter (fun (c : Cmd) => c.team != t),
                      latches := s.latches.filter (fun (l : Latch) => l.team != t) ++ sn.latches,
                      tokens := s.tokens.filter (fun k => !s.isOf t k.sp),
                      mem := { s.mem with commits := s.mem.commits.filter (fun c => !s.isOf t c.sp) },
                      cursors := s.cursors.filter (fun (c : Cursor) => c.team != t) }
    let tagged (ea ln : Nat) : Bool := s.mem.home.any (fun h => h.ea == ea && h.ln == ln && h.undo.any (fun u => u.team == t))
    let owned (m : MemSys) (h : HomeLine) : Bool := m.l1.any (fun x => x.ea == h.ea && x.ln == h.ln && x.owned && x.oteam == t && some x.core == h.owner)
    let s := s.modMem (fun m => { m with
      l1 := m.l1.filter (fun x => !(x.owned && x.oteam == t) && !(!x.owned && tagged x.ea x.ln)),
      home := m.home.map (fun h =>
        (if owned m h then { h with owner := none } else h).restore t s.clock.ns) })
    let s := s.modTeam t (fun x => { x with
      scratch := sn.scratch, scratchPoison := sn.scratchPoison, face := sn.face, facePoison := sn.facePoison,
      nbars := sn.nbars, tbcount := sn.tbcount, spawntimer := sn.spawntimer, substcnt := sn.substcnt, metaskip := sn.metaskip,
      ineligible := true, retried := true })
    let s := sn.spindles.foldl (fun s p => restoreSpindle s p.1 p.2) s
    let s := s.modTeam t (fun x => { x with
      chunks := sn.chunks.foldl insertNat (heldChunks s t),
      growq := (s.spindles.filter (fun (sp : Spindle) => sp.team == t)).foldl (fun l sp => (growIds sp.progLanes).foldl insertNat l) [] })
    let s := reseatCursors s t (sn.cursors.map (fun (c : Cursor) => { c with core := (s.spindle c.sp).core }))
    let a := s.adeol
    let n := bitsOf a.rollstat.toNat 32 32
    let s := { s with adeol := { a with rollstat := BitVec.ofNat 64 (bitsOf a.rollstat.toNat 0 32 ||| (min (n + 1) 0xFFFF_FFFF) <<< 32) } }
    errRecord s 2 0 0 0 addr (s.part (s.team t).part).pnum.toNat (s.launchNum t) (s.team t).idx iv.toNat

/-- Poison met by a team with rollback on: it rolls back, or is killed when its interval is ineligible (21 R441). -/
def poisonTeam (s : State) (t spidx : Nat) (pc addr : DWord) : State :=
  let x := s.team t
  if x.rollb && !x.ineligible && x.snap.isSome then rollback s t addr
  else
    let a := s.adeol
    let n := bitsOf a.rollstat.toNat 0 32
    let s := if x.rollb then { s with adeol := { a with rollstat := BitVec.ofNat 64 (min (n + 1) 0xFFFF_FFFF ||| bitsOf a.rollstat.toNat 32 32 <<< 32) } } else s
    let s := if x.rollb then errRecord s 3 0 0 0 addr (s.part x.part).pnum.toNat (s.launchNum t) x.idx x.interval.toNat else s
    killTeam s t { cause := 0x10#8, hcause := 0#8, source := 4, lmask := 0#32, spidx := spidx, pc := pc, addr := addr, parts := [] }

-- Fetching (03 R463, 18 R408)

/-- The answer of the fetch path. -/
inductive Fetched where
  | word (w : Word)
  | bad (cause : BitVec 8) (rights : BitVec 16)
  | absent (ea page : Nat) (rights : BitVec 16)
  | wait (host : Option Nat)
  deriving DecidableEq, Repr

def icFind (m : MemSys) (core ea ln : Nat) : Option ICLine := m.icache.find? (fun x => x.core == core && x.ea == ea && x.ln == ln)

/-- A line enters a core's instruction cache; a full one loses its oldest line (00 R1; 18 R408). Which line leaves is the model's choice (log
entry 9). -/
def icPut (m : MemSys) (x : ICLine) : MemSys :=
  { m with icache := x :: (if (m.icache.filter (fun y => y.core == x.core)).length < Config.icacheLines then m.icache
                           else (m.icache.reverse.eraseP (fun y => y.core == x.core)).reverse) }

/-- The rights that a fetch needs. -/
def needX : Need := { r := false, w := false, x := true }

/-- One word through spindle i's fetch path: rights, instruction cache, home (03 R463, 18 R408, 21 R433). -/
def fetchWord (s : State) (i : Nat) (va : DWord) : State × Fetched :=
  let w := s.who i
  let ea := eaOf w.asid va
  if !canonical va then (s, .bad 0x09#8 (rightsField none needX false false))
  else
    let rv := (rightsFind s.mem w.core ea (pageOf va)).isNone
    match checkPage s w ea (pageOf va) needX false with
    | .bad s c r => (s, .bad c r)
    | .absent s ea pg => (s, .absent ea pg 0#16)
    | .wait h => (s, .wait h)
    | .ok s e =>
      let rt := rightsField (some e) needX false rv
      let give (data : BitVec 1024) (poison : BitVec 4) : Fetched :=
        if poison &&& sectorMask (offOf va) 4 != 0#4 then .bad 0x10#8 rt else .word (BitVec.ofNat 32 (lineBytesGet data (offOf va) 4))
      match icFind s.mem w.core ea (lnOf va) with
      | some x => (s, give x.data x.poison)
      | none =>
        match homeGet s (some w) ea (lnOf va) 4 false with
        | .ok s h =>
          if byteMask (offOf va) 4 &&& ~~~h.line.valid != 0#128 then (postReq s ea (pageOf va) 4, .absent ea (pageOf va) rt)
          else
            let s := if h.line.valid == BitVec.allOnes 128 then
              s.modMem (fun m => icPut m { core := w.core, ea := ea, ln := lnOf va, data := h.line.data, poison := h.line.poison }) else s
            (s, give h.line.data h.line.poison)
        | .bad s c _ => (s, .bad c rt)
        | .absent s ea pg => (s, .absent ea pg rt)
        | .wait h => (s, .wait h)

/-- `is_header` (05 R118, 03 R73). -/
def isHeader (w : Word) : Bool := fld w 21 7 == 0x7F#7
/-- packet(a) (05 R118). -/
def packetOf (a : DWord) : DWord := a - BitVec.ofNat 64 (a.toNat % 12)
/-- The slot of a word in its packet (03 R67). -/
def slotOf (a : DWord) : Nat := a.toNat % 12 / 4
/-- A branch target: packet(P) + 12 × sign_extend(off, n) (03 R69). -/
def targetOf (pc : DWord) {n : Nat} (off : BitVec n) : DWord := packetOf pc + 12#64 * off.signExtend 64

/-- The nearest header word at or before a packet, searching downwards, and the address of the word that ended the search (03 R77). -/
def headerFrom (s : State) (i : Nat) : Nat → State × Fetched × DWord
  | 0 =>
    match fetchWord s i 0#64 with
    | (s, .word w) => (s, if isHeader w then .word w else .bad 0#8 0#16, 0#64)
    | (s, r) => (s, r, 0#64)
  | n + 1 =>
    match fetchWord s i (BitVec.ofNat 64 (12 * (n + 1))) with
    | (s, .word w) => if isHeader w then (s, .word w, BitVec.ofNat 64 (12 * (n + 1))) else headerFrom s i n
    | (s, r) => (s, r, BitVec.ofNat 64 (12 * (n + 1)))

/-- FA and FB of the clause that holds the issuing word; 15 when the word has no header (03 R77). DESIGN CHOICE (log entry 105): a page on the way
that cannot be made resident ends the search as an unmapped one does. -/
def clauseFlags (s : State) (i : Nat) (pc : DWord) : State × Fetched × DWord :=
  match headerFrom s i (pc.toNat / 12) with
  | (s, .bad _ _, a) => (s, .word 0x1FE#32, a)
  | r => r
def faOf (h : Word) : Nat := (fld h 5 4).toNat
def fbOf (h : Word) : Nat := (fld h 1 4).toNat

/-- What becomes of a lane whose target is checked (05 R118). -/
inductive TargetAns where
  | good
  | bad (cause : BitVec 8) (rights : BitVec 16)
  | absent (ea page : Nat) (rights : BitVec 16)
  | wait (host : Option Nat)
  deriving DecidableEq, Repr

/-- `check_target` of R118. -/
def checkTarget (s : State) (i : Nat) (t : DWord) : State × TargetAns :=
  if t.toNat % 12 != 0 then (s, .bad 0x04#8 0#16)
  else
    match fetchWord s i t with
    | (s, .word w) => (s, if isHeader w then .good else .bad 0x04#8 0#16)
    | (s, .bad c r) => (s, .bad c r)
    | (s, .absent ea pg r) => (s, .absent ea pg r)
    | (s, .wait h) => (s, .wait h)

-- The frame in which an instruction issues

/-- Flag-A operations (03 R75). -/
def isFlagA : Instr → Bool
  | .ld .. => true
  | .lds .. => true
  | .atom .. => true
  | .cas128 .. => true
  | .red .. => true
  | .cinv .. => true
  | .cwb .. => true
  | .cdis .. => true
  | .shfl .. => true
  | .fdiv .. => true
  | .fsqrt .. => true
  | .frsq .. => true
  | .fex2 .. => true
  | .flg2 .. => true
  | .idiv .. => true
  | _ => false

/-- Flag-B operations (03 R75). -/
def isFlagB : Instr → Bool
  | .mma .. => true
  | .tld .. => true
  | .tst .. => true
  | .cpy .. => true
  | .gathf .. => true
  | .scatf .. => true
  | .flu .. => true
  | .fchol .. => true
  | .fqr .. => true
  | .ftrs .. => true
  | .fupd .. => true
  | .sopen .. => true
  | .sclose .. => true
  | .sadv .. => true
  | .sseek .. => true
  | .stend .. => true
  | .sjoin .. => true
  | .sfuse .. => true
  | .stopk .. => true
  | .spawn .. => true
  | .spawno .. => true
  | .launch .. => true
  | _ => false

/-- RESERVED_FIELD in a lane whose TSTAT.TX is 1 (11 R258). -/
def txForbidden : Instr → Bool
  | .atom .. => true
  | .cas128 .. => true
  | .red .. => true
  | .waitc .. => true
  | .acq .. => true
  | .rel .. => true
  | .fence .. => true
  | .bind .. => true
  | .unbind .. => true
  | .cinv .. => true
  | .cwb .. => true
  | .cdis .. => true
  | .seal .. => true
  | .unseal .. => true
  | .tbar .. => true
  | .nbarInit .. => true
  | .nbarArrive .. => true
  | .nbarWait .. => true
  | .nbarArriveWait .. => true
  | .gbar .. => true
  | .txb .. => true
  | .reggrow .. => true
  | .regshrink .. => true
  | .mts .. => true
  | i => isFlagB i

/-- RESERVED_FIELD in handler context (11 R263, R273). -/
def handlerForbidden : Instr → Bool
  | .tbar .. => true
  | .txb .. => true
  | .spawno .. => true
  | .reggrow .. => true
  | .regshrink .. => true
  | _ => false

/-- User access of the system registers (01 R24). -/
def sysUserRead (num : Nat) : Bool := num != 0x08 && num != 0x09
def sysUserWrite (num : Nat) : Bool := [0x01, 0x02, 0x03, 0x0C, 0x10, 0x15, 0x18, 0x19, 0x1A].contains num

/-- Instructions that only privileged threads may execute: PRIVILEGED (01 R23; 11 R274). -/
def needsPriv : Instr → Bool
  | .mfs _ _ _ _ num => !sysUserRead num.toNat
  | .mts _ _ _ _ num => !sysUserWrite num.toNat
  | .eret .. => true
  | _ => false

/-- One past the highest v register of an operand. -/
def Operand.vTop (o : Operand) : Nat :=
  match o.kind with
  | .v => o.num + 1
  | .d => o.num + 2
  | .q => o.num + 4
  | .vs n _ => o.num + n
  | _ => 0

/-- Some v register lies at or above the allocated count (01 R14). -/
def overVcount (i : Instr) (vcount : Nat) : Bool := (operands i).any (fun o => decide (vcount < o.vTop))

/-- The outcome of an instruction's own effect. -/
inductive Eff where
  /-- The effect is done. -/
  | done (s : State)
  /-- The fragment is not ready: nothing is done, and the word issues again. -/
  | stall (host : Option Nat)
  /-- The instruction faults for every executing lane, before any effect. -/
  | bad (cause : BitVec 8) (addr : DWord)
  /-- The lanes wait for a page of the fetch path. -/
  | absent (ea page : Nat) (addr : DWord) (rights : BitVec 16)
  /-- A lane of a team with rollback on consumed poison (21 R441). -/
  | poison (addr : DWord)

/-- The PCs of the fragment's lanes move past n words (03 R68). -/
def State.advance (s : State) (n : Nat) : State :=
  s.modLanes s.cur.sp s.cur.lanes (fun _ y => { y with pc := s.cur.pc + BitVec.ofNat 64 (4 * n), stamp := s.clock.cycle })

/-- `exec_lanes()` of R11. -/
def State.execLanes (s : State) (p : Pfx) : LaneMask := s.cur.lanes &&& (s.spindle s.cur.sp).pred p.g.toNat

/-- An `MMA`'s B share is read by the engine: its poison is a command fault (21 R433). -/
def isMma : Instr → Bool
  | .mma .. => true
  | _ => false

def isEret : Instr → Bool
  | .eret .. => true
  | _ => false

/-- The sectors of the uniform store's lines that an operand lies in, each as line and sector (01 R36). -/
def Operand.uniSectors (o : Operand) : List (Nat × Nat) :=
  let sreg (r : Nat) : Nat × Nat := (2 + r / 32, r % 32 / 8)
  match o.kind with
  | .s => [sreg o.num]
  | .sd => [sreg o.num, sreg (o.num + 1)]
  | .sn n _ => (List.range n).map (fun k => sreg (o.num + k))
  | .p => [(8, 0)]
  | .w => [(1, o.num / 2)]
  | .k => [(0, 1)]
  | .f => [(0, 1)]
  | .pm => (List.range 4).map (fun k => (4 + o.num, k))
  | _ => []

/-- The poisoned sectors of the uniform store that an instruction reads. DEDUCED (log entry 119): as of a vector line, in all its lanes. -/
def uniPoison (sp : Spindle) (i : Instr) : List (Nat × Nat) :=
  if sp.upoison.isEmpty then []
  else (operands i).flatMap (fun o => if o.rd then o.uniSectors.filter (fun h => (cellGet sp.upoison h.1).getLsbD h.2) else [])

/-- The lanes of x that read a poisoned register line (12 R291). -/
def poisonedLanes (sp : Spindle) (i : Instr) (x : LaneMask) : LaneMask :=
  if !(uniPoison sp i).isEmpty then x
  else if sp.vpoison.isEmpty || isMma i then 0#32
  else x &&& maskBy (fun l => (operands i).any (fun o => o.rd && (operandVRegs o).any (fun r => (cellGet sp.vpoison r).getLsbD (l / 8))))

/-- The leaf of the image line of register r says error-tolerant (12 R291). -/
def imageET (s : State) (i r : Nat) : Bool :=
  let va := s.vectorVa i r
  lineET s (eaOf (s.partOf i).asid va) (lnOf va)

/-- Consumption of register lines' poison by the lanes of x (12 R291, 21 R441): zeros on an error-tolerant page, POISON
elsewhere. The failing address is the first such sector's in the image. Answers the lanes that go on, or none when the team rolls back or dies. -/
def regPoison (s : State) (i : Instr) (x : LaneMask) : State × Option LaneMask :=
  let sp := s.spindle s.cur.sp
  let bad := poisonedLanes sp i x
  if bad == 0#32 then (s, some x)
  else
  match uniPoison sp i with
  | h :: _ =>
    let va := s.imageVa s.cur.sp + BitVec.ofNat 64 (128 * h.1 + 32 * h.2)
    if (s.team sp.team).rollb then (poisonTeam s sp.team sp.idx s.cur.pc va, none)
    else ((lanesOf x).foldl (fun s l => faultLane s s.cur.sp l 0x10#8 va 0#5 0#16) s, some 0#32)
  | [] =>
    let regs := ((operands i).flatMap (fun o => if o.rd then operandVRegs o else [])).foldl insertNat []
    let hits := regs.flatMap (fun r => (List.range 4).filterMap (fun k =>
      if (cellGet sp.vpoison r).getLsbD k && (lanesOf x).any (fun l => l / 8 == k) then some (r, k) else none))
    let et := hits.filter (fun h => imageET s s.cur.sp h.1)
    let hard := hits.filter (fun h => !imageET s s.cur.sp h.1)
    let s := s.modSp s.cur.sp (fun sp => et.foldl (fun sp h =>
      { sp with v := sp.v.filter (fun c => !(c.1 / 32 == h.1 && c.1 % 32 / 8 == h.2 && x.getLsbD (c.1 % 32))) }) sp)
    let s := s.modTeam sp.team (fun t => { t with substcnt := satAdd t.substcnt et.length })
    let hl := x &&& maskBy (fun l => hard.any (fun h => h.2 == l / 8))
    if hl == 0#32 then (s, some x)
    else
      let va (h : Nat × Nat) : DWord := s.vectorVa s.cur.sp h.1 + BitVec.ofNat 64 (32 * h.2)
      let first (l : Nat) : DWord := ((hard.find? (fun h => h.2 == l / 8)).map va).getD 0#64
      if (s.team sp.team).rollb then (poisonTeam s sp.team sp.idx s.cur.pc (first (lowestLane hl)), none)
      else ((lanesOf hl).foldl (fun s l => faultLane s s.cur.sp l 0x10#8 (first l) 0#5 0#16) s, some (x &&& ~~~hl))

/-- A write of all eight lanes of a sector clears its poison (12 R291). -/
def clearRegPoison (sp : Spindle) (regs : List Nat) (x : LaneMask) : Spindle :=
  if sp.vpoison.isEmpty then sp
  else
    let m : BitVec 4 := BitVec.ofNat 4 ((List.range 4).foldl (fun acc k => if x.extractLsb' (8 * k) 8 == 0xFF#8 then acc ||| 2 ^ k else acc) 0)
    { sp with vpoison := regs.foldl (fun c r => cellSet c r (cellGet c r &&& ~~~m)) sp.vpoison }

def writtenRegs (i : Instr) : List Nat := (operands i).flatMap (fun o => if o.wr then operandVRegs o else [])

/-- A lane that its word did not park, and that does not wait for its value, has written its destinations. -/
def LaneSt.wrote : LaneSt → Bool
  | .parked => false
  | .waiting => false
  | _ => true

/-- Completes an issue: poison of written lines, and the reconvergence barriers when a lane has parked or left. -/
def settleIssue (i : Instr) (x : LaneMask) (s : State) : State :=
  let s := if isFlagA i then s else s.modSp s.cur.sp (fun sp => clearRegPoison sp (writtenRegs i) (x &&& maskBy (fun l => (sp.lane l).st.wrote)))
  if (lanesOf x).all (fun l => ((s.spindle s.cur.sp).lane l).st.isEligible) then s else rcvEvalAll s s.cur.sp

/-- A cause that the team's rollback takes the place of: poison, in a team with rollback on (21 R433, R441). -/
def rollsBack (s : State) (cause : BitVec 8) : Bool := cause == 0x10#8 && (s.teamOf s.cur.sp).rollb

/-- A fault of lane l at the issuing word, as a part of an instruction's effect. -/
def laneFault (s : State) (l : Nat) (cause : BitVec 8) (addr : DWord) (acc : BitVec 5) (rights : BitVec 16) : Eff :=
  if rollsBack s cause then .poison addr else .done (faultLane s s.cur.sp l cause addr acc rights)

/-- A fault of the lanes x at the issuing word, with what was found of the page. -/
def laneFaults (s : State) (x : LaneMask) (cause : BitVec 8) (addr : DWord) (rights : BitVec 16) : Eff :=
  if rollsBack s cause then .poison addr else .done ((lanesOf x).foldl (fun s l => faultLane s s.cur.sp l cause addr 0#5 rights) s)

/-- What an instruction's own effect leaves: its completion for the lanes x, a fault of the lanes y that it acts for, or a wait. -/
def finishIssue (i : Instr) (x y : LaneMask) (s0 s : State) (r : Eff) : State :=
  match r with
  | .done s => settleIssue i x s
  | .stall h => stallLanes s0 s0.cur.lanes h
  | .bad c a =>
    if rollsBack s c then poisonTeam s (s.spindle s.cur.sp).team (s.spindle s.cur.sp).idx s.cur.pc a else rcvEvalAll (faultLanes s y c a) s.cur.sp
  | .absent ea pg a rt =>
    let s := postReq s ea pg (if isEret i then 5 else 4)
    rcvEvalAll ((lanesOf y).foldl (fun s l => absentLane s s.cur.sp l ea pg a 0#5 rt) s) s.cur.sp
  | .poison a => poisonTeam s (s.spindle s.cur.sp).team (s.spindle s.cur.sp).idx s.cur.pc a

/-- The entry's own effect after the consumption of poisoned register lines. The entry's checks of its operands and its waits come before that
consumption, which is an execution fault (03 R84). -/
def issuePoisoned (i : Instr) (x : LaneMask) (s0 s : State) (eff : LaneMask → State → Eff) : State :=
  match eff x s with
  | .bad c a => finishIssue i x x s0 s (.bad c a)
  | .stall h => finishIssue i x x s0 s (.stall h)
  | .absent ea pg a rt => finishIssue i x x s0 s (.absent ea pg a rt)
  | _ =>
    match regPoison s i x with
    | (s, none) => s
    | (s, some y) => if y == 0#32 then rcvEvalAll s s.cur.sp else finishIssue i x y s0 s (eff y s)

/-- A value that a write refuses: a reserved field is not zero, or a rule of the register's layout is broken (01 R22,
R26-R33). -/
def sysBad (num : Nat) (x : DWord) : Bool :=
  let v := x.toNat
  match num with
  | 0x01 => decide (2 ≤ v)
  | 0x02 => decide (2 ^ 6 ≤ v)
  | 0x08 => !canonical x
  | 0x09 => !canonical x || v % 4096 != 0
  | 0x0A => decide (2 ^ 9 ≤ v)
  | 0x0C => decide (2 ^ 12 ≤ v)
  | 0x10 => decide (2 ^ 16 ≤ v)
  | 0x11 => !canonical x
  | 0x12 => !canonical x
  | 0x13 => !canonical x
  | 0x14 => !canonical x || v % 4096 != 0
  | 0x15 => !gangOk x
  | 0x16 => !canonical x
  | 0x20 => bitsOf v 0 8 != 0 || bitsOf v 56 8 != 0
  | 0x21 => bitsOf v 0 8 != 0 || bitsOf v 56 8 != 0
  | 0x33 => decide (16 ≤ v)
  | _ => false

/-- The value that lane l of an `MTS` to a per-thread register gives has a nonzero reserved field (01 R23; 03 R84 order 8). -/
def laneValueBad (i : Instr) (sp : Spindle) (l : Nat) : Bool :=
  match i with
  | .mts _ d false w64 num => sysBad num.toNat (sp.getVD w64 d.toNat l)
  | _ => false

/-- The effect of a word for the lanes that execute it: privilege, the register count of R14, the transaction and handler rules,
and then the entry's own effect, in the order of R84. -/
def issueExec (i : Instr) (x : LaneMask) (s0 s : State) (eff : LaneMask → State → Eff) : State :=
  let sp := s.spindle s.cur.sp
  let low := if needsPriv i then x &&& maskBy (fun l => !(sp.lane l).priv) else 0#32
  let s := if low == 0#32 then s else faultLanes s low 0x19#8 0#64
  let x := x &&& ~~~low
  if x == 0#32 then rcvEvalAll s s.cur.sp
  else if overVcount i sp.vcount || (handlerForbidden i && sp.inHandler) then rcvEvalAll (faultLanes s x 0x02#8 0#64) s.cur.sp
  else
    let bad := x &&& maskBy (fun l => (txForbidden i && (sp.lane l).tx) || laneValueBad i sp l)
    let s := if bad == 0#32 then s else faultLanes s bad 0x02#8 0#64
    let x := x &&& ~~~bad
    if x == 0#32 then rcvEvalAll s s.cur.sp
    else if poisonedLanes (s.spindle s.cur.sp) i x == 0#32 then finishIssue i x x s0 s (eff x s)
    else issuePoisoned i x s0 s eff

/-- One word of n 32-bit words issues for the fragment: lanes outside `exec_lanes()` only move on (00 R11, 03 R75). -/
def issue (i : Instr) (p : Pfx) (n : Nat) (s : State) (eff : LaneMask → State → Eff) : Host.Outcome State Fault Refusal :=
  let x := s.execLanes p
  if x == 0#32 then .next (s.advance n) else .next (issueExec i x s (s.advance n) eff)

/-- A per-lane effect on the spindle's registers, in ascending lane order, from the values before the instruction
(00 R10, R11). -/
def overLanes (x : LaneMask) (f : Spindle → Nat → Spindle → Spindle) (s : State) : State :=
  s.modSp s.cur.sp (fun old => (lanesOf x).foldl (fun sp l => f old l sp) old)

/-- An instruction that only computes registers of its lanes. -/
def alu (i : Instr) (p : Pfx) (n : Nat) (s : State) (f : Spindle → Nat → Spindle → Spindle) : Host.Outcome State Fault Refusal :=
  issue i p n s (fun x s => .done (overLanes x f s))

/-- An instruction that acts once on the spindle (01 R16). -/
def uniform (i : Instr) (p : Pfx) (n : Nat) (s : State) (f : LaneMask → Spindle → Spindle) : Host.Outcome State Fault Refusal :=
  issue i p n s (fun x s => .done (s.modSp s.cur.sp (f x)))

/-- A loop over the lanes in ascending order that any lane may stop. -/
def overLanesE (x : LaneMask) (s : State) (f : Nat → State → Eff) : Eff :=
  (lanesOf x).foldl (fun r l =>
    match r with
    | .done s => f l s
    | r => r) (.done s)

-- Flags charged (03 R75, 01 R17)

/-- The flag that the issuing word charges: RESERVED_FIELD without one, a wait at a count of 63 (01 R17). -/
def withFlag (s : State) (isA : Bool) (k : State → Nat → Eff) : Eff :=
  match clauseFlags s s.cur.sp s.cur.pc with
  | (s, .word h, _) =>
    let f := if isA then faOf h else fbOf h
    if 11 < f then .bad 0x02#8 0#64
    else if (s.spindle s.cur.sp).flag f == 63#6 then .stall none
    else k s f
  | (_, .bad _ _, _) => .bad 0x02#8 0#64
  | (_, .absent ea pg rt, a) => .absent ea pg a rt
  | (_, .wait h, _) => .stall h

/-- Charges one count. -/
def charge (s : State) (i f : Nat) : State := s.modSp i (fun sp => sp.setFlag f (sp.flag f + 1#6))
/-- An operation falls off its flag. -/
def discharge (s : State) (i f : Nat) : State := s.modSp i (fun sp => sp.setFlag f (sp.flag f - 1#6))

/-- A flag-A operation is under way for lanes x; its results are written at its completion (03 R75, R76). -/
def pendOp (s : State) (f : Nat) (x : LaneMask) (writes : List (Nat × Word)) (pwrites : List (Nat × Nat × Bool)) (second : List Nat) : State :=
  if x == 0#32 then s
  else
    let s := charge s s.cur.sp f
    { s with ops := s.ops ++ [{ id := s.nextId, sp := s.cur.sp, flag := f, lanes := x, writes := writes, pwrites := pwrites, second := second }], nextId := s.nextId + 1 }

/-- The registers of an instruction's second destination, which holds its old value or the result apart from the first (03 R76). -/
def secondRegs : Instr → List Nat
  | .idiv _ _ _ _ e true _ w64 => if w64 then [e.toNat, e.toNat + 1] else [e.toNat]
  | _ => []

/-- A flag-A instruction that computes register results from registers alone. -/
def aluA (i : Instr) (p : Pfx) (n : Nat) (s : State) (f : Spindle → Nat → List (Nat × Word) × (Lane → Lane)) : Host.Outcome State Fault Refusal :=
  issue i p n s (fun x s => withFlag s true (fun s fl =>
    let sp := s.spindle s.cur.sp
    let w := (lanesOf x).flatMap (fun l => (f sp l).1)
    let s := s.modLanes s.cur.sp x (fun l => (f sp l).2)
    .done (pendOp s fl x w [] (secondRegs i))))

-- Records (12 R297, R298; 11 R464)

def LaneRec.bytes (r : LaneRec) : Nat :=
  r.cause.toNat ||| atByte 1 (1 ||| boolNat r.defer <<< 1 ||| boolNat r.pending <<< 2 ||| boolNat r.chained <<< 3) ||| atByte 2 r.acc.toNat |||
    atByte 3 r.wpart.toNat ||| atByte 4 r.rights.toNat ||| atByte 8 r.pc.toNat ||| atByte 16 r.addr.toNat ||| atByte 24 r.tdetect

def DefRec.bytes (d : DefRec) : Nat :=
  d.cause.toNat ||| atByte 1 d.kind ||| atByte 2 (boolNat d.toTeam ||| boolNat d.dropped <<< 1 ||| boolNat (!d.parts.isEmpty) <<< 2) ||| atByte 3 (d.wlane % 32) |||
    atByte 4 (d.wspidx % 1024) ||| atByte 6 d.agent ||| atByte 8 (d.wteam % 2 ^ 24) ||| atByte 12 d.later ||| atByte 16 d.wpc.toNat ||| atByte 24 d.addr.toNat |||
    atByte 32 d.tissue ||| atByte 40 d.tdetect ||| atByte 48 d.bmask.toNat |||
    (if d.kind = 2 then atByte 64 (packBytes 16 ((List.range 3).map (partSlot d.parts))) else 0)

def Snap.bytes (c : Snap) : Nat :=
  c.w0.toNat ||| atByte 4 c.w1.toNat ||| atByte 8 (c.spidx % 1024) ||| atByte 10 c.regs.length ||| atByte 16 c.pc.toNat ||| atByte 24 c.tacc |||
    atByte 32 (packBytes 4 (c.regs.map (·.toNat)))

-- Taking a trap (11 R269-R273)

/-- Lanes whose pending trap waits for delivery. -/
def Spindle.pendMask (sp : Spindle) : LaneMask := maskBy (fun l => (sp.lane l).pendingTrap)

/-- The states of a lane that do not delay a trap's delivery; a lane that waits for its token does (11 R269). -/
def LaneSt.blocked : LaneSt → Bool
  | .exited => true
  | .parked => true
  | .waiting => true
  | .held (.rcvw _) => true
  | .held .tbar => true
  | .held (.nbar ..) => true
  | .held (.gbar _) => true
  | .held .txe => true
  | .held (.reggrow ..) => true
  | _ => false

/-- A commit of spindle i has begun: it holds locks, and waits (14 R329). -/
def commitBegun (s : State) (i : Nat) : Bool := s.mem.commits.any (fun c => c.sp == i)

/-- No lane of the spindle outside the mask can issue: the delivery of its pending trap begins (11 R269). DEDUCED (log entry 114): lanes whose commit
has begun will go on by the commit's own steps, and delay it. -/
def trapBegins (s : State) (i : Nat) : Bool :=
  let sp := s.spindle i
  sp.st == .resident && !sp.inHandler && sp.pendMask != 0#32 && (s.team sp.team).st == .running && !commitBegun s i &&
    (sp.stopped || sp.lanes.all (fun l => l.pendingTrap || l.st.blocked))

/-- A pending trap can be delivered: its delivery has begun, and f0-f11 read clear (11 R269). -/
def trapReady (s : State) (i : Nat) : Bool := trapBegins s i && (s.spindle i).flagsClear

/-- LMASK: every lane with a precise trap and the lowest lane with a deferred report (11 R269). -/
def trapLanes (sp : Spindle) : LaneMask :=
  let d := sp.pendMask &&& maskBy (fun l => (sp.lane l).deferred.isSome)
  (sp.pendMask &&& ~~~d) ||| (if d == 0#32 then 0#32 else laneBit (lowestLane d))

/-- BKIND and BNUM of a lane (11 R271). -/
def bkind : LaneSt → Nat × Nat
  | .held (.rcvw n) => (1, n)
  | .held .tbar => (2, 0)
  | .held (.nbar n _ _) => (3, n)
  | .held (.gbar n) => (4, n)
  | .waiting => (5, 0)
  | .held .txe => (6, 0)
  | .held (.reggrow ..) => (7, 0)
  | _ => (0, 0)

/-- The cause of a lane's pending trap: its record's, which edits of TCAUSE do not reach (12 R300). -/
def Lane.cause (y : Lane) : BitVec 8 :=
  match y.record with
  | some r => r.cause
  | none => y.tcause.setWidth 8

/-- The frame slot of spindle i (11 R270). -/
def State.frameVa (s : State) (i : Nat) : DWord :=
  (s.partOf i).tframe + BitVec.ofNat 64 (0x80_0000 * (s.teamOf i).idx + 0x2000 * (s.spindle i).idx)

/-- A word of the fetch path, 0 where it cannot be read. -/
def peekWord (s : State) (i : Nat) (va : DWord) : Nat :=
  match (fetchWord s i va).2 with
  | .word w => w.toNat
  | _ => 0

/-- The frame record of a trap that delivers the lanes m (11 R271); `txabort`: a transaction of theirs was aborted. -/
def frameRecord (s : State) (i : Nat) (m : LaneMask) (txabort : Bool) : Nat :=
  let sp := s.spindle i
  let lo := lowestLane m
  let ln := sp.lane lo
  let fpc := match ln.record with
    | some r => r.pc
    | none => ln.pc
  let dlane := (lanesOf m).find? (fun l => (sp.lane l).deferred.isSome)
  let d := dlane.bind (fun l => (sp.lane l).deferred)
  let hmask := maskBy (fun l => (bkind (sp.lane l).st).1 != 0)
  let hk := if hmask == 0#32 then (0, 0) else bkind (sp.lane (lowestLane hmask)).st
  let addr := match ln.record with
    | some r => r.addr.toNat
    | none => 0
  let tdet := match ln.record with
    | some r => r.tdetect
    | none => 0
  let tiss := match ln.deferred, ln.record with
    | some d, _ => d.tissue
    | none, some r => r.tissue
    | none, none => 0
  let snap := d.bind (fun d => d.snap)
  (ln.tcode.toNat <<< 9 ||| boolNat d.isSome <<< 8 ||| ln.cause.toNat) ||| atByte 4 m.toNat ||| atByte 8 (sp.lanesIn LaneSt.isParked).toNat |||
    atByte 12 hmask.toNat ||| atByte 16 hk.1 ||| atByte 17 hk.2 ||| atByte 18 (boolNat ln.priv ||| boolNat txabort <<< 1 ||| boolNat snap.isSome <<< 2) |||
    atByte 24 fpc.toNat ||| atByte 32 (peekWord s i fpc) ||| atByte 36 (if slotOf fpc = 2 then 0 else peekWord s i (fpc + 4#64)) ||| atByte 40 addr |||
    atByte 48 tiss ||| atByte 56 tdet ||| atByte 64 s.clock.ns ||| atByte 72 (s.imageVa i).toNat ||| atByte 80 (s.ident i lo).toNat |||
    atByte 0x100 (packBytes 8 (sp.lanes.map (·.pc.toNat))) |||
    atByte 0x200 (packBytes 32 (sp.lanes.map (fun l => if l.st.isParked then (match l.record with
      | some r => r.bytes
      | none => 0) else 0))) |||
    atByte 0x600 (match d with
      | some d => d.bytes
      | none => 0) |||
    atByte 0x680 (match snap with
      | some c => c.bytes
      | none => 0)

/-- The spindle as its handler starts (11 R272). -/
def handlerSpindle (s : State) (i : Nat) (m : LaneMask) (cause : BitVec 16) (frame : DWord) : Spindle :=
  let sp := s.spindle i
  let vec := (s.partOf i).trapvec
  let t : Trapped := { lanes := (enumFrom 0 sp.lanes).map (fun x => if m.getLsbD x.1 then { x.2 with pendingTrap := false, deferred := none } else x.2),
                       lmask := m, cause := cause, vcount := sp.vcount, k := sp.k, uchunk := sp.uchunk, chunks := sp.chunks, frame := frame,
                       epc := sp.lanes.map (·.pc), gang := sp.gang, ftz := sp.ftz, txctl := sp.txctl, wpart := sp.wpart, warr := sp.warr, wpark := sp.wpark,
                       wrel := 0#8, barred := sp.barred }
  { sp with
    vcount := 16, v := [], vpoison := [], upoison := [], p := [], f := [], wpart := [], warr := [], wpark := 0#8, k := [], pm := [], gang := 0#64, ftz := false,
    srseed := 0#32, txctl := 0x8E6#12, bankconf := 0#32,
    s := ((({ sp with s := [] }.setSD 0 frame).setS 2 (cause.setWidth 32)).setS 3 m).s,
    lanes := (enumFrom 0 sp.lanes).map (fun x =>
      if m.getLsbD x.1 then
        { Lane.blank with
          pc := vec, st := .eligible, stamp := s.clock.cycle, priv := true, rollbk := x.2.rollbk, rng := srSeed 0#32 x.1, boff := x.2.boff, tcause := x.2.tcause }
      else { Lane.blank with rollbk := x.2.rollbk, rng := srSeed 0#32 x.1, boff := x.2.boff }),
    stopped := false, barred := none, trapped := some t }

/-- The image of a handler in its frame slot (11 R270): the uniform chunk, then v0-v15. -/
def handlerLines (s : State) (i : Nat) (frame : DWord) : List (DWord × Nat × BitVec 4) :=
  (enumFrom 0 (uniformLines s i)).map (fun x => (frame + BitVec.ofNat 64 (0x800 + 128 * x.1), x.2, 0#4)) ++
  (List.range 16).map (fun r => (frame + BitVec.ofNat 64 (0x1000 + 128 * r), vectorLine (s.spindle i) r, 0#4))

/-- What stops a delivery: the team is killed, or the device waits. -/
inductive TrapAns where
  | ok (s : State)
  | kill (s : State)
  | wait (s : State)

/-- The device's writes of the two pages of a frame slot: their rights, an unusable slot, and an absent page, which is asked for (11 R269). -/
def frameRights (s : State) (i : Nat) (frame : DWord) : TrapAns :=
  let w := s.who i
  [frame, frame + 0x1000#64].foldl (fun r va =>
    match r with
    | .ok s =>
      if !canonical va then .kill s
      else
        match checkPage s w (eaOf w.asid va) (pageOf va) { r := false, w := true, x := false } false with
        | .ok s _ =>
          match agentLeaf s (eaOf w.asid va) (lnOf va) with
          | (.leaf e _, _) => if leafP e then .ok s else .wait (postReq s (eaOf w.asid va) (pageOf va) 5)
          | _ => .ok s
        | .bad s _ _ => .kill s
        | .absent s _ _ => .wait s
        | .wait _ => .wait s
    | r => r) (.ok s)

/-- Step 2 of R269: the open transactions of the mask's lanes abort with FAULT. An ordered speculative thread starts again, serially, and its
trap is not delivered (14 R332). -/
def abortPending (s : State) (i : Nat) : State :=
  (lanesOf (s.spindle i).pendMask).foldl (fun s l =>
    let y := s.lane i l
    if !y.tx then s
    else if y.spec then
      abortTx (s.modLane i l (fun y => { y with pendingTrap := false, deferred := none, record := none, page := none })) i l 5#3 0#7 y.cause
    else (abortTx s i l 5#3 0#7 y.cause).modLane i l (fun y => { y with st := .parked })) s

/-- CAUSE of a trap that delivers the lanes m (11 R271). -/
def trapCause (sp : Spindle) (m : LaneMask) : BitVec 16 :=
  let y := sp.lane (lowestLane m)
  BitVec.ofNat 16 (y.tcode.toNat <<< 9 ||| boolNat ((lanesOf m).any (fun l => (sp.lane l).deferred.isSome)) <<< 8 ||| y.cause.toNat)

/-- TAKING A TRAP (11 R269): aborts the transactions of the mask's lanes, writes the image, the frame and the handler's image, and starts
the handler at TRAPVEC with PRIV set; or kills the team. A page that is absent, or a line that must wait, makes it wait: the state is as before, but for
what has been asked for. -/
def takeTrap (s0 : State) (i : Nat) : State :=
  let s := abortPending s0 i
  let sp := s.spindle i
  let m := trapLanes sp
  let txabort := (lanesOf m).any (fun l => (s0.lane i l).tx)
  let lo := lowestLane m
  let cause := trapCause sp m
  let rep : KillRep := { cause := cause.setWidth 8, hcause := 0#8, source := 1, lmask := m, spidx := sp.idx,
                         pc := match (sp.lane lo).record with
                           | some r => r.pc
                           | none => (sp.lane lo).pc,
                         addr := match (sp.lane lo).record with
                           | some r => r.addr
                           | none => 0#64,
                         parts := [] }
  let kill (s : State) : State := killTeam s sp.team rep
  let held (s : State) (host : Option Nat) : State := (s0.withReqs s.mem.reqs).askBack host
  let frame := s.frameVa i
  if m == 0#32 then s.modSp i (fun sp => { sp with stopped := false })
  else
    match writeImage s i with
    | .bad s _ _ => kill s
    | .absent s _ _ => held s none
    | .wait h => held s h
    | .ok s _ =>
      if (s.partOf i).tframe == 0#64 then kill s
      else
        match frameRights s i frame with
        | .kill s => kill s
        | .wait s => held s none
        | .ok s =>
          match devWrite s (s.who i) frame 2048 (frameRecord s i m txabort) with
          | .bad s _ _ => kill s
          | .absent s _ _ => held s none
          | .wait h => held s h
          | .ok s _ =>
            let s := s.modSp i (fun _ => handlerSpindle s i m cause frame)
            match putLines s (s.who i) (handlerLines s i frame) with
            | .bad s _ _ => kill s
            | .absent s _ _ => held s none
            | .wait h => held s h
            | .ok s _ =>
              let vec := (s.partOf i).trapvec
              if vec == 0#64 then kill s
              else
                match checkTarget s i vec with
                | (s, .good) => rcDrop s i
                | (s, .bad c _) => if c == 0x10#8 && (s.teamOf i).rollb then poisonTeam s sp.team sp.idx vec vec else kill s
                | (s, .absent _ _ _) => held s none
                | (s, .wait h) => held s h

-- Returning from a trap (11 R274)

/-- The release of a team barrier or named barrier is an acquire (07 R180). -/
def LaneSt.acquires : LaneSt → Bool
  | .held .tbar => true
  | .held (.nbar ..) => true
  | _ => false

/-- A lane of the trapped spindle outside LMASK: a release that reached it is applied now (11 R272). -/
def applyRelease (s : State) (i l : Nat) : State :=
  let ln := s.lane i l
  match ln.rel with
  | none => s
  | some r =>
    let s := if ln.st.acquires then coreAcquire s (s.spindle i).core else s
    let s := match r.val, ln.monitor, ln.st with
      | some v, some m, _ => vectorsSet (s.modSp i (fun sp => sp.setVD m.w64 m.dest l v)) i (if m.w64 then [m.dest, m.dest + 1] else [m.dest])
      | some v, none, .held (.nbar _ pair _) => s.modSp i (fun sp => sp.setSD pair v)
      | _, _, _ => s
    s.modLane i l (fun y => { y with pc := r.pc, st := .eligible, rel := none, monitor := none, stamp := s.clock.cycle })

/-- A lane of LMASK goes on: at its image PC, checked as a transfer where it is not at or just after the trapped word. A
failed check is a new pending trap outside handler context. A serial thread that has no token yet waits for it, and one that has not asked asks now
(14 R339; log entry 93). DESIGN CHOICE (log entry 113): its record's TISSUE and TDETECT are the time of the
`ERET`. -/
def resumeLane (s : State) (i l : Nat) (priv : Bool) (epc : DWord) : Got Unit :=
  let t := (s.lane i l).pc
  let mine := s.tokens.find? (fun k => k.sp == i && k.lane == l)
  let st : LaneSt := if (s.lane i l).serial && mine.any (fun k => !k.granted) then .held .serial else .eligible
  let go (s : State) : State :=
    let s := s.modLane i l (fun y => { y with st := st, priv := priv, record := none, pendingTrap := false, stamp := s.clock.cycle })
    if (s.lane i l).serial && mine.isNone then askSerial s i l else s
  if t == epc || t == epc + 4#64 || t == epc + 8#64 then .ok (go s) ()
  else
    match checkTarget s i t with
    | (s, .good) => .ok (go s) ()
    | (s, .bad c rt) =>
      if rollsBack s c then .bad s c rt
      else
      let s := s.modLane i l (fun y =>
        { y with
          pc := epc, priv := priv, st := .parked, pendingTrap := true, tcause := c.setWidth 9, tcode := 0#7,
          record := some { cause := c, defer := false, pending := true, chained := false, acc := 0#5, wpart := (s.spindle i).wpartOf l, rights := rt,
                           pc := epc, addr := t, tissue := s.clock.ns, tdetect := s.clock.ns } })
      .ok s ()
    | (s, .absent ea pg _) => .absent s ea pg
    | (_, .wait h) => .wait h

/-- The spindle that a handler interrupted, with the device's own copy of its fields (01 R38). -/
def shownTrapped (sp : Spindle) (r : Trapped) : Spindle :=
  { sp with lanes := r.lanes, wpart := r.wpart, warr := r.warr, wpark := r.wpark, vcount := r.vcount, k := r.k, uchunk := r.uchunk, chunks := r.chunks, gang := r.gang, ftz := r.ftz,
            txctl := r.txctl, f := [], barred := r.barred, trapped := none }

/-- The reconvergence barriers that released while a handler ran have no arrived lane (11 R272; 05 R124). -/
def clearReleased (rel : BitVec 8) (sp : Spindle) : Spindle :=
  { sp with warr := (List.range 8).foldl (fun c n => if rel.getLsbD n then cellSet c n 0#32 else c) sp.warr }

/-- THE RETURN FROM A TRAP: the handler ends, the trapped image is refetched with its edits, and the lanes of LMASK go
on (11 R274). -/
def returnTrap (s : State) (i : Nat) : Eff :=
  match (s.spindle i).trapped with
  | none => .bad 0x02#8 0#64
  | some t =>
    match putLines s (s.who i) (handlerLines s i t.frame) with
    | .ok s _ =>
      match devRead s (s.who i) (t.frame + 18#64) 1 with
      | .ok s fl =>
        let s := s.modSp i (fun sp => shownTrapped sp t)
        match readImage s i with
        | .ok s (u, v) =>
          let s := s.modSp i (fun sp => clearReleased t.wrel (applyImage sp (u.map (·.1)) v))
          if u.any (fun x => x.2 != 0#4) then .done (poisonTeam s (s.spindle i).team (s.spindle i).idx s.cur.pc ((markedSector (s.imageVa i) u).getD 0#64))
          else
            let r := (lanesOf t.lmask).foldl (fun r l =>
              match r with
              | .done s =>
                if (s.lane i l).st == .exited then r
                else
                  match resumeLane s i l (fl.testBit 0) (t.epc.getD l 0#64) with
                  | .ok s _ => .done s
                  | .bad s _ _ => .poison (s.lane i l).pc
                  | .absent _ ea pg => .absent ea pg 0#64 0#16
                  | .wait h => .stall h
              | r => r) (Eff.done s)
            match r with
            | .done s => .done (rcvEvalAll ((lanesOf (~~~t.lmask)).foldl (fun s l => applyRelease s i l) s) i)
            | r => r
        | .bad s _ _ => .done (poisonTeam s (s.spindle i).team (s.spindle i).idx s.cur.pc (s.imageVa i))
        | .absent _ ea pg => .absent ea pg 0#64 0#16
        | .wait h => .stall h
      | .bad _ c _ => .bad c (t.frame + 18#64)
      | .absent _ ea pg => .absent ea pg t.frame 0#16
      | .wait h => .stall h
    | .bad _ c _ => .bad c t.frame
    | .absent _ ea pg => .absent ea pg t.frame 0#16
    | .wait h => .stall h

-- Deferred reports (08 R186, 18 R397, 12 R298)

/-- The lane that takes a report: the writer's lane or the issuer's lowest live lane, else the lowest live lane of the
team's lowest-indexed spindle that has one. The flag says that the report goes to the team. -/
def reportTarget (s : State) (r : Report) : Option (Nat × Nat × Bool) :=
  let mine := (List.range s.spindles.length).filter (fun i => (s.spindle i).team == r.team && (s.spindle i).st != .ended)
  let own := mine.find? (fun i => (s.spindle i).idx == r.info.wspidx)
  let live (i : Nat) : LaneMask := maskBy (fun l => ((s.spindle i).progLanes.getD l Lane.blank).st != .exited)
  let direct : Option (Nat × Nat × Bool) := match own with
    | none => none
    | some i =>
      if r.info.kind = 1 then (if (live i).getLsbD r.info.wlane then some (i, r.info.wlane, false) else none)
      else if live i != 0#32 then some (i, lowestLane (live i), false) else none
  match direct with
  | some x => some x
  | none =>
    match (sortBy (fun i => (s.spindle i).idx) mine).find? (fun i => live i != 0#32) with
    | none => none
    | some i => some (i, lowestLane (live i), true)

/-- A lane stands at an instruction boundary, free to take a report: it is not within an instruction that completes by itself, and no other report is
pending in it. One that is parked with a record takes it at once (08 R186; 11 R268; 20 R429). -/
def Lane.atBoundary (y : Lane) : Bool :=
  y.deferred.isNone && (match y.st with
    | .held (.completing _) => false
    | .held (.regshrink ..) => false
    | _ => true)

/-- A report can be taken now: its lane stands at a boundary, in no commit that has begun (14 R333, R334), no handler runs in its spindle, and the
spindle is not suspended. -/
def reportReady (s : State) (r : Report) : Bool :=
  if (s.team r.team).st.over then true
  else
    match reportTarget s r with
    | none => true
    | some (i, l, _) => !(s.spindle i).inHandler && (s.lane i l).atBoundary && !s.mem.commits.any (fun c => c.sp == i && c.lanes.getLsbD l) && (s.spindle i).st != .suspended && (s.team r.team).st == .running

/-- Takes a report: the lane parks with TCAUSE.DEFER in the pending trap mask (11 R268); a record that it is parked with keeps its RIGHTS and WPART
(20 R429). DESIGN CHOICE (log entry 115): CHAINED of a store's report is 0, as the writer tag does not tell it. DESIGN CHOICE (log entry 88): a lane held at
`RCVW` that parks so keeps its bit in the arrived mask. With no live lane left the team
is killed (18 R397, 17 R376). -/
def takeReport (s : State) (r : Report) : State :=
  match (if (s.team r.team).st.over then none else reportTarget s r) with
  | none =>
    let rep : KillRep := { KillRep.plain r.info.cause 5 with pc := r.info.wpc, addr := r.info.addr, parts := r.info.parts, spidx := r.info.wspidx }
    if !r.mayKill && (s.team r.team).st.over then s
    else if (s.team r.team).st == .ended then killSiblings (markKilled s r.team rep) r.team
    else killTeam s r.team rep
  | some (i, l, toTeam) =>
    let d := { r.info with toTeam := toTeam }
    let old := if (s.lane i l).st.isParked then (s.lane i l).record else none
    let rec' : LaneRec := { cause := d.cause, defer := true, pending := true, chained := d.snap.any (·.chained), acc := d.acc,
                            wpart := (old.map (·.wpart)).getD ((s.spindle i).wpartOf l), rights := (old.map (·.rights)).getD 0#16, pc := d.wpc, addr := d.addr, tissue := d.tissue, tdetect := d.tdetect }
    let s := s.modLane i l (fun y => { y with st := .parked, page := none, monitor := none, record := some rec', pendingTrap := true,
                                               tcause := 0x100#9 ||| d.cause.setWidth 9, tcode := 0#7, deferred := some d })
    rcvEvalAll s i

/-- The team at a position of the list that a writer tag names, by the context's text window (12 R299). -/
def tagTeam (s : State) (ea : Nat) (t : Tag) : Nat :=
  let ok (k : Nat) : Bool := (s.team k).idx == t.team && ((s.part (s.team k).part).asid.toNat == ea || ea == 0)
  ((List.range s.teams.length).reverse.find? (fun k => ok k && !(s.team k).st.over)).getD
    (((List.range s.teams.length).reverse.find? ok).getD 0)

/-- The DEFERRED_STORE report of discarded bytes (18 R395, R397; 12 R298). -/
def dropReport (s : State) (b : BufEntry) : Option Report :=
  match b.line.tag with
  | none => none
  | some t =>
    let k := tagTeam s b.ea t
    let hi := (s.part (s.team k).part).trapvec &&& 0xFFFF_FFFF_0000_0000#64
    some { team := k, mayKill := true,
           info := { cause := 0x0C#8, kind := 1, toTeam := false, dropped := true, wlane := t.lane, wspidx := t.idx, agent := b.agent, wteam := t.team,
                     later := b.line.later, wpc := hi ||| t.pc.setWidth 64, addr := vaOfLn b.ln, tissue := t.time, tdetect := s.clock.ns,
                     bmask := b.line.dirty, acc := accField t.size true t.atomic, parts := [], unserved := [], snap := none } }

/-- Turns discarded writes into reports. -/
def collectDrops (s : State) : State :=
  let rs := s.mem.drops.filterMap (dropReport s)
  { s with reports := s.reports ++ rs, mem := { s.mem with drops := [] } }

end Sys2Proof.Machine
end

