-- ==== Sys2Proof/Machine/Barrier.lean ====
section
/-! DEFINITION. The team barrier, the named barriers and the groups: arrivals, completion and the release of held
lanes (01 R19; 07 R178-R182; 11 R272; 21 R437, R438). -/

namespace Sys2Proof.Machine

open Sys2Proof

/-- Lanes x stay held at the issuing word. -/
def holdLanes (s : State) (x : LaneMask) (h : Hold) : State :=
  s.modLanes s.cur.sp x (fun _ y => { y with st := .held h, pc := s.cur.pc })

/-- The lanes of a spindle that are held in a way. -/
def Spindle.heldIn (sp : Spindle) (p : Hold → Bool) : LaneMask :=
  sp.lanesIn (fun st => match st with
    | .held h => p h
    | _ => false)

def Hold.isTbar : Hold → Bool
  | .tbar => true
  | _ => false
def Hold.isGbar (n : Nat) : Hold → Bool
  | .gbar k => k == n
  | _ => false
def Hold.isTxe : Hold → Bool
  | .txe => true
  | _ => false

/-- Every live lane of the spindle is held so (07 R178, R181). -/
def Spindle.arrivedAt (sp : Spindle) (p : Hold → Bool) : Bool := sp.live != 0#32 && sp.live == sp.heldIn p

/-- The team barrier or the group at which every live lane of the spindle is held. -/
def Spindle.arrival (sp : Spindle) : Option Hold :=
  match (sp.lane (lowestLane sp.live)).st with
  | .held .tbar => if sp.arrivedAt Hold.isTbar then some .tbar else none
  | .held (.gbar n) => if sp.arrivedAt (Hold.isGbar n) then some (.gbar n) else none
  | _ => none

/-- The spindle has arrived, in its program or in its handler. -/
def Spindle.hasArrived (sp : Spindle) (h : Hold) : Bool := sp.barred == some h || sp.trapped.any (fun t => t.barred == some h)

/-- Positions of a team's spindles that have not ended (05 R123). -/
def State.liveSpindles (s : State) (t : Nat) : List Nat :=
  (List.range s.spindles.length).filter (fun i => (s.spindle i).team == t && (s.spindle i).st != .ended)

/-- A spindle whose live lanes have all come to stand at a barrier arrives, with a release (07 R178, R180, R181). An arrival stands until the
barrier releases, also when a report takes a held lane away (DEDUCED from 11 R272, log entry 91). -/
def noteArrival (s : State) (i : Nat) : State :=
  let sp := s.spindle i
  match sp.barred, sp.arrival with
  | none, some h => (coreRelease s sp.core).modSp i (fun sp => { sp with barred := some h })
  | _, _ => s

/-- Held lanes of spindle i continue at the word after theirs. -/
def freeLanes (s : State) (i : Nat) (m : LaneMask) : State :=
  s.modLanes i m (fun _ y => { y with st := .eligible, pc := y.pc + 4#64, stamp := s.clock.cycle })

/-- The release of a lane of a trapped image that is held in a way: it takes effect at `ERET` (11 R272). -/
def recordFree (p : Hold → Bool) (y : Lane) : Lane :=
  match y.st with
  | .held h => if p h && y.unreleased then { y with rel := some { pc := y.pc + 4#64, val := none } } else y
  | _ => y

/-- The release of a barrier reaches spindle i: its held lanes go on, those of a trapped image at `ERET`. -/
def freeBarred (s : State) (i : Nat) (p : Hold → Bool) : State :=
  freeLanes (s.modSp i (fun sp => { sp with barred := none, trapped := sp.trapped.map (fun t => { t with barred := none, lanes := t.lanes.map (recordFree p) }) }))
    i ((s.spindle i).heldIn p)

/-- The interval that opens is ineligible at once (21 R440): UNDOMAX 0, a live spawned spindle or waiting threads. -/
def opensIneligible (s : State) (t : Nat) : Bool :=
  bitsOf s.adeol.rollctl.toNat 0 32 == 0 || (s.liveSpindles t).any (fun i => 512 ≤ (s.spindle i).idx) ||
    s.bins.any (fun b => b.team == t) || !(s.team t).arena.isEmpty

/-- An interval opens with its snapshot (21 R437, R438). -/
def openInterval (s : State) (t : Nat) (n : BitVec 32) : State :=
  let bad := opensIneligible s t
  takeSnapshot (s.modTeam t (fun x => { x with interval := n, ineligible := bad, retried := false })) t

/-- Spindles that ended inside the interval give their chunks back at its commit (21 R438), and their indices are no longer in use (17 R370). -/
def freeEnded (s : State) (t : Nat) : State :=
  let reused (n : Nat) : Bool := s.spindles.any (fun sp => sp.team == t && sp.st != .ended && sp.idx == n)
  let s := (s.spindles.filter (fun sp => sp.team == t && sp.st == .ended && !sp.chunks.isEmpty && !reused sp.idx)).foldl (fun s sp =>
    devPut s (s.teamWho t) ((s.team t).arenaBase + BitVec.ofNat 64 (0x440 + 4 * sp.idx)) 4 0xFFFF_FFFF) s
  let gone := (s.spindles.filter (fun sp => sp.team == t && sp.st == .ended)).flatMap (fun sp => sp.chunks ++ sp.txchunks.map (·.2))
  { s.modTeam t (fun x => { x with chunks := x.chunks.filter (fun c => !gone.contains c) }) with
    spindles := s.spindles.map (fun (sp : Spindle) => if sp.team == t && sp.st == .ended then { sp with chunks := [], txchunks := [] } else sp) }

/-- A `TBAR` release commits the open interval and opens the next; the lines owned under the team's grants go home
(21 R437). -/
def commitInterval (s : State) (t : Nat) : State :=
  if !(s.team t).rollb then s
  else
    let s := (s.mem.l1.filter (fun x => x.owned && x.oteam == t)).foldl (fun s x => l1End s x.core x.ea x.ln) s
    openInterval (freeEnded (dropUndo s t) t) t ((s.team t).interval + 1#32)

/-- The release of the team barrier: every held lane goes on after an acquire (07 R178, R180). -/
def releaseTbar (s : State) (t : Nat) (m : List Nat) : State :=
  let s := m.foldl (fun s i => coreRelease s (s.spindle i).core) s
  let s := m.foldl (fun s i => freeBarred (coreAcquire s (s.spindle i).core) i Hold.isTbar) s
  commitInterval (s.modTeam t (fun x => { x with tbcount := 0 })) t

/-- The team barrier is looked at: it releases when every dispatched, unexited spindle has arrived and, in a team with
rollback on, every command has completed (07 R178, 21 R437). -/
def evalTbar (s : State) (t : Nat) : State :=
  let m := (s.liveSpindles t).filter (fun i => (s.spindle i).idx < 512)
  let s := m.foldl noteArrival s
  let a := m.filter (fun i => (s.spindle i).hasArrived .tbar)
  let s := s.modTeam t (fun x => { x with tbcount := a.length })
  if m.isEmpty || a.length < m.length || ((s.team t).rollb && s.cmds.any (fun c => c.team == t)) then s
  else releaseTbar s t m

-- Groups (07 R181)

/-- The membership mask of group n, 1,024 bits over spindle indices; zero where GROUPTAB names no table. -/
def groupMask (s : State) (t n : Nat) : Got Nat :=
  let base := (s.launchOf t).grouptab &&& ~~~0xFFF#64
  if base == 0#64 then .ok s 0 else devRead s (s.teamWho t) (base + BitVec.ofNat 64 (128 * n)) 128

/-- Group n with this mask is looked at: it releases when every member that has not exited has arrived, without an acquire. -/
def evalGroup (s : State) (t n mask : Nat) : State :=
  let m := (s.liveSpindles t).filter (fun i => mask.testBit (s.spindle i).idx)
  let s := m.foldl noteArrival s
  if m.isEmpty || m.any (fun i => !(s.spindle i).hasArrived (.gbar n)) then s
  else
    let s := m.foldl (fun s i => coreRelease s (s.spindle i).core) s
    m.foldl (fun s i => freeBarred s i (Hold.isGbar n)) s

/-- Group n is looked at, with the mask that its table holds. -/
def evalGbar (s : State) (t n : Nat) : State :=
  match groupMask s t n with
  | .ok s mask => evalGroup s t n mask
  | _ => s

/-- The groups at which lanes of a team are held, in their program or in a handler. -/
def heldGroups (s : State) (t : Nat) : List Nat :=
  (s.liveSpindles t).foldl (fun acc i =>
    ((s.spindle i).lanes ++ (s.spindle i).progLanes).foldl (fun acc l =>
      match l.st with
      | .held (.gbar n) => insertNat acc n
      | _ => acc) acc) []

/-- The team barrier and the groups are looked at again, after an exit or the end of a command. -/
def evalBarriers (s : State) (t : Nat) : State :=
  (heldGroups s t).foldl (fun s n => evalGbar s t n) (evalTbar s t)

-- Named barriers (01 R19, 07 R179, R180)

def NBar.token (b : NBar) : DWord := BitVec.ofNat 64 (b.bytes.toNat <<< 1 ||| boolNat b.phase)
def State.nbar (s : State) (t n : Nat) : NBar := (s.team t).nbars.getD n NBar.fresh
def State.setNbar (s : State) (t n : Nat) (b : NBar) : State := s.modTeam t (fun x => { x with nbars := x.nbars.set n b })

/-- A lane of a trapped image that waits for a phase other than `phase` of bN takes its release at `ERET` (11 R272). -/
def recordNbar (n : Nat) (phase : Bool) (tok : DWord) (y : Lane) : Lane :=
  match y.st with
  | .held (.nbar k _ ph) => if k == n && ph != phase && y.unreleased then { y with rel := some { pc := y.pc + 4#64, val := some tok } } else y
  | _ => y

/-- Lanes of spindle i that wait for a phase other than `phase` of bN go on with the token, after an acquire. -/
def freeNbar (s : State) (n : Nat) (phase : Bool) (tok : DWord) (i : Nat) : State :=
  let sp := s.spindle i
  let pairs := (lanesOf sp.live).filterMap (fun l => match (sp.lane l).st with
    | .held (.nbar k pair ph) => if k == n && ph != phase then some (l, pair) else none
    | _ => none)
  let s := s.modSp i (fun sp => { sp with trapped := sp.trapped.map (fun t => { t with lanes := t.lanes.map (recordNbar n phase tok) }) })
  if pairs.isEmpty then s
  else
    let s := coreAcquire s sp.core
    let s := s.modSp i (fun sp => pairs.foldl (fun sp x => sp.setSD x.2 tok) sp)
    freeLanes s i (pairs.foldl (fun m x => m ||| laneBit x.1) 0#32)

/-- One arrival with its byte count; when the arrived count reaches the expected count the phase toggles and the waiting
lanes go on. -/
def nbarArrive (s : State) (t n bytes : Nat) : State :=
  let b := s.nbar t n
  let b := { b with arrived := b.arrived + 1, bytes := b.bytes + BitVec.ofNat 48 bytes }
  if b.arrived < b.expected then s.setNbar t n b
  else
    let b := { b with arrived := 0, phase := !b.phase }
    let s := s.setNbar t n b
    ((List.range s.spindles.length).filter (fun i => (s.spindle i).team == t && (s.spindle i).st != .ended)).foldl
      (fun s i => freeNbar s n b.phase b.token i) s

/-- `TBAR` (R178). -/
def execTbar (p : Pfx) (s : State) : Host.Outcome State Fault Refusal :=
  issue (.tbar p) p 1 s (fun x s =>
    let sp := s.spindle s.cur.sp
    if 512 ≤ sp.idx then .bad 0x02#8 0#64
    else .done (evalTbar (holdLanes s x .tbar) sp.team))

/-- `NBAR.INIT` (R179). -/
def execNbarInit (p : Pfx) (d a : Reg) (s : State) : Host.Outcome State Fault Refusal :=
  issue (.nbarInit p d a) p 1 s (fun _ s =>
    let sp := s.spindle s.cur.sp
    let n := (sp.getS a.toNat).toNat
    let b := s.nbar sp.team d.toNat
    if n = 0 || 1023 < n || b.arrived != 0 then .bad 0x02#8 0#64
    else .done (s.setNbar sp.team d.toNat { init := true, expected := n, arrived := 0, bytes := 0#48, phase := b.phase }))

/-- `NBAR.ARRIVE` (R179, R180). -/
def execNbarArrive (p : Pfx) (d a : Reg) (s : State) : Host.Outcome State Fault Refusal :=
  issue (.nbarArrive p d a) p 1 s (fun _ s =>
    let sp := s.spindle s.cur.sp
    let b := s.nbar sp.team d.toNat
    if !b.init then .bad 0x02#8 0#64
    else
      let s := coreRelease s sp.core
      let s := s.modSp s.cur.sp (fun sp => sp.setSD a.toNat b.token)
      .done (nbarArrive s sp.team d.toNat 0))

/-- `NBAR.WAIT` (R179, R180). -/
def execNbarWait (p : Pfx) (d a : Reg) (s : State) : Host.Outcome State Fault Refusal :=
  issue (.nbarWait p d a) p 1 s (fun x s =>
    let sp := s.spindle s.cur.sp
    let b := s.nbar sp.team d.toNat
    let ph := (sp.getSD a.toNat).getLsbD 0
    if !b.init then .bad 0x02#8 0#64
    else if b.phase != ph then
      .done ((coreAcquire s sp.core).modSp s.cur.sp (fun sp => sp.setSD a.toNat b.token))
    else .done (holdLanes s x (.nbar d.toNat a.toNat ph)))

/-- `NBAR.ARRIVEWAIT` (R179, R180). -/
def execNbarArriveWait (p : Pfx) (d a : Reg) (s : State) : Host.Outcome State Fault Refusal :=
  issue (.nbarArriveWait p d a) p 1 s (fun x s =>
    let sp := s.spindle s.cur.sp
    let b := s.nbar sp.team d.toNat
    if !b.init then .bad 0x02#8 0#64
    else
      let s := coreRelease s sp.core
      let s := s.modSp s.cur.sp (fun sp => sp.setSD a.toNat b.token)
      .done (nbarArrive (holdLanes s x (.nbar d.toNat a.toNat b.phase)) sp.team d.toNat 0))

/-- `GBAR n` (R181). DESIGN CHOICE (log entry 108): where the group's entry cannot be read the lanes fault with the read's cause, or wait for the
page. -/
def execGbar (p : Pfx) (n : BitVec 8) (s : State) : Host.Outcome State Fault Refusal :=
  issue (.gbar p n) p 1 s (fun x s =>
    let sp := s.spindle s.cur.sp
    match groupMask s sp.team n.toNat with
    | .ok s mask =>
      if !mask.testBit sp.idx then .bad 0x02#8 0#64
      else .done (evalGroup (holdLanes s x (.gbar n.toNat)) sp.team n.toNat mask)
    | .bad s c r => laneFaults s x c 0#64 r
    | .absent s ea pg => .done ((lanesOf x).foldl (fun s l => absentLane s s.cur.sp l ea pg (vaOfPage pg) 0#5 0#16) s)
    | .wait h => .stall h)

end Sys2Proof.Machine
end

