-- ==== Sys2Proof/Machine/Flags.lean ====
section
/-! DEFINITION. The floating-point flags of a lane and the rounding of exact values, which sets them (01 R29; 02 R41,
R49-R56). -/

namespace Sys2Proof.Machine

open Sys2Proof

-- FPFLAGS (01 R29): SAT 5, NV 4, DZ 3, OF 2, UF 1, NX 0
def fSat : BitVec 6 := 32#6
def fNv : BitVec 6 := 16#6
def fDz : BitVec 6 := 8#6
def fOf : BitVec 6 := 4#6
def fUf : BitVec 6 := 2#6
def fNx : BitVec 6 := 1#6

/-- A flag that is set under a condition. -/
def flagIf (b : Bool) (f : BitVec 6) : BitVec 6 := if b then f else 0#6

/-- A lane collects flags (R56). -/
def Lane.orFlags (y : Lane) (f : BitVec 6) : Lane := { y with fpflags := y.fpflags ||| f }

/-- The rounding modes of R49; `sr` carries the generator's value r (R53). -/
inductive Mode where
  | rne
  | rz
  | ru
  | rd
  | sr (r : Word)
  deriving DecidableEq, Repr

/-- The mode of an RM field of 0 to 3. -/
def modeOf (rm : BitVec 3) : Mode :=
  match rm.toNat with
  | 1 => .rz
  | 2 => .ru
  | 3 => .rd
  | _ => .rne

/-- An exact magnitude: (m + δ) × 2^e with 0 < δ < 1 when `sticky`, δ = 0 otherwise. -/
structure Mag where
  m : Nat
  e : Int
  sticky : Bool
  deriving DecidableEq, Repr

/-- A magnitude as a multiple of 2^q, rounded in a mode under a sign, and whether that is inexact (R50, R55). With
`sticky`, q is above e. -/
def Mag.roundAt (x : Mag) (neg : Bool) (mode : Mode) (q : Int) : Nat × Bool :=
  if q ≤ x.e then (x.m <<< (x.e - q).toNat, x.sticky)
  else
    let d := (q - x.e).toNat
    let t := x.m >>> d
    let r := x.m % 2 ^ d
    let half := 2 ^ (d - 1)
    let inexact := r != 0 || x.sticky
    let up := match mode with
      | .rne => decide (half < r) || (r == half && (x.sticky || t % 2 == 1))
      | .rz => false
      | .ru => !neg && inexact
      | .rd => neg && inexact
      | .sr g => decide (g.toNat < (r <<< 32) >>> d)
    (if up then t + 1 else t, inexact)

/-- The exponent of the leading bit. -/
def Mag.lead (x : Mag) : Int := x.e + (Nat.log2 x.m : Int)

/-- A binary format: total width, fraction width and bias (R39, R42). -/
structure Fmt where
  w : Nat
  f : Nat
  bias : Nat
  deriving DecidableEq, Repr

def fmt32 : Fmt := { w := 32, f := 23, bias := 127 }
def fmt64 : Fmt := { w := 64, f := 52, bias := 1023 }
def fmt16 : Fmt := { w := 16, f := 10, bias := 15 }
def fmtB16 : Fmt := { w := 16, f := 7, bias := 127 }

/-- The wide format of a code (R48, 06 R134 FMT). -/
def fmtOf (c : BitVec 2) : Fmt :=
  match c.toNat with
  | 1 => fmt64
  | 2 => fmt16
  | 3 => fmtB16
  | _ => fmt32

/-- Exponent width, the all-ones exponent, the exponent of the smallest normal. -/
def Fmt.expMax (f : Fmt) : Nat := 2 ^ (f.w - 1 - f.f) - 1
def Fmt.emin (f : Fmt) : Int := 1 - (f.bias : Int)
def Fmt.signBit (f : Fmt) (neg : Bool) : Nat := if neg then 2 ^ (f.w - 1) else 0
def Fmt.infBits (f : Fmt) (neg : Bool) : Nat := f.signBit neg ||| f.expMax <<< f.f
def Fmt.maxBits (f : Fmt) (neg : Bool) : Nat := f.signBit neg ||| (f.expMax <<< f.f) - 1
/-- The canonical NaN (R39, R40). -/
def Fmt.nan (f : Fmt) : Nat := f.expMax <<< f.f ||| 2 ^ (f.f - 1)

/-- The rounded magnitude over the format's grid, without an upper limit of the exponent: its code without sign, and
whether it is inexact. -/
def Fmt.code (f : Fmt) (x : Mag) (neg : Bool) (mode : Mode) : Nat × Bool :=
  let q := max (x.lead - (f.f : Int)) (f.emin - (f.f : Int))
  let (t, inexact) := x.roundAt neg mode q
  (t + (q - (f.emin - (f.f : Int))).toNat * 2 ^ f.f, inexact)

/-- The rounded magnitude, with the exponent range unbounded, is below the smallest normal (R41, R50). -/
def Fmt.tiny (f : Fmt) (x : Mag) (neg : Bool) (mode : Mode) : Bool :=
  let q := x.lead - (f.f : Int)
  let (t, _) := x.roundAt neg mode q
  decide (({ m := t, e := q, sticky := false } : Mag).lead < f.emin)

/-- The result on overflow (R50, R55). -/
def Fmt.overflow (f : Fmt) (neg : Bool) (mode : Mode) : Nat :=
  match mode with
  | .rz => f.maxBits neg
  | .ru => if neg then f.maxBits neg else f.infBits neg
  | .rd => if neg then f.infBits neg else f.maxBits neg
  | _ => f.infBits neg

/-- `round_fp` of R50 for a value that is not an exact zero, with the result flush of R41. -/
def Fmt.round (f : Fmt) (ftz neg : Bool) (mode : Mode) (x : Mag) : Nat × BitVec 6 :=
  if x.m = 0 && !x.sticky then (f.signBit neg, 0#6)
  else
    let tiny := f.tiny x neg mode
    if ftz && tiny then (f.signBit neg, fUf ||| fNx)
    else
      let (c, inexact) := f.code x neg mode
      if f.expMax <<< f.f ≤ c then (f.overflow neg mode, fOf ||| fNx)
      else (f.signBit neg ||| c, flagIf inexact fNx ||| flagIf (tiny && inexact) fUf)

end Sys2Proof.Machine
end

