-- ==== Sys2Proof/Machine/Fp.lean ====
section
/-! DEFINITION. Floating-point values and the exact operations on them, each rounded once (02 R39-R52, 06 R130-R146).
Every operation answers the result's bits and the flags it sets. -/

namespace Sys2Proof.Machine

open Sys2Proof

/-- A value: a NaN (signalling or quiet), an infinity, or (−1)^neg × m × 2^e, zero when m = 0. -/
inductive Num where
  | nan (sig : Bool)
  | inf (neg : Bool)
  | fin (neg : Bool) (m : Nat) (e : Int)
  deriving DecidableEq, Repr

/-- Twice a value, exactly. -/
def Num.twice : Num → Num
  | .fin neg m e => .fin neg m (e + 1)
  | x => x

/-- The value of a pattern (R39), with the input flush of R41. -/
def Fmt.read (f : Fmt) (ftz : Bool) (b : Nat) : Num :=
  let neg := b.testBit (f.w - 1)
  let ex := bitsOf b f.f (f.w - 1 - f.f)
  let m := bitsOf b 0 f.f
  if ex = f.expMax then (if m = 0 then .inf neg else .nan (!m.testBit (f.f - 1)))
  else if ex = 0 then .fin neg (if ftz then 0 else m) (f.emin - (f.f : Int))
  else .fin neg (2 ^ f.f + m) ((ex : Int) - (f.bias : Int) - (f.f : Int))

def Num.isNan : Num → Bool
  | .nan _ => true
  | _ => false
def Num.sig : Num → Bool
  | .nan s => s
  | _ => false
def Num.isInf : Num → Bool
  | .inf _ => true
  | _ => false
def Num.isZero : Num → Bool
  | .fin _ m _ => m == 0
  | _ => false
def Num.neg : Num → Bool
  | .nan _ => false
  | .inf n => n
  | .fin n _ _ => n
/-- The value with its sign inverted. -/
def Num.flip : Num → Num
  | .nan s => .nan s
  | .inf n => .inf !n
  | .fin n m e => .fin (!n) m e
/-- A finite value as an integer multiple of 2^q, for q no greater than its exponent. -/
def Num.scaled : Num → Int → Int
  | .fin n m e, q => let v : Int := (m <<< (e - q).toNat : Nat); if n then -v else v
  | _, _ => 0
def Num.exp : Num → Int
  | .fin _ _ e => e
  | _ => 0

/-- The result of an operation. -/
abbrev FpAns := Nat × BitVec 6

/-- A NaN result (R40). -/
def Fmt.nanAns (f : Fmt) (nv : Bool) : FpAns := (f.nan, flagIf nv fNv)

/-- Rounds an exact finite result. -/
def Fmt.fin (f : Fmt) (ftz : Bool) (mode : Mode) (neg : Bool) (m : Nat) (e : Int) (sticky : Bool) : FpAns :=
  f.round ftz neg mode { m := m, e := e, sticky := sticky }

/-- The sign of an exact zero sum (R50): the operands' common sign, else + except in RD. -/
def zeroSign (na nb : Bool) (mode : Mode) : Bool := if na == nb then na else mode == .rd

/-- a + b (06 R130). -/
def Fmt.add (f : Fmt) (ftz : Bool) (mode : Mode) (a b : Num) : FpAns :=
  if a.isNan || b.isNan then f.nanAns (a.sig || b.sig)
  else if a.isInf && b.isInf && a.neg != b.neg then f.nanAns true
  else if a.isInf then (f.infBits a.neg, 0#6)
  else if b.isInf then (f.infBits b.neg, 0#6)
  else
    let q := min a.exp b.exp
    let v := a.scaled q + b.scaled q
    if v = 0 then (f.signBit (zeroSign a.neg b.neg mode), 0#6)
    else f.fin ftz mode (decide (v < 0)) v.natAbs q false

/-- The exact product of two values that are no NaN and not 0 × ∞. -/
def Num.mul (a b : Num) : Num :=
  match a, b with
  | .fin n m e, .fin n' m' e' => .fin (n != n') (m * m') (e + e')
  | a, b => .inf (a.neg != b.neg)

/-- 0 × ∞. -/
def mulInvalid (a b : Num) : Bool := (a.isZero && b.isInf) || (a.isInf && b.isZero)

/-- a × b (06 R130). -/
def Fmt.mul (f : Fmt) (ftz : Bool) (mode : Mode) (a b : Num) : FpAns :=
  if a.isNan || b.isNan then f.nanAns (a.sig || b.sig)
  else if mulInvalid a b then f.nanAns true
  else
    match a.mul b with
    | .fin n m e => f.fin ftz mode n m e false
    | x => (f.infBits x.neg, 0#6)

/-- a × b + c with one rounding (06 R130). -/
def Fmt.fma (f : Fmt) (ftz : Bool) (mode : Mode) (a b c : Num) : FpAns :=
  if a.isNan || b.isNan || c.isNan then f.nanAns (a.sig || b.sig || c.sig || mulInvalid a b)
  else if mulInvalid a b then f.nanAns true
  else f.add ftz mode (a.mul b) c

/-- a / b (06 R130). -/
def Fmt.div (f : Fmt) (ftz : Bool) (mode : Mode) (a b : Num) : FpAns :=
  let n := a.neg != b.neg
  if a.isNan || b.isNan then f.nanAns (a.sig || b.sig)
  else if (a.isInf && b.isInf) || (a.isZero && b.isZero) then f.nanAns true
  else if a.isInf then (f.infBits n, 0#6)
  else if b.isInf then (f.signBit n, 0#6)
  else if b.isZero then (f.infBits n, fDz)
  else
    match a, b with
    | .fin _ m e, .fin _ m' e' =>
      if m = 0 then (f.signBit n, 0#6)
      else
        let k := f.f + 4 + Nat.log2 m'
        let x := m <<< k
        f.fin ftz mode n (x / m') (e - e' - (k : Int)) (x % m' != 0)
    | _, _ => f.nanAns true

/-- The integer square root of a number below 2^(2n), bit by bit. -/
def isqrtFrom (x : Nat) : Nat → Nat → Nat
  | 0, r => r
  | n + 1, r => isqrtFrom x n (if (r + 2 ^ n) * (r + 2 ^ n) ≤ x then r + 2 ^ n else r)
def isqrt (x : Nat) : Nat := isqrtFrom x (Nat.log2 x / 2 + 1) 0

/-- A positive value with an even exponent. -/
def evenExp (m : Nat) (e : Int) : Nat × Int := if e % 2 = 0 then (m, e) else (2 * m, e - 1)

/-- √a (06 R130). -/
def Fmt.sqrt (f : Fmt) (ftz : Bool) (mode : Mode) (a : Num) : FpAns :=
  match a with
  | .nan s => f.nanAns s
  | .inf n => if n then f.nanAns true else (f.infBits false, 0#6)
  | .fin n m e =>
    if m = 0 then (f.signBit n, 0#6)
    else if n then f.nanAns true
    else
      let (m, e) := evenExp m e
      let k := f.f + 4
      let x := m <<< (2 * k)
      let r := isqrt x
      f.fin ftz mode false r (e / 2 - (k : Int)) (r * r != x)

/-- 1 / √a (06 R130). -/
def Fmt.rsq (f : Fmt) (ftz : Bool) (mode : Mode) (a : Num) : FpAns :=
  match a with
  | .nan s => f.nanAns s
  | .inf n => if n then f.nanAns true else (f.signBit false, 0#6)
  | .fin n m e =>
    if m = 0 then (f.infBits n, fDz)
    else if n then f.nanAns true
    else
      let (m, e) := evenExp m e
      let k := f.f + 5 + Nat.log2 m
      let r := isqrt (2 ^ (2 * k) / m)
      f.fin ftz mode false r (-(k : Int) - e / 2) (r * r * m != 2 ^ (2 * k))

/-- a < b for two values that are no NaN; zeros are equal. -/
def Num.lt (a b : Num) : Bool :=
  match a, b with
  | .inf n, .inf n' => n && !n'
  | .inf n, _ => n
  | _, .inf n' => !n'
  | a, b => decide (a.scaled (min a.exp b.exp) < b.scaled (min a.exp b.exp))
/-- a = b for two values that are no NaN. -/
def Num.same (a b : Num) : Bool := !a.lt b && !b.lt a

/-- The bits of a value that is exact in the format, canonical for a NaN. -/
def Fmt.write (f : Fmt) (a : Num) : Nat :=
  match a with
  | .nan _ => f.nan
  | .inf n => f.infBits n
  | .fin n m e => (f.fin false .rne n m e false).1

/-- The lesser, or the greater under `mx`, with −0 below +0 (06 R132). -/
def Fmt.minmax (f : Fmt) (mx : Bool) (a b : Num) : FpAns :=
  let fl := flagIf (a.sig || b.sig) fNv
  if a.isNan && b.isNan then (f.nan, fl)
  else if a.isNan then (f.write b, fl)
  else if b.isNan then (f.write a, fl)
  else
    let less := a.lt b || (a.same b && a.neg && !b.neg)
    (f.write (if less != mx then a else b), fl)

/-- The comparison of a code CMP, and NV (06 R136). -/
def fcmpHolds (cmp : BitVec 4) (a b : Num) : Bool × Bool :=
  let un := a.isNan || b.isNan
  let nv := a.sig || b.sig || (un && decide (2 ≤ cmp.toNat) && decide (cmp.toNat ≤ 5))
  let lt := !un && a.lt b
  let gt := !un && b.lt a
  let eq := !un && a.same b
  let t := match cmp.toNat with
    | 0 => eq
    | 1 => lt || gt
    | 2 => lt
    | 3 => lt || eq
    | 4 => gt
    | 5 => gt || eq
    | 6 => !un
    | 7 => un
    | 8 => un || eq
    | 9 => un || lt || gt
    | 10 => un || lt
    | 11 => un || lt || eq
    | 12 => un || gt
    | 13 => un || gt || eq
    | _ => false
  (t, nv)

/-- A value rounded into a format (06 R137). -/
def Fmt.conv (f : Fmt) (ftz : Bool) (mode : Mode) (a : Num) : FpAns :=
  match a with
  | .nan s => f.nanAns s
  | .inf n => (f.infBits n, 0#6)
  | .fin n m e => if m = 0 then (f.signBit n, 0#6) else f.fin ftz mode n m e false

/-- An integer rounded into a format (R52). -/
def Fmt.ofInt (f : Fmt) (ftz : Bool) (mode : Mode) (v : Int) : FpAns :=
  if v = 0 then (0, 0#6) else f.fin ftz mode (decide (v < 0)) v.natAbs 0 false

/-- The conversion to an n-bit integer (R52). -/
def toInteger (n : Nat) (u : Bool) (mode : Mode) (a : Num) : Int × BitVec 6 :=
  let lo : Int := if u then 0 else -(2 ^ (n - 1))
  let hi : Int := if u then 2 ^ n - 1 else 2 ^ (n - 1) - 1
  match a with
  | .nan _ => (0, fNv)
  | .inf g => (if g then lo else hi, fNv ||| fSat)
  | .fin g m e =>
    let (t, inexact) := ({ m := m, e := e, sticky := false } : Mag).roundAt g mode 0
    let v : Int := if g then -(t : Int) else t
    if v < lo then (lo, fNv ||| fSat)
    else if hi < v then (hi, fNv ||| fSat)
    else (v, flagIf inexact fNx)

/-- `RINT` (06 R139). -/
def Fmt.rint (f : Fmt) (mode : Mode) (a : Num) : FpAns :=
  match a with
  | .nan s => f.nanAns s
  | .inf n => (f.infBits n, 0#6)
  | .fin n m e =>
    if m = 0 || 0 ≤ e then (f.write a, 0#6)
    else
      let (t, inexact) := ({ m := m, e := e, sticky := false } : Mag).roundAt n mode 0
      (if t = 0 then f.signBit n else (f.fin false .rne n t 0 false).1, flagIf inexact fNx)

/-- `CLASS` (06 R139). -/
def Fmt.classOf (f : Fmt) (a : Num) : FpAns :=
  match a with
  | .nan s => (if s then 1 else 2, flagIf s fNv)
  | .inf n => (if n then 2 ^ 2 else 2 ^ 9, 0#6)
  | .fin n m _ =>
    (if m = 0 then (if n then 2 ^ 5 else 2 ^ 6)
     else if m < 2 ^ f.f then (if n then 2 ^ 4 else 2 ^ 7)
     else (if n then 2 ^ 3 else 2 ^ 8), 0#6)

-- The base-2 exponential and logarithm (06 R145)

/-- Fraction bits of the fixed-point evaluation. -/
def fixBits : Nat := 256
/-- floor(ln 2 × 2^256). -/
def ln2Fix : Nat := 0xB17217F7D1CF79ABC9E3B39803F2F6AF40F343267298B62D8A0D175B8BAAFA2B

/-- Terms of the exponential series of t, in fixed point. -/
def expSum (t : Nat) : Nat → Nat → Nat → Nat → Nat
  | 0, _, _, acc => acc
  | n + 1, k, term, acc => expSum t n (k + 1) (term * t / 2 ^ fixBits / k) (acc + term)

/-- floor(2^r × 2^256) for r = fr / 2^256 in [0, 1), from below. -/
def exp2Fix (fr : Nat) : Nat := expSum (fr * ln2Fix / 2 ^ fixBits) 64 1 (2 ^ fixBits) 0

/-- 2^x (06 R145). PRESUMED: no FP32 input lies within 2^-180 of a rounding boundary, so the evaluation in 256-bit
fixed point decides the rounding. -/
def fexp2 (ftz : Bool) (a : Num) : FpAns :=
  let f := fmt32
  match a with
  | .nan s => f.nanAns s
  | .inf n => (if n then 0 else f.infBits false, 0#6)
  | .fin n m e =>
    if m = 0 then (0x3F80_0000, 0#6)
    else if 0 ≤ (Num.fin n m e).exp + (Nat.log2 m : Int) - 8 then
      if n then f.fin ftz .rne false 1 (-200) true else f.fin ftz .rne false 1 200 false
    else
      let q : Int := -(fixBits : Int)
      let v := if q ≤ e then (Num.fin n m e).scaled q else (if n then -1 else 1)
      let whole := v / 2 ^ fixBits
      let fr := (v % 2 ^ fixBits).toNat
      if fr = 0 then f.fin ftz .rne false 1 whole false
      else f.fin ftz .rne false (exp2Fix fr) (whole - (fixBits : Int)) true

/-- Terms of the series of atanh z, in fixed point, z2 = z². -/
def atanhSum (z2 : Nat) : Nat → Nat → Nat → Nat → Nat
  | 0, _, _, acc => acc
  | n + 1, k, pw, acc => atanhSum z2 n (k + 2) (pw * z2 / 2 ^ fixBits) (acc + pw / k)

/-- log2 y × 2^256 for y = m / 2^23 in [1, 2), from below. -/
def log2Fix (m : Nat) : Nat :=
  let z := (m - 2 ^ 23) * 2 ^ fixBits / (m + 2 ^ 23)
  2 * atanhSum (z * z / 2 ^ fixBits) 96 1 z 0 * 2 ^ fixBits / ln2Fix

/-- log2 x (06 R145). PRESUMED as `fexp2`. -/
def flog2 (ftz : Bool) (a : Num) : FpAns :=
  let f := fmt32
  match a with
  | .nan s => f.nanAns s
  | .inf n => if n then f.nanAns true else (f.infBits false, 0#6)
  | .fin n m e =>
    if m = 0 then (f.infBits true, fDz)
    else if n then f.nanAns true
    else
      let k : Int := e + (Nat.log2 m : Int)
      let y := if Nat.log2 m ≤ 23 then m <<< (23 - Nat.log2 m) else m >>> (Nat.log2 m - 23)
      if y = 2 ^ 23 then f.ofInt ftz .rne k
      else
        let v : Int := k * 2 ^ fixBits + (log2Fix y : Int)
        f.fin ftz .rne (decide (v < 0)) (if v < 0 then v.natAbs - 1 else v.natAbs) (-(fixBits : Int)) true

-- MX elements and scales (02 R42-R44, R51)

/-- The element formats with an exponent: width, fraction width, bias and the code of the largest finite value. -/
structure ElemFmt where
  fmt : Fmt
  maxCode : Nat
  deriving DecidableEq, Repr

def elemOf (sel : Nat) : ElemFmt :=
  match sel with
  | 0x01 => { fmt := { w := 8, f := 3, bias := 7 }, maxCode := 0x7E }
  | 0x02 => { fmt := { w := 8, f := 2, bias := 15 }, maxCode := 0x7B }
  | 0x11 => { fmt := { w := 6, f := 2, bias := 3 }, maxCode := 0x1F }
  | 0x12 => { fmt := { w := 6, f := 3, bias := 1 }, maxCode := 0x1F }
  | _ => { fmt := { w := 4, f := 1, bias := 1 }, maxCode := 0x7 }

/-- Width of an element and of its storage class (R46). -/
def elemBits (sel : Nat) : Nat := match sel / 16 with
  | 0 => 8
  | 1 => 6
  | _ => 4
/-- EMAX (06 R141). -/
def elemEmax (sel : Nat) : Int := match sel with
  | 0x01 => 8
  | 0x02 => 15
  | 0x03 => 0
  | 0x11 => 4
  | _ => 2
/-- SEL is assigned (R46). -/
def selAssigned (sel : Nat) : Bool := [0x01, 0x02, 0x03, 0x11, 0x12, 0x21].contains sel

/-- The value of an element (R42). -/
def elemRead (sel code : Nat) : Num :=
  let b := code % 2 ^ elemBits sel
  if sel = 0x03 then
    let n := signExt b 8
    .fin (decide (n < 0)) n.natAbs (-6)
  else
    let f := (elemOf sel).fmt
    let mag := b % 2 ^ (f.w - 1)
    let neg := b.testBit (f.w - 1)
    if sel = 0x01 && mag = 0x7F then .nan false
    else if sel = 0x02 && 0x7C < mag then .nan false
    else if sel = 0x02 && mag = 0x7C then .inf neg
    else
      let ex := mag >>> f.f
      let m := mag % 2 ^ f.f
      if ex = 0 then .fin neg m (f.emin - (f.f : Int)) else .fin neg (2 ^ f.f + m) ((ex : Int) - (f.bias : Int) - (f.f : Int))

/-- NV of a NaN that enters an element format (R51). -/
def elemNanFlags (sel : Nat) (sig : Bool) : BitVec 6 := if sel = 0x01 || sel = 0x02 then flagIf sig fNv else fNv

/-- The conversion of a value into an element (R51, R55). -/
def toElement (sel : Nat) (mode : Mode) (a : Num) : FpAns :=
  if sel = 0x03 then
    let code (n : Bool) (t : Nat) : Nat := if n then (256 - t) % 256 else t
    match a with
    | .nan _ => (0, fNv)
    | .inf n => (code n 127, fSat)
    | .fin n m e =>
      let (t, inexact) := ({ m := m, e := e, sticky := false } : Mag).roundAt n mode (-6)
      if 127 < t then (code n 127, fSat ||| fNx) else (code n t, flagIf inexact fNx)
  else
    let el := elemOf sel
    let sg (n : Bool) : Nat := el.fmt.signBit n
    match a with
    | .nan s => (if sel = 0x01 then 0x7F else if sel = 0x02 then 0x7E else 0, elemNanFlags sel s)
    | .inf n => if sel = 0x02 then (sg n ||| 0x7C, 0#6) else (sg n ||| el.maxCode, fSat)
    | .fin n m e =>
      if m = 0 then (sg n, 0#6)
      else
        let (c, inexact) := el.fmt.code { m := m, e := e, sticky := false } n mode
        if el.maxCode < c then (sg n ||| el.maxCode, fSat ||| fNx) else (sg n ||| c, flagIf inexact fNx)

/-- A value times a power of two. -/
def Num.shift (a : Num) (k : Int) : Num :=
  match a with
  | .fin n m e => .fin n m (e + k)
  | a => a

/-- scale × element (R44). -/
def mxValue (scale sel code : Nat) : Num :=
  if scale = 0xFF then .nan false else (elemRead sel code).shift ((scale : Int) - 127)

/-- `IDIV` on n-bit patterns: quotient and remainder (R59). -/
def idivAns (n : Nat) (u : Bool) (a b : Nat) : Nat × Nat :=
  if b = 0 then (2 ^ n - 1, a)
  else if u then (a / b, a % b)
  else
    let x := signExt a n
    let y := signExt b n
    ((wrapTo n (Int.tdiv x y)).toNat, (wrapTo n (Int.tmod x y)).toNat)

end Sys2Proof.Machine
end

