-- ==== Sys2Proof/Machine/Access.lean ====
section
/-! DEFINITION. The accesses of lanes: the checks of each lane, poison, the bound regions of a synchronisation object,
the logs of a transaction and the merge of a store instruction's bytes (07 R147-R169; 14 R324-R326; 18 R396; 21 R432-R435). -/

namespace Sys2Proof.Machine

open Sys2Proof

/-- What a loop over lanes has gathered: the state, the results to write at completion, the lanes that completed, the
sectors read as zero, and the tags given to lines. -/
structure Acc where
  s : State
  writes : List (Nat × Word)
  pwrites : List (Nat × Nat × Bool)
  fin : LaneMask
  subst : List (Nat × Nat × Nat)
  tags : List (Nat × Nat × Tag)

inductive AccAns where
  | go (a : Acc)
  | stall (host : Option Nat)
  | poison (addr : DWord)

def Acc.init (s : State) : Acc := { s := s, writes := [], pwrites := [], fin := 0#32, subst := [], tags := [] }

/-- Ascending over the lanes of x (00 R11). -/
def overAcc (x : LaneMask) (s : State) (f : Nat → Acc → AccAns) : AccAns :=
  (lanesOf x).foldl (fun r l =>
    match r with
    | .go a => f l a
    | r => r) (.go (Acc.init s))

/-- SUBSTCNT of the team rises (21 R435). -/
def countSubst (s : State) (team n : Nat) : State :=
  if n = 0 then s else s.modTeam team (fun t => { t with substcnt := satAdd t.substcnt n })

/-- Ends a loop: SUBSTCNT is counted once per sector, and k says what becomes of the rest. -/
def AccAns.toEff (r : AccAns) (k : Acc → State) : Eff :=
  match r with
  | .go a => .done (k { a with s := countSubst a.s (a.s.spindle a.s.cur.sp).team a.subst.length })
  | .stall h => .stall h
  | .poison va => .poison va

/-- Ends a flag-A loop: its results are under way for the lanes that completed. -/
def AccAns.pend (r : AccAns) (fl : Nat) : Eff := r.toEff (fun a => pendOp a.s fl a.fin a.writes a.pwrites [])

/-- The lanes that completed a holding instruction of n words are held at it. Where its chain has a further word, which takes effect
only when it has completed, it completes at once (07 R151; 03 R71). -/
def holdDone (s : State) (x : LaneMask) (n : Nat) : State :=
  if s.cur.more then s else s.modLanes s.cur.sp x (fun _ y => { y with st := .held (.completing n), pc := s.cur.pc })

/-- Ends a holding loop: the lanes that completed are held at their word of n words (07 R151). -/
def AccAns.holding (r : AccAns) (n : Nat) : Eff := r.toEff (fun a => holdDone a.s a.fin n)

def Acc.complete (a : Acc) (s : State) (l : Nat) (w : List (Nat × Word)) : AccAns :=
  .go { a with s := s, writes := a.writes ++ w, fin := a.fin ||| laneBit l }

/-- Lane l faults at the issuing word; poison is the rollback's, where the team has one (21 R441). -/
def Acc.fault (a : Acc) (s : State) (l : Nat) (cause : BitVec 8) (va : DWord) (acc : BitVec 5) (rt : BitVec 16) : AccAns :=
  if rollsBack s cause then .poison va else .go { a with s := faultLane s s.cur.sp l cause va acc rt }

/-- The tag of a store instruction (18 R396). DESIGN CHOICE (log entry 89): `atomic` is the atomic bit of the atomics alone; the `.A` of a
load or store is single-copy atomicity and sets it neither here nor in a fault record. -/
def storeTag (s : State) (l sz : Nat) (atomic : Bool) : Tag :=
  { team := (s.teamOf s.cur.sp).idx, idx := (s.spindle s.cur.sp).idx, lane := l, pc := s.cur.pc.setWidth 32, time := s.clock.ns, size := sz, atomic := atomic }

/-- Checks 1 and 2 of R148 for lane l; `m0` is the memory side before the instruction. The leaf and the RIGHTS field go on. -/
def laneCheck (m0 : MemSys) (a : Acc) (l : Nat) (va : DWord) (align : Nat) (nd : Need) (acc : BitVec 5)
    (k : State → DWord → BitVec 16 → AccAns) : AccAns :=
  let s := a.s
  let w := s.who s.cur.sp
  let ea := eaOf w.asid va
  let rv := (rightsFind m0 w.core ea (pageOf va)).isNone
  match checkAccess s w va align nd rv with
  | .ok s e => k s e (rightsField (some e) nd (sealedPage s.mem ea (pageOf va)) rv)
  | .bad s c r => a.fault s l c va acc r
  | .absent s ea pg => .go { a with s := absentLane s s.cur.sp l ea pg va acc 0#16 }
  | .wait h => .stall h

/-- Check 4 of R148: what the memory side answers. -/
def laneGot {α : Type} (a : Acc) (l : Nat) (va : DWord) (acc : BitVec 5) (rt : BitVec 16) (g : Got α) (k : State → α → AccAns) : AccAns :=
  match g with
  | .ok s x => k s x
  | .bad s c _ => a.fault s l c va acc rt
  | .absent s ea pg => .go { a with s := absentLane s s.cur.sp l ea pg va acc rt }
  | .wait h => .stall h

/-- New pairs of a line's sectors, once each. -/
def addSubst (l : List (Nat × Nat × Nat)) (ea ln : Nat) (p : BitVec 4) : List (Nat × Nat × Nat) :=
  (List.range 4).foldl (fun acc i => if p.getLsbD i && !acc.contains (ea, ln, i) then acc ++ [(ea, ln, i)] else acc) l

/-- The bytes of a line as lane l consumes them: zeros for marked sectors of an error-tolerant page, POISON elsewhere
(21 R433, R441). -/
def lanePoison (a : Acc) (s : State) (l : Nat) (va : DWord) (acc : BitVec 5) (rt : BitVec 16) (e : DWord) (ea ln : Nat) (line : Line) (need : BitVec 128)
    (k : Acc → BitVec 1024 → AccAns) : AccAns :=
  let hit := marksHit line need
  if hit == 0#4 then k { a with s := s } line.data
  else if leafET e then k { a with s := s, subst := addSubst a.subst ea ln hit } (zeroMarked line hit)
  else if (s.teamOf s.cur.sp).rollb then .poison va
  else a.fault s l 0x10#8 va acc rt

/-- The value that a load of 2^sz bytes writes: sign- or zero-extended (07 R153). -/
def extendLoad (sz : Nat) (sx : Bool) (v : Nat) : Nat := if sx then (wrapTo 32 (signExt v (8 * 2 ^ sz))).toNat else v
/-- Registers of an access of 2^sz bytes. -/
def regsOf (sz : Nat) : Nat := if sz = 4 then 4 else if sz = 3 then 2 else 1

-- Bound regions (07 R164-R168)

/-- The regions bound to the object at va, by base address and length in lines. -/
def boundRegions (s : State) (i : Nat) (va : DWord) : Got (List (DWord × Nat)) :=
  let bt := (s.partOf i).bindtab
  let base := bt &&& ~~~0xFFF#64
  if base == 0#64 then .ok s []
  else
    (List.range (bitsOf bt.toNat 0 12 + 1)).foldl (fun r k =>
      match r with
      | .ok s acc =>
        match devRead s (s.who i) (base + BitVec.ofNat 64 (32 * k)) 32 with
        | .ok s v =>
          let obj := BitVec.ofNat 64 (bitsOf v 0 64)
          .ok s (if obj.getLsbD 0 && obj &&& ~~~7#64 == va then acc ++ [(BitVec.ofNat 64 (bitsOf v 64 64), bitsOf v 128 32)] else acc)
        | .bad s c r => .bad s c r
        | .absent s ea pg => .absent s ea pg
        | .wait h => .wait h
      | r => r) (.ok s [])

/-- A line lies in one of the regions. -/
def inRegions (asid : BitVec 14) (rs : List (DWord × Nat)) (ea ln : Nat) : Bool :=
  rs.any (fun r => ea == eaOf asid r.1 && lnOf r.1 ≤ ln && ln < lnOf r.1 + r.2)

/-- The regions of an ordered access at a scope: none at `.spin` or without the order. -/
def orderedRegions (s : State) (i : Nat) (va : DWord) (scope : BitVec 3) (ordered : Bool) : Got (List (DWord × Nat)) :=
  if scope == 0#3 || !ordered then .ok s [] else boundRegions s i va
/-- The core's dirty lines of the regions go home (R165). -/
def releaseRegions (s : State) (w : Who) (rs : List (DWord × Nat)) : State :=
  if rs.isEmpty then s else wbLines s (fun x => x.core == w.core && inRegions w.asid rs x.ea x.ln)
/-- The core's copies of the regions end (R166). -/
def acquireRegions (s : State) (w : Who) (rs : List (DWord × Nat)) : State :=
  if rs.isEmpty then s else invLines s (fun x => x.core == w.core && inRegions w.asid rs x.ea x.ln)

/-- `release_bound` (R165). -/
def releaseBound (s : State) (i : Nat) (va : DWord) (scope : BitVec 3) : Got Unit :=
  match orderedRegions s i va scope true with
  | .ok s rs => .ok (releaseRegions s (s.who i) rs) ()
  | .bad s c r => .bad s c r
  | .absent s ea pg => .absent s ea pg
  | .wait h => .wait h

/-- `acquire_bound` (R166). -/
def acquireBound (s : State) (i : Nat) (va : DWord) (scope : BitVec 3) : Got Unit :=
  match orderedRegions s i va scope true with
  | .ok s rs => .ok (acquireRegions s (s.who i) rs) ()
  | .bad s c r => .bad s c r
  | .absent s ea pg => .absent s ea pg
  | .wait h => .wait h

-- The logs of a transaction (14 R322-R326)

def txFind (l : List TxLine) (ea ln : Nat) : Option TxLine := l.find? (fun x => x.ea == ea && x.ln == ln)
/-- Replaces or adds a line of a log. -/
def txPut (l : List TxLine) (x : TxLine) : List TxLine :=
  if (txFind l x.ea x.ln).isSome then l.map (fun y => if y.ea == x.ea && y.ln == x.ln then x else y) else l ++ [x]
/-- Overlays the bytes of a mask. -/
def overlay (base top : BitVec 1024) (m : BitVec 128) : BitVec 1024 :=
  let k := spreadBytes m
  (base &&& ~~~k) ||| (top &&& k)

def Lane.txReads (y : Lane) : List TxLine := match y.txn with
  | some x => x.reads
  | none => []
def Lane.txWrites (y : Lane) : List TxLine := match y.txn with
  | some x => x.writes
  | none => []

/-- The bytes that lane l's logs hold of a line, and which. -/
def txHeld (y : Lane) (ea ln : Nat) : BitVec 1024 × BitVec 128 :=
  let r := (txFind y.txReads ea ln).map (fun x => (x.data, x.mask)) |>.getD (0#1024, 0#128)
  match txFind y.txWrites ea ln with
  | none => r
  | some x => (overlay r.1 x.data x.mask, r.2 ||| x.mask)

/-- The device writes line k of a run of eight chunks of spindle i with bytes that have no architected layout: the checkpoint chunks under owner
32, a lane's log chunks under the lane (R323). -/
def chunkWrite (s : State) (i owner k : Nat) : State :=
  match ((s.spindle i).txchunks.filter (fun c => c.1 == owner))[k / 16]? with
  | none => s
  | some c =>
    match devWriteLine s (s.who i) ((s.teamOf i).chunkVa c.2 + BitVec.ofNat 64 (128 * (k % 16))) (Config.chunkBytes s.free).toNat 0#4 with
    | .ok t _ => { t with free := s.free + 1 }
    | _ => s

/-- A transactional read of a line's bytes (R324, R325, R257). -/
def txRead (a : Acc) (s : State) (l : Nat) (va : DWord) (acc : BitVec 5) (rt : BitVec 16) (e : DWord) (need : BitVec 128)
    (k : Acc → BitVec 1024 → AccAns) : AccAns :=
  let i := s.cur.sp
  let w := s.who i
  let ea := eaOf w.asid va
  let ln := lnOf va
  let y := s.lane i l
  let held := txHeld y ea ln
  let want := need &&& ~~~held.2
  if want == 0#128 then k { a with s := s } held.1
  else if (txFind y.txReads ea ln).isNone && 64 ≤ y.txReads.length then .go { a with s := abortTx s i l 3#3 0#7 0#8 }
  else
    laneGot a l va acc rt (homeRead s w ea ln want 1) (fun s h =>
      lanePoison a s l va acc rt e ea ln h.line want (fun a data =>
        match y.txn with
        | none => .go a
        | some x =>
          if x.ts && decide (x.start < h.version) then .go { a with s := abortTx a.s i l 2#3 0#7 0#8 }
          else
            let old := (txFind x.reads ea ln).getD { ea := ea, ln := ln, version := h.version, mask := 0#128, data := 0#1024 }
            let entry : TxLine := { old with version := max old.version h.version, mask := old.mask ||| want, data := overlay old.data data want }
            let s := chunkWrite (a.s.modLane i l (fun y => { y with txn := some { x with reads := txPut x.reads entry } })) i l x.reads.length
            k { a with s := s } (overlay held.1 data want)))

/-- A transactional store merges its bytes into the write log (R326, R257). -/
def txStore (s : State) (l ea ln : Nat) (inc : Line) : State :=
  let i := s.cur.sp
  match (s.lane i l).txn with
  | none => s
  | some x =>
    if (txFind x.writes ea ln).isNone && 32 ≤ x.writes.length then abortTx s i l 3#3 0#7 0#8
    else
      let old := (txFind x.writes ea ln).getD { ea := ea, ln := ln, version := 0, mask := 0#128, data := 0#1024 }
      let entry : TxLine := { old with mask := old.mask ||| inc.dirty, data := overlay old.data inc.data inc.dirty }
      chunkWrite (s.modLane i l (fun y => { y with txn := some { x with writes := txPut x.writes entry } })) i l (64 + x.writes.length)

-- The bytes of one store instruction, line by line (00 R11, 18 R396, 21 R434)

/-- The lanes of one store that write one line: their bytes together, the lanes with their addresses. -/
structure Group where
  ea : Nat
  ln : Nat
  cls : Nat
  inc : Line
  lanes : List (Nat × DWord × BitVec 16)

/-- Adds one lane's bytes; a later lane's bytes lie over an earlier one's. -/
def addGroup (gs : List Group) (ea ln cls : Nat) (inc : Line) (x : Nat × DWord × BitVec 16) : List Group :=
  if gs.any (fun g => g.ea == ea && g.ln == ln) then
    gs.map (fun g =>
      if g.ea == ea && g.ln == ln then
        { g with inc := { g.inc with data := overlay g.inc.data inc.data inc.dirty, valid := g.inc.valid ||| inc.dirty, dirty := g.inc.dirty ||| inc.dirty },
                 lanes := g.lanes ++ [x] }
      else g)
  else gs ++ [{ ea := ea, ln := ln, cls := cls, inc := inc, lanes := [x] }]

/-- Performs the groups in order; a line that the memory side refuses faults its lanes. -/
def putGroups (w : Who) (acc : BitVec 5) (gs : List Group) (r : AccAns) : AccAns :=
  gs.foldl (fun r g =>
    match r with
    | .go a =>
      match l1Write a.s w g.cls g.ea g.ln { g.inc with full := fullSectors g.inc.dirty } with
      | .ok s _ => .go { a with s := s }
      | .bad s c _ => .go { a with s := g.lanes.foldl (fun s x => faultLane s s.cur.sp x.1 c x.2.1 acc x.2.2) s }
      | .absent s ea pg => .go { a with s := g.lanes.foldl (fun s x => absentLane s s.cur.sp x.1 ea pg x.2.1 acc x.2.2) s }
      | .wait h => .stall h
    | r => r) r

-- Scratchpad (07 R157-R159)

/-- The share's key of a scratchpad address that spindle sp names: none raises RIGHTS. -/
def scratchKey (t : Team) (sp : Spindle) (a : Word) : Option Nat :=
  let cl := a.getLsbD 31
  let rank := bitsOf a.toNat 18 3
  let o := bitsOf a.toNat 0 18
  if bitsOf a.toNat 21 10 != 0 || (!cl && rank != 0) || t.share ≤ o || (cl && t.cores ≤ rank) then none
  else some (2 ^ 18 * (if cl then rank else sp.crank) + o)

/-- The sectors of 32 bytes of a scratchpad that n bytes at a key meet. -/
def scratchSectors (key n : Nat) : List Nat := (List.range ((key + n - 1) / 32 - key / 32 + 1)).map (fun j => key / 32 + j)

/-- Extra cycles in which banks reached at different words are served (R159): the accesses as key and size. -/
def bankExtra (l : List (Nat × Nat)) : Nat :=
  let words := l.foldl (fun acc x => (List.range ((x.2 + 3) / 4)).foldl (fun acc j => insertNat acc (x.1 / 4 + j)) acc) []
  let bank (w : Nat) : Nat := w / 2 ^ 16 * 32 + w % 32
  words.foldl (fun m w => max m ((words.filter (fun v => bank v == bank w)).length - 1)) 0

/-- BANKCONF counts (01 R34). -/
def countBanks (s : State) (i n : Nat) : State :=
  if n = 0 then s else s.modSp i (fun sp => { sp with bankconf := satAdd sp.bankconf n })

-- Atomics (07 R160-R163)

/-- The new value of an atomic on n bits (R160). -/
def atomNew (aop : BitVec 5) (w64 : Bool) (o b c : Nat) : Nat :=
  let n := if w64 then 64 else 32
  let f := if w64 then fmt64 else fmt32
  match aop.toNat with
  | 0 => (o + b) % 2 ^ n
  | 1 => o &&& b
  | 2 => o ||| b
  | 3 => o ^^^ b
  | 4 => if signExt b n < signExt o n then b else o
  | 5 => if signExt o n < signExt b n then b else o
  | 6 => min o b
  | 7 => max o b
  | 8 => b
  | 9 => if o = c then b else o
  | 10 => (f.add false .rne (f.read false o) (f.read false b)).1
  | 11 => (f.minmax false (f.read false o) (f.read false b)).1
  | 12 => (f.minmax true (f.read false o) (f.read false b)).1
  | _ => o

/-- The write of an atomic at a home line that was just read (R161, R439). -/
def atomWrite (s : State) (w : Who) (cls : Nat) (h : HomeLine) (inc : Line) : State :=
  let s := if cls != 1 && (s.team w.team).rollb then s.ineligible w.team else s
  let (s, h) := preImage s w.team h
  homeMerge s h inc

/-- The tag with which a lane's bytes come to the home of a line: that of the lowest lane of the instruction that writes the line. A later lane's bytes
are of the same store instruction, and count no further writer (18 R396). -/
def firstTag (a : Acc) (ea ln : Nat) (tag : Tag) : Option Tag :=
  if a.tags.any (fun t => t.1 == ea && t.2.1 == ln) then (homeFind a.s.mem ea ln).bind (fun h => if h.line.dirty == 0#128 then some tag else h.line.tag) else some tag

/-- One lane of an atomic of n bytes: release, read, update, acquire (R161, R168). `new` answers the new value and `res`
what the lane receives. -/
def atomLane (m0 : MemSys) (n log2 : Nat) (ord : BitVec 2) (scope : BitVec 3) (l : Nat) (va : DWord) (a : Acc) (new : Nat → Nat)
    (res : Nat → List (Nat × Word) × List (Nat × Nat × Bool)) : AccAns :=
  let acc := accField log2 true true
  laneCheck m0 a l va n { r := true, w := true, x := false } acc (fun s e rt =>
    if !scopeOk (leafClass e) scope then a.fault s l 0x0A#8 va acc rt
    else
      let i := s.cur.sp
      let w := s.who i
      let ea := eaOf w.asid va
      let ln := lnOf va
      let mask := byteMask (offOf va) n
      laneGot a l va acc rt (orderedRegions s i va scope (ord != 0#2)) (fun s rs =>
        let s := if ord.getLsbD 1 then releaseRegions s w rs else s
        laneGot a l va acc rt (homeRead s w ea ln mask 1) (fun s h =>
          lanePoison a s l va acc rt e ea ln h.line mask (fun a data =>
            let o := lineBytesGet data (offOf va) n
            let tag := storeTag a.s l log2 true
            let s := atomWrite a.s w (leafClass e) h (incOf (offOf va) n (new o) 0#4 (firstTag a ea ln tag))
            let s := if ord.getLsbD 0 then acquireRegions s w rs else s
            let r := res o
            ({ a with tags := (ea, ln, tag) :: a.tags, pwrites := a.pwrites ++ r.2 } : Acc).complete s l r.1))))

end Sys2Proof.Machine
end

