-- ==== Sys2Proof/Machine/Integer.lean ====
section
/-! DEFINITION. The integer, bit, predicate and transfer instructions (05 R105-R117). -/

namespace Sys2Proof.Machine

open Sys2Proof

/-- The comparison of a code CMP (R113): EQ, NE, LT, LE, GT, GE signed; LO, LS, HI, HS unsigned. -/
def icmpHolds {w : Nat} (cmp : BitVec 4) (a b : BitVec w) : Bool :=
  match cmp.toNat with
  | 0 => a == b
  | 1 => a != b
  | 2 => a.slt b
  | 3 => a.sle b
  | 4 => b.slt a
  | 5 => b.sle a
  | 6 => a.ult b
  | 7 => a.ule b
  | 8 => b.ult a
  | 9 => b.ule a
  | _ => false

/-- `combine` of R113. -/
def combine (bop : BitVec 2) (t q : Bool) : Bool :=
  match bop.toNat with
  | 0 => t && q
  | 1 => t || q
  | _ => t != q

/-- Writes a predicate and its complement in the lanes of x (R113, R114). -/
def Spindle.setPair (sp : Spindle) (d e : Nat) (x r : LaneMask) : Spindle := (sp.setPred d x r).setPred e x (~~~r)

/-- The number of one bits. -/
def popCount {w : Nat} (a : BitVec w) : Nat := ((List.range w).filter (fun i => a.getLsbD i)).length
/-- Zero bits above the highest one bit. -/
def leadZeros (a : Word) : Nat := ((List.range 32).find? (fun i => a.getLsbD (31 - i))).getD 32
/-- Zero bits below the lowest one bit. -/
def trailZeros (a : Word) : Nat := ((List.range 32).find? (fun i => a.getLsbD i)).getD 32
/-- Bit i of the result is bit 31 − i. -/
def bitReverse (a : Word) : Word :=
  BitVec.ofNat 32 ((List.range 32).foldl (fun acc i => if a.getLsbD (31 - i) then acc ||| 2 ^ i else acc) 0)

/-- A register shift by a whole 32-bit count (R108). -/
def shiftLeft (a n : Word) : Word := if 32 ≤ n.toNat then 0#32 else a <<< n.toNat
def shiftRight (a n : Word) : Word := if 32 ≤ n.toNat then 0#32 else a >>> n.toNat
def shiftArith (a n : Word) : Word := a.sshiftRight (min n.toNat 31)

/-- Reads a pattern as two's complement, or unsigned under U. -/
def readInt {w : Nat} (u : Bool) (a : BitVec w) : Int := if u then a.toNat else a.toInt

/-- The result of `IMAD` in n bits (R110): exact, then wrapped or saturated. -/
def imadResult (n : Nat) (u sat : Bool) (a b : Word) (c : BitVec n) : BitVec n :=
  let x := readInt u a * readInt u b + readInt u c
  if !sat then wrapTo n x
  else if u then wrapTo n (saturate x 0 (2 ^ n - 1))
  else wrapTo n (saturate x (-(2 ^ (n - 1))) (2 ^ (n - 1) - 1))

/-- The field of LEN bits from POS, extended (R112). -/
def bitField (a : Word) (u : Bool) (len pos : Nat) : Word :=
  let x := bitsOf a.toNat pos len
  if u then BitVec.ofNat 32 x else wrapTo 32 (signExt x len)
/-- A with its field of LEN bits from POS replaced (R112). -/
def bitInsert (a b : Word) (len pos : Nat) : Word :=
  let m := maskOf 32 pos len
  (a &&& ~~~m) ||| ((b <<< pos) &&& m)

/-- `MOV` (R107): vD := vA. -/
def execMov (p : Pfx) (d a : Reg) (s : State) : Host.Outcome State Fault Refusal :=
  alu (.mov p d a) p 1 s (fun old l sp => sp.setV d.toNat l (old.getV a.toNat l))

/-- `MOVI` (R107): vD := the sign-extended immediate. -/
def execMovi (p : Pfx) (d : Reg) (imm : BitVec 14) (s : State) : Host.Outcome State Fault Refusal :=
  alu (.movi p d imm) p 1 s (fun _ l sp => sp.setV d.toNat l (imm.signExtend 32))

/-- `MOVL` (R107): vD := imm, or dD := its sign extension. -/
def execMovl (p : Pfx) (d : Reg) (w64 : Bool) (imm : BitVec 32) (s : State) : Host.Outcome State Fault Refusal :=
  alu (.movl p d w64 imm) p 2 s (fun _ l sp => if w64 then sp.setD d.toNat l (imm.signExtend 64) else sp.setV d.toNat l imm)

/-- `IADD` (R108): the wrapping sum. -/
def execIadd (p : Pfx) (d a b : Reg) (s : State) : Host.Outcome State Fault Refusal :=
  alu (.iadd p d a b) p 1 s (fun old l sp => sp.setV d.toNat l (old.getV a.toNat l + old.getV b.toNat l))

/-- `ISUB` (R108): the wrapping difference. -/
def execIsub (p : Pfx) (d a b : Reg) (s : State) : Host.Outcome State Fault Refusal :=
  alu (.isub p d a b) p 1 s (fun old l sp => sp.setV d.toNat l (old.getV a.toNat l - old.getV b.toNat l))

/-- `IADDI` (R109): the wrapping sum with the sign-extended immediate. -/
def execIaddi (p : Pfx) (d a : Reg) (imm : BitVec 7) (s : State) : Host.Outcome State Fault Refusal :=
  alu (.iaddi p d a imm) p 1 s (fun old l sp => sp.setV d.toNat l (old.getV a.toNat l + imm.signExtend 32))

/-- `IADD64` (R108): the wrapping 64-bit sum. -/
def execIadd64 (p : Pfx) (d a b : Reg) (s : State) : Host.Outcome State Fault Refusal :=
  alu (.iadd64 p d a b) p 1 s (fun old l sp => sp.setD d.toNat l (old.getD a.toNat l + old.getD b.toNat l))

/-- `IMUL` (R108): the low half of the product. -/
def execImul (p : Pfx) (d a b : Reg) (s : State) : Host.Outcome State Fault Refusal :=
  alu (.imul p d a b) p 1 s (fun old l sp => sp.setV d.toNat l (old.getV a.toNat l * old.getV b.toNat l))

/-- `IMULH` (R108): the high half of the signed product. -/
def execImulh (p : Pfx) (d a b : Reg) (s : State) : Host.Outcome State Fault Refusal :=
  alu (.imulh p d a b) p 1 s (fun old l sp => sp.setV d.toNat l ((((old.getV a.toNat l).signExtend 64) * ((old.getV b.toNat l).signExtend 64)).extractLsb' 32 32))

/-- `IMULHU` (R108): the high half of the unsigned product. -/
def execImulhu (p : Pfx) (d a b : Reg) (s : State) : Host.Outcome State Fault Refusal :=
  alu (.imulhu p d a b) p 1 s (fun old l sp => sp.setV d.toNat l ((((old.getV a.toNat l).setWidth 64) * ((old.getV b.toNat l).setWidth 64)).extractLsb' 32 32))

/-- `IMAD` (R110): product and sum, wrapped or saturated. -/
def execImad (p : Pfx) (d a b cr : Reg) (u sat w64 : Bool) (s : State) : Host.Outcome State Fault Refusal :=
  alu (.imad p d a b cr u sat w64) p 2 s (fun old l sp =>
    let x := old.getV a.toNat l
    let y := old.getV b.toNat l
    if w64 then sp.setD d.toNat l (imadResult 64 u sat x y (old.getD cr.toNat l))
    else sp.setV d.toNat l (imadResult 32 u sat x y (old.getV cr.toNat l)))

/-- `IMIN` (R108): the signed lesser. -/
def execImin (p : Pfx) (d a b : Reg) (s : State) : Host.Outcome State Fault Refusal :=
  alu (.imin p d a b) p 1 s (fun old l sp => sp.setV d.toNat l (if (old.getV a.toNat l).slt (old.getV b.toNat l) then old.getV a.toNat l else old.getV b.toNat l))

/-- `IMAX` (R108): the signed greater. -/
def execImax (p : Pfx) (d a b : Reg) (s : State) : Host.Outcome State Fault Refusal :=
  alu (.imax p d a b) p 1 s (fun old l sp => sp.setV d.toNat l (if (old.getV a.toNat l).slt (old.getV b.toNat l) then old.getV b.toNat l else old.getV a.toNat l))

/-- `UMIN` (R108): the unsigned lesser. -/
def execUmin (p : Pfx) (d a b : Reg) (s : State) : Host.Outcome State Fault Refusal :=
  alu (.umin p d a b) p 1 s (fun old l sp => sp.setV d.toNat l (if (old.getV a.toNat l).ult (old.getV b.toNat l) then old.getV a.toNat l else old.getV b.toNat l))

/-- `UMAX` (R108): the unsigned greater. -/
def execUmax (p : Pfx) (d a b : Reg) (s : State) : Host.Outcome State Fault Refusal :=
  alu (.umax p d a b) p 1 s (fun old l sp => sp.setV d.toNat l (if (old.getV a.toNat l).ult (old.getV b.toNat l) then old.getV b.toNat l else old.getV a.toNat l))

/-- `AND` (R108): bitwise and. -/
def execAnd (p : Pfx) (d a b : Reg) (s : State) : Host.Outcome State Fault Refusal :=
  alu (.and p d a b) p 1 s (fun old l sp => sp.setV d.toNat l (old.getV a.toNat l &&& old.getV b.toNat l))

/-- `OR` (R108): bitwise or. -/
def execOr (p : Pfx) (d a b : Reg) (s : State) : Host.Outcome State Fault Refusal :=
  alu (.or p d a b) p 1 s (fun old l sp => sp.setV d.toNat l (old.getV a.toNat l ||| old.getV b.toNat l))

/-- `XOR` (R108): bitwise exclusive or. -/
def execXor (p : Pfx) (d a b : Reg) (s : State) : Host.Outcome State Fault Refusal :=
  alu (.xor p d a b) p 1 s (fun old l sp => sp.setV d.toNat l (old.getV a.toNat l ^^^ old.getV b.toNat l))

/-- `ANDN` (R108): a and not b. -/
def execAndn (p : Pfx) (d a b : Reg) (s : State) : Host.Outcome State Fault Refusal :=
  alu (.andn p d a b) p 1 s (fun old l sp => sp.setV d.toNat l (old.getV a.toNat l &&& ~~~(old.getV b.toNat l)))

/-- `SHL` (R108): left shift by the whole count. -/
def execShl (p : Pfx) (d a b : Reg) (s : State) : Host.Outcome State Fault Refusal :=
  alu (.shl p d a b) p 1 s (fun old l sp => sp.setV d.toNat l (shiftLeft (old.getV a.toNat l) (old.getV b.toNat l)))

/-- `SHR` (R108): logical right shift by the whole count. -/
def execShr (p : Pfx) (d a b : Reg) (s : State) : Host.Outcome State Fault Refusal :=
  alu (.shr p d a b) p 1 s (fun old l sp => sp.setV d.toNat l (shiftRight (old.getV a.toNat l) (old.getV b.toNat l)))

/-- `SAR` (R108): arithmetic right shift, the count capped at 31. -/
def execSar (p : Pfx) (d a b : Reg) (s : State) : Host.Outcome State Fault Refusal :=
  alu (.sar p d a b) p 1 s (fun old l sp => sp.setV d.toNat l (shiftArith (old.getV a.toNat l) (old.getV b.toNat l)))

/-- `SHLI` (R109): left shift by an immediate. -/
def execShli (p : Pfx) (d a : Reg) (n : BitVec 5) (s : State) : Host.Outcome State Fault Refusal :=
  alu (.shli p d a n) p 1 s (fun old l sp => sp.setV d.toNat l (old.getV a.toNat l <<< n.toNat))

/-- `SHRI` (R109): logical right shift by an immediate. -/
def execShri (p : Pfx) (d a : Reg) (n : BitVec 5) (s : State) : Host.Outcome State Fault Refusal :=
  alu (.shri p d a n) p 1 s (fun old l sp => sp.setV d.toNat l (old.getV a.toNat l >>> n.toNat))

/-- `SARI` (R109): arithmetic right shift by an immediate. -/
def execSari (p : Pfx) (d a : Reg) (n : BitVec 5) (s : State) : Host.Outcome State Fault Refusal :=
  alu (.sari p d a n) p 1 s (fun old l sp => sp.setV d.toNat l ((old.getV a.toNat l).sshiftRight n.toNat))

/-- `ROTI` (R109): left rotation by an immediate. -/
def execRoti (p : Pfx) (d a : Reg) (n : BitVec 5) (s : State) : Host.Outcome State Fault Refusal :=
  alu (.roti p d a n) p 1 s (fun old l sp => sp.setV d.toNat l ((old.getV a.toNat l).rotateLeft n.toNat))

/-- `BFE` (R112): extracts a field. -/
def execBfe (p : Pfx) (d a : Reg) (u : Bool) (len : BitVec 6) (pos : BitVec 5) (s : State) : Host.Outcome State Fault Refusal :=
  alu (.bfe p d a u len pos) p 2 s (fun old l sp => sp.setV d.toNat l (bitField (old.getV a.toNat l) u len.toNat pos.toNat))

/-- `BFI` (R112): inserts a field. -/
def execBfi (p : Pfx) (d a b : Reg) (len : BitVec 6) (pos : BitVec 5) (s : State) : Host.Outcome State Fault Refusal :=
  alu (.bfi p d a b len pos) p 2 s (fun old l sp => sp.setV d.toNat l (bitInsert (old.getV a.toNat l) (old.getV b.toNat l) len.toNat pos.toNat))

/-- `POPC` (R111): one bits. -/
def execPopc (p : Pfx) (d a : Reg) (s : State) : Host.Outcome State Fault Refusal :=
  alu (.popc p d a) p 1 s (fun old l sp => sp.setV d.toNat l (BitVec.ofNat 32 (popCount (old.getV a.toNat l))))

/-- `CLZ` (R111): leading zero bits. -/
def execClz (p : Pfx) (d a : Reg) (s : State) : Host.Outcome State Fault Refusal :=
  alu (.clz p d a) p 1 s (fun old l sp => sp.setV d.toNat l (BitVec.ofNat 32 (leadZeros (old.getV a.toNat l))))

/-- `CTZ` (R111): trailing zero bits. -/
def execCtz (p : Pfx) (d a : Reg) (s : State) : Host.Outcome State Fault Refusal :=
  alu (.ctz p d a) p 1 s (fun old l sp => sp.setV d.toNat l (BitVec.ofNat 32 (trailZeros (old.getV a.toNat l))))

/-- `BREV` (R111): bits reversed. -/
def execBrev (p : Pfx) (d a : Reg) (s : State) : Host.Outcome State Fault Refusal :=
  alu (.brev p d a) p 1 s (fun old l sp => sp.setV d.toNat l (bitReverse (old.getV a.toNat l)))

/-- The comparison that `ICMP` makes in a lane (R113). -/
def icmpLane (sp : Spindle) (l : Nat) (a b : Reg) (cmp : BitVec 4) (w64 imm : Bool) : Bool :=
  if w64 then icmpHolds cmp (sp.getD a.toNat l) (if imm then b.signExtend 64 else sp.getD b.toNat l)
  else icmpHolds cmp (sp.getV a.toNat l) (if imm then b.signExtend 32 else sp.getV b.toNat l)

/-- `ICMP` (R113): a comparison combined with a predicate, and its complement. -/
def execIcmp (p : Pfx) (d a b : Reg) (cmp : BitVec 4) (w64 imm : Bool) (q : BitVec 3) (bop : BitVec 2) (e : BitVec 3) (s : State) :
    Host.Outcome State Fault Refusal :=
  uniform (.icmp p d a b cmp w64 imm q bop e) p 2 s (fun x sp =>
    sp.setPair d.toNat e.toNat x (maskBy (fun l => combine bop (icmpLane sp l a b cmp w64 imm) ((sp.pred q.toNat).getLsbD l))))

/-- `SEL` (R115): D := pQ ? A : B. -/
def execSel (p : Pfx) (d a b : Reg) (q : BitVec 3) (w64 : Bool) (s : State) : Host.Outcome State Fault Refusal :=
  alu (.sel p d a b q w64) p 2 s (fun old l sp =>
    sp.setVD w64 d.toNat l (if (old.pred q.toNat).getLsbD l then old.getVD w64 a.toNat l else old.getVD w64 b.toNat l))

/-- Bit pA + 2 pB + 4 pC of the truth table (R114). -/
def lutBit (lut : BitVec 8) (a b c : Bool) : Bool := lut.getLsbD (boolNat a + 2 * boolNat b + 4 * boolNat c)

/-- `PBOOL` (R114): a three-input predicate function and its complement. -/
def execPbool (p : Pfx) (d a b : Reg) (cp e : BitVec 3) (lut : BitVec 8) (s : State) : Host.Outcome State Fault Refusal :=
  uniform (.pbool p d a b cp e lut) p 2 s (fun x sp =>
    sp.setPair d.toNat e.toNat x (maskBy (fun l =>
      lutBit lut ((sp.pred a.toNat).getLsbD l) ((sp.pred b.toNat).getLsbD l) ((sp.pred cp.toNat).getLsbD l))))

/-- `LEA` (R116): base, scaled index and offset. -/
def execLea (p : Pfx) (d a b : Reg) (sh : BitVec 3) (u : Bool) (off : BitVec 24) (s : State) : Host.Outcome State Fault Refusal :=
  alu (.lea p d a b sh u off) p 2 s (fun old l sp =>
    let i : DWord := if u then (old.getV b.toNat l).setWidth 64 else (old.getV b.toNat l).signExtend 64
    sp.setD d.toNat l (old.getD a.toNat l + (i <<< sh.toNat) + off.signExtend 64))

/-- `S2V` (R117): vD := sA in each lane. -/
def execS2v (p : Pfx) (d a : Reg) (s : State) : Host.Outcome State Fault Refusal :=
  alu (.s2v p d a) p 1 s (fun old l sp => sp.setV d.toNat l (old.getS a.toNat))

/-- `V2S` (R117, R16): sD := vA of the lowest lane. -/
def execV2s (p : Pfx) (d a : Reg) (s : State) : Host.Outcome State Fault Refusal :=
  uniform (.v2s p d a) p 1 s (fun x sp => sp.setS d.toNat (sp.getV a.toNat (lowestLane x)))

/-- `SMOVL` (R117): sdD := sdA. -/
def execSmovl (p : Pfx) (d a : Reg) (s : State) : Host.Outcome State Fault Refusal :=
  uniform (.smovl p d a) p 1 s (fun _ sp => sp.setSD d.toNat (sp.getSD a.toNat))

/-- `S2V.64` (R117): dD := sdA in each lane. -/
def execS2v64 (p : Pfx) (d a : Reg) (s : State) : Host.Outcome State Fault Refusal :=
  alu (.s2v64 p d a) p 1 s (fun old l sp => sp.setD d.toNat l (old.getSD a.toNat))

/-- `V2S.64` (R117, R16): sdD := dA of the lowest lane. -/
def execV2s64 (p : Pfx) (d a : Reg) (s : State) : Host.Outcome State Fault Refusal :=
  uniform (.v2s64 p d a) p 1 s (fun x sp => sp.setSD d.toNat (sp.getD a.toNat (lowestLane x)))

end Sys2Proof.Machine
end

