-- ==== Sys2Proof/Machine/Global.lean ====
section
/-! DEFINITION. Loads, stores, atomics, waits, bindings, fences, range operations, seals, prefetch and the exchanges
between lanes (07 R147-R177). -/

namespace Sys2Proof.Machine

open Sys2Proof

/-- `LD` (R153-R155, R257). -/
def execLd (p : Pfx) (d a : Reg) (sz : BitVec 3) (sx atm : Bool) (lc : BitVec 3) (off : BitVec 24) (s : State) : Host.Outcome State Fault Refusal :=
  issue (.ld p d a sz sx atm lc off) p 2 s (fun x s => withFlag s true (fun s fl =>
    let old := s.spindle s.cur.sp
    let m0 := s.mem
    let n := 2 ^ sz.toNat
    let acc := accField sz.toNat false false
    (overAcc x s (fun l b =>
      let va := old.getD a.toNat l + off.signExtend 64
      laneCheck m0 b l va n { r := true, w := false, x := false } acc (fun s e rt =>
        let w := s.who s.cur.sp
        let need := byteMask (offOf va) n
        let fin (b : Acc) (data : BitVec 1024) : AccAns :=
          b.complete b.s l (vWrites d.toNat l (regsOf sz.toNat) (extendLoad sz.toNat sx (lineBytesGet data (offOf va) n)))
        if (s.lane s.cur.sp l).tx then
          if leafClass e = 0 then b.fault s l 0x0A#8 va acc rt else txRead b s l va acc rt e need fin
        else
          laneGot b l va acc rt (l1Read s w (eaOf w.asid va) (lnOf va) need (min lc.toNat (leafLcap e)) 1) (fun s line =>
            lanePoison b s l va acc rt e (eaOf w.asid va) (lnOf va) line need fin)))).pend fl))

/-- `ST` (R153, R154, R326). -/
def execSt (p : Pfx) (a b : Reg) (sz : BitVec 3) (atm : Bool) (off : BitVec 24) (s : State) : Host.Outcome State Fault Refusal :=
  issue (.st p a b sz atm off) p 2 s (fun x s =>
    let old := s.spindle s.cur.sp
    let m0 := s.mem
    let n := 2 ^ sz.toNat
    let acc := accField sz.toNat true false
    let w := s.who s.cur.sp
    let va (l : Nat) : DWord := old.getD a.toNat l + off.signExtend 64
    let inc (l : Nat) : Line := incOf (offOf (va l)) n (old.getQ b.toNat l).toNat 0#4 (some (storeTag s l sz.toNat false))
    -- the checks of every lane, then the bytes of those that passed
    let r := (lanesOf x).foldl (fun (r : AccAns × List Group) l =>
      match r with
      | (.go c, gs) =>
        match rightsFind m0 w.core (eaOf w.asid (va l)) (pageOf (va l)), checkAccess c.s w (va l) n { r := false, w := true, x := false }
            (rightsFind m0 w.core (eaOf w.asid (va l)) (pageOf (va l))).isNone with
        | f, .ok s e =>
          let rt := rightsField (some e) { r := false, w := true, x := false } false f.isNone
          if (s.lane s.cur.sp l).tx then
            if leafClass e = 0 then (c.fault s l 0x0A#8 (va l) acc rt, gs)
            else (.go { c with s := txStore s l (eaOf w.asid (va l)) (lnOf (va l)) (inc l) }, gs)
          else (.go { c with s := s }, addGroup gs (eaOf w.asid (va l)) (lnOf (va l)) (leafClass e) (inc l) (l, va l, rt))
        | _, .bad s cs rt => (c.fault s l cs (va l) acc rt, gs)
        | _, .absent s ea pg => (.go { c with s := absentLane s s.cur.sp l ea pg (va l) acc 0#16 }, gs)
        | _, .wait h => (.stall h, gs)
      | r => r) (.go (Acc.init s), [])
    (putGroups w acc r.2 r.1).toEff (fun c => c.s))

/-- n bytes at a key of a team's scratchpad as a thread loads them: a byte that a command not yet complete has written reads as the old value or
the new one (08 R191); free choices from `free`. -/
def scratchLoaded (s : State) (team free k n : Nat) : Nat :=
  (s.cmds.filter (fun c => c.team == team && !c.scratchNew.isEmpty)).foldl (fun v c =>
    (List.range n).foldl (fun v j =>
      let d := cellGet c.scratchNew (k + j)
      if d.getLsbD 8 then
        v ^^^ atByte j (bitsOf v (8 * j) 8 ^^^ (if Config.raceChoice (free + j) then d.extractLsb' 9 8 else d.extractLsb' 0 8).toNat)
      else v) v) (bytesGet (s.team team).scratch k n)

/-- `LDS` (R158, R159). -/
def execLds (p : Pfx) (d a : Reg) (sz : BitVec 3) (sx : Bool) (s : State) : Host.Outcome State Fault Refusal :=
  issue (.lds p d a sz sx) p 1 s (fun x s => withFlag s true (fun s fl =>
    let old := s.spindle s.cur.sp
    let t := s.teamOf s.cur.sp
    let n := 2 ^ sz.toNat
    let acc := accField sz.toNat false false
    let key (l : Nat) : Option Nat := if (old.getV a.toNat l).toNat % n = 0 then scratchKey t old (old.getV a.toNat l) else none
    let r := overAcc x s (fun l b =>
      let va := (old.getV a.toNat l).setWidth 64
      if va.toNat % n != 0 then b.fault b.s l 0x08#8 va acc 0#16
      else
        match key l with
        | none => b.fault b.s l 0x09#8 va acc 0#16
        | some k =>
          if (scratchSectors k n).any (fun j => t.scratchPoison.contains j) then
            if t.rollb then .poison va else b.fault b.s l 0x10#8 va acc 0#16
          else
            let seen := scratchLoaded s old.team (s.free + 16 * l) k n
            b.complete b.s l (vWrites d.toNat l (regsOf sz.toNat) (extendLoad sz.toNat sx seen)))
    match r with
    | .go b =>
      let b := if s.cmds.all (fun c => c.team != old.team || c.scratchNew.isEmpty) then b else { b with s := { b.s with free := s.free + 512 } }
      AccAns.pend (.go { b with s := countBanks b.s s.cur.sp (bankExtra ((lanesOf b.fin).filterMap (fun l => (key l).map (fun k => (k, n))))) }) fl
    | r => r.pend fl))

/-- The sectors whose 32 bytes are all among n-byte accesses at keys. -/
def coveredSectors (l : List (Nat × Nat)) : List Nat :=
  let secs := l.foldl (fun acc x => (scratchSectors x.1 x.2).foldl insertNat acc) []
  secs.filter (fun j => (List.range 32).all (fun b => l.any (fun x => x.1 ≤ 32 * j + b && 32 * j + b < x.1 + x.2)))

/-- A thread wrote the bytes of keys ks, which stand in `after`: where the command has written them too, either value may be read or remain. -/
def Cmd.noteStore (c : Cmd) (after : Cells 8) (ks : List Nat) : Cmd :=
  { c with scratchNew := ks.foldl (fun m k =>
      let x := cellGet m k
      if x.getLsbD 8 then cellSet m k ((x.extractLsb' 0 9).setWidth 17 ||| (cellGet after k).setWidth 17 <<< 9) else m) c.scratchNew }

/-- Bytes that a thread and a command not yet complete both write end with either value (08 R191): those that the command wrote before may keep
its value. -/
def settleRace (s : State) (team : Nat) (after : Cells 8) (ks : List Nat) : State :=
  let value (k : Nat) : Option (BitVec 8) :=
    (s.cmds.find? (fun c => c.team == team && (cellGet c.scratchNew k).getLsbD 8)).map (fun c => (cellGet c.scratchNew k).extractLsb' 0 8)
  let both := ks.filterMap (fun k => if Config.raceChoice (s.free + k) then (value k).map (fun v => (k, v)) else none)
  { s.modTeam team (fun t => { t with scratch := both.foldl (fun m x => cellSet m x.1 x.2) t.scratch }) with
    cmds := s.cmds.map (fun c => if c.team == team then c.noteStore after ks else c), free := s.free + 2 ^ 21 }

/-- Commands not yet complete may read, or end with, the old values of bytes that a thread now writes (08 R191). -/
def noteRace (s : State) (team : Nat) (before after : Cells 8) (l : List (Nat × Nat)) : State :=
  if s.cmds.isEmpty then s
  else
    let ks := l.flatMap (fun x => (List.range x.2).map (fun j => x.1 + j))
    let s := if s.cmds.all (fun c => c.team != team || c.scratchNew.isEmpty) then s else settleRace s team after ks
    { s with cmds := s.cmds.map (fun c =>
        if c.team == team then
          { c with scratchOld := ks.foldl (fun o k => cellSet o k (cellGet o k ^^^ cellGet before k ^^^ cellGet after k)) c.scratchOld }
        else c) }

/-- `STS` (R158, R159; 21 R434). -/
def execSts (p : Pfx) (sz : BitVec 3) (a b : Reg) (s : State) : Host.Outcome State Fault Refusal :=
  issue (.sts p sz a b) p 1 s (fun x s =>
    let old := s.spindle s.cur.sp
    let t := s.teamOf s.cur.sp
    let n := 2 ^ sz.toNat
    let acc := accField sz.toNat true false
    let r := overAcc x s (fun l c =>
      let va := (old.getV a.toNat l).setWidth 64
      if va.toNat % n != 0 then c.fault c.s l 0x08#8 va acc 0#16
      else
        match scratchKey t old (old.getV a.toNat l) with
        | none => c.fault c.s l 0x09#8 va acc 0#16
        | some k => c.complete (c.s.modTeam old.team (fun t => { t with scratch := bytesSet t.scratch k n (old.getQ b.toNat l).toNat })) l [])
    r.toEff (fun c =>
      let keys := (lanesOf c.fin).filterMap (fun l => (scratchKey t old (old.getV a.toNat l)).map (fun k => (k, n)))
      let cov := coveredSectors keys
      let c := { c with s := touchUnits (noteRace c.s old.team t.scratch (c.s.team old.team).scratch keys) old.team (keys.map (fun (x : Nat × Nat) => SnapUnit.scratch (x.1 / 128))) }
      countBanks (c.s.modTeam old.team (fun t => { t with scratchPoison := t.scratchPoison.filter (fun j => !cov.contains j) })) s.cur.sp (bankExtra keys)))

/-- `ATOM` (R160, R161). -/
def execAtom (p : Pfx) (d a b : Reg) (aop : BitVec 5) (w64 : Bool) (ord : BitVec 2) (scope : BitVec 3) (cr : Reg) (off : BitVec 14) (s : State) :
    Host.Outcome State Fault Refusal :=
  issue (.atom p d a b aop w64 ord scope cr off) p 2 s (fun x s => withFlag s true (fun s fl =>
    let old := s.spindle s.cur.sp
    let m0 := s.mem
    let n := if w64 then 8 else 4
    (overAcc x s (fun l c =>
      atomLane m0 n (if w64 then 3 else 2) ord scope l (old.getD a.toNat l + off.signExtend 64) c
        (fun o => atomNew aop w64 o (old.getVD w64 b.toNat l).toNat (old.getVD w64 cr.toNat l).toNat)
        (fun o => (vWrites d.toNat l (n / 4) o, [])))).pend fl))

/-- `RED` (R160, R161). -/
def execRed (p : Pfx) (a b : Reg) (aop : BitVec 5) (w64 : Bool) (ord : BitVec 2) (scope : BitVec 3) (off : BitVec 14) (s : State) :
    Host.Outcome State Fault Refusal :=
  issue (.red p a b aop w64 ord scope off) p 2 s (fun x s => withFlag s true (fun s fl =>
    let old := s.spindle s.cur.sp
    let m0 := s.mem
    (overAcc x s (fun l c =>
      atomLane m0 (if w64 then 8 else 4) (if w64 then 3 else 2) ord scope l (old.getD a.toNat l + off.signExtend 64) c
        (fun o => atomNew aop w64 o (old.getVD w64 b.toNat l).toNat 0) (fun _ => ([], [])))).pend fl))

/-- `CAS128` (R163). -/
def execCas128 (p : Pfx) (d a b cr : Reg) (sp : BitVec 3) (ord : BitVec 2) (scope : BitVec 3) (off : BitVec 14) (s : State) :
    Host.Outcome State Fault Refusal :=
  issue (.cas128 p d a b cr sp ord scope off) p 2 s (fun x s => withFlag s true (fun s fl =>
    let old := s.spindle s.cur.sp
    let m0 := s.mem
    (overAcc x s (fun l c =>
      let cmp := (old.getQ cr.toNat l).toNat
      atomLane m0 16 4 ord scope l (old.getD a.toNat l + off.signExtend 64) c
        (fun o => if o = cmp then (old.getQ b.toNat l).toNat else o)
        (fun o => (vWrites d.toNat l 4 o, [(sp.toNat, l, o == cmp)])))).pend fl))

-- Waiting on memory (R169)

/-- The compare of a `WAITC` on a value read at the home. -/
def monitorHolds (m : Monitor) (x : Nat) : Bool :=
  if m.w64 then icmpHolds m.cmp (BitVec.ofNat 64 x) m.operand else icmpHolds m.cmp (BitVec.ofNat 32 x) (m.operand.setWidth 32)

/-- `WAITC` (R169, R170). -/
def execWaitc (p : Pfx) (d a b : Reg) (cmp : BitVec 4) (w64 acq : Bool) (scope : BitVec 3) (off : BitVec 14) (s : State) :
    Host.Outcome State Fault Refusal :=
  issue (.waitc p d a b cmp w64 acq scope off) p 2 s (fun x s =>
    let old := s.spindle s.cur.sp
    let m0 := s.mem
    let n := if w64 then 8 else 4
    let acc := accField (if w64 then 3 else 2) false false
    (overAcc x s (fun l c =>
      let va := old.getD a.toNat l + off.signExtend 64
      laneCheck m0 c l va n { r := true, w := false, x := false } acc (fun s e rt =>
        if acq && !scopeOk (leafClass e) scope then c.fault s l 0x0A#8 va acc rt
        else
          let i := s.cur.sp
          let w := s.who i
          let ea := eaOf w.asid va
          let need := byteMask (offOf va) n
          laneGot c l va acc rt (homeRead s w ea (lnOf va) need 1) (fun s h =>
            lanePoison c s l va acc rt e ea (lnOf va) h.line need (fun c data =>
              let v := lineBytesGet data (offOf va) n
              let m : Monitor := { ea := ea, va := va, cmp := cmp, w64 := w64, operand := old.getVD w64 b.toNat l, acq := acq, scope := scope, dest := d.toNat, tissue := s.clock.ns,
                                   counted := marksHit h.line need != 0#4 }
              if monitorHolds m v then
                laneGot c l va acc rt (if acq then acquireBound c.s i va scope else .ok c.s ()) (fun s _ =>
                  c.complete (s.modSp i (fun sp => sp.setVD w64 d.toNat l (BitVec.ofNat 64 v))) l [])
              else c.complete (c.s.modLane i l (fun y => { y with st := .waiting, pc := s.cur.pc, monitor := some m })) l []))))).toEff (fun c => c.s))

-- Fences, releases, acquires and bindings (R164-R167)

/-- `FENCE` (R167): it acts once. -/
def execFence (p : Pfx) (kind : BitVec 2) (scope : BitVec 3) (s : State) : Host.Outcome State Fault Refusal :=
  issue (.fence p kind scope) p 1 s (fun x s =>
    let core := (s.spindle s.cur.sp).core
    let s := if scope != 0#3 && kind.getLsbD 0 then coreRelease s core else s
    let s := if scope != 0#3 && kind.getLsbD 1 then coreAcquire s core else s
    .done (holdDone s x 1))

/-- `ACQ` (R166). -/
def execAcq (p : Pfx) (d a : Reg) (scope : BitVec 3) (off : BitVec 14) (s : State) : Host.Outcome State Fault Refusal :=
  issue (.acq p d a scope off) p 2 s (fun x s =>
    let old := s.spindle s.cur.sp
    let m0 := s.mem
    let acc := accField 3 false false
    (overAcc x s (fun l c =>
      let va := old.getD a.toNat l + off.signExtend 64
      laneCheck m0 c l va 8 { r := true, w := false, x := false } acc (fun s e rt =>
        if !scopeOk (leafClass e) scope then c.fault s l 0x0A#8 va acc rt
        else
          let i := s.cur.sp
          let w := s.who i
          let ea := eaOf w.asid va
          let need := byteMask (offOf va) 8
          laneGot c l va acc rt (homeRead s w ea (lnOf va) need 1) (fun s h =>
            lanePoison c s l va acc rt e ea (lnOf va) h.line need (fun c data =>
              let s := c.s.modSp i (fun sp => sp.setD d.toNat l (BitVec.ofNat 64 (lineBytesGet data (offOf va) 8)))
              laneGot c l va acc rt (acquireBound s i va scope) (fun s _ => c.complete s l [])))))).holding 2)

/-- Sectors that the completed lanes of one instruction together have written whole, n bytes each at va, lose their marks at the homes
(21 R434). -/
def AccAns.clearCovered (r : AccAns) (va : Nat → DWord) (n : Nat) : AccAns :=
  match r with
  | .go c =>
    let w := c.s.who c.s.cur.sp
    let lines := (lanesOf c.fin).foldl (fun (acc : List (Nat × Nat × BitVec 128)) l =>
      let k := (eaOf w.asid (va l), lnOf (va l))
      let m := byteMask (offOf (va l)) n
      if acc.any (fun x => (x.1, x.2.1) == k) then acc.map (fun x => if (x.1, x.2.1) == k then (x.1, x.2.1, x.2.2 ||| m) else x) else acc ++ [(k.1, k.2, m)]) []
    .go { c with s := lines.foldl (fun s x =>
      let f := fullSectors x.2.2
      match homeFind s.mem x.1 x.2.1 with
      | some h => if f == 0#4 then s else s.modMem (fun m => homePut m { h with line := { h.line with poison := h.line.poison &&& ~~~f, full := h.line.full ||| f } })
      | none => s) c.s }
  | r => r

/-- `REL` (R165). -/
def execRel (p : Pfx) (a b : Reg) (scope : BitVec 3) (off : BitVec 14) (s : State) : Host.Outcome State Fault Refusal :=
  issue (.rel p a b scope off) p 2 s (fun x s =>
    let old := s.spindle s.cur.sp
    let m0 := s.mem
    let acc := accField 3 true false
    (overAcc x s (fun l c =>
      let va := old.getD a.toNat l + off.signExtend 64
      laneCheck m0 c l va 8 { r := false, w := true, x := false } acc (fun s e rt =>
        if !scopeOk (leafClass e) scope then c.fault s l 0x0A#8 va acc rt
        else
          let i := s.cur.sp
          let w := s.who i
          let ea := eaOf w.asid va
          laneGot c l va acc rt (releaseBound s i va scope) (fun s _ =>
            let s := if leafClass e != 1 && (s.team w.team).rollb then s.ineligible w.team else s
            let tag := storeTag s l 3 false
            let first := firstTag { c with s := s } ea (lnOf va) tag
            let c := { c with tags := (ea, lnOf va, tag) :: c.tags }
            laneGot c l va acc rt (homeWrite s (some w) ea (lnOf va) (incOf (offOf va) 8 (old.getD b.toNat l).toNat 0#4 first)) (fun s _ =>
              c.complete s l []))))).clearCovered (fun l => old.getD a.toNat l + off.signExtend 64) 8 |>.holding 2)

/-- The tag and the bytes of a binding table's entry that lane l writes: a global write of the team (21 R439). A sealed page refuses it (13 R308). -/
def bindWrite (s : State) (l : Nat) (va : DWord) (n log2 v : Nat) : Got Unit :=
  let w := s.who s.cur.sp
  let ea := eaOf w.asid va
  if sealedPage s.mem ea (pageOf va) then .bad s 0x09#8 0#16
  else homeWrite (ineligibleWrite s w ea (lnOf va)) (some w) ea (lnOf va) (incOf (offOf va) n v (fullSectors (byteMask (offOf va) n)) (some (storeTag s l log2 false)))

/-- The binding table: base address and number of entries, none for no table (R164). -/
def bindTable (s : State) (i : Nat) : Option (DWord × Nat) :=
  let bt := (s.partOf i).bindtab
  if bt &&& ~~~0xFFF#64 == 0#64 then none else some (bt &&& ~~~0xFFF#64, bitsOf bt.toNat 0 12 + 1)

/-- The lowest invalid entry. DESIGN CHOICE (log entry 108): where the table cannot be read the lane faults with the read's cause, or waits for the
page. -/
def freeBinding (s : State) (i : Nat) (base : DWord) (n : Nat) : Got (Option Nat) :=
  (List.range n).foldl (fun r k =>
    match r with
    | .ok s none =>
      match devRead s (s.who i) (base + BitVec.ofNat 64 (32 * k)) 8 with
      | .ok s v => .ok s (if v.testBit 0 then none else some k)
      | .bad s c r => .bad s c r
      | .absent s ea pg => .absent s ea pg
      | .wait h => .wait h
    | r => r) (.ok s none)

/-- `BIND` (R164). -/
def execBind (p : Pfx) (d a b lr : Reg) (s : State) : Host.Outcome State Fault Refusal :=
  issue (.bind p d a b lr) p 2 s (fun x s =>
    let old := s.spindle s.cur.sp
    (overAcc x s (fun l c =>
      let s := c.s
      let i := s.cur.sp
      let base := old.getD a.toNat l
      let obj := old.getD b.toNat l
      let lines := old.getV lr.toNat l
      let put (s : State) (v : Word) : AccAns := c.complete (s.modSp i (fun sp => sp.setV d.toNat l v)) l []
      if base.toNat % 128 != 0 then c.fault s l 0x08#8 base 0#5 0#16
      else if obj.toNat % 8 != 0 then c.fault s l 0x08#8 obj 0#5 0#16
      else
        match bindTable s i with
        | none => put s 0xFFFF_FFFF#32
        | some (tab, n) =>
          if lines == 0#32 then put s 0xFFFF_FFFF#32
          else
            laneGot c l tab 0#5 0#16 (freeBinding s i tab n) (fun s k =>
              match k with
              | none => put s 0xFFFF_FFFF#32
              | some k =>
                let v := (obj ||| 1#64).toNat ||| atByte 8 base.toNat ||| atByte 16 lines.toNat
                laneGot c l tab 0#5 0#16 (bindWrite s l (tab + BitVec.ofNat 64 (32 * k)) 32 5 v) (fun s _ => put s (BitVec.ofNat 32 k))))).holding 2)

/-- `UNBIND` (R164). -/
def execUnbind (p : Pfx) (a : Reg) (s : State) : Host.Outcome State Fault Refusal :=
  issue (.unbind p a) p 2 s (fun x s =>
    let old := s.spindle s.cur.sp
    (overAcc x s (fun l c =>
      let s := c.s
      let i := s.cur.sp
      let k := (old.getV a.toNat l).toNat
      match bindTable s i with
      | none => c.complete s l []
      | some (tab, n) =>
        if n ≤ k then c.complete s l []
        else
          let va := tab + BitVec.ofNat 64 (32 * k)
          laneGot c l va 0#5 0#16 (devRead s (s.who i) va 8) (fun s v =>
            if !v.testBit 0 then c.complete s l []
            else laneGot c l va 0#5 0#16 (bindWrite s l va 8 3 (v - 1)) (fun s _ => c.complete s l [])))).holding 2)

-- Range operations (R172, R173)

/-- Pages that n bytes at va touch. -/
def pagesIn (va : DWord) (n : Nat) : Nat := if n = 0 then 0 else (va.toNat % 4096 + n + 4095) / 4096

/-- The line meets, or lies wholly inside, the n bytes at va. -/
def lineMeets (va : DWord) (n ln : Nat) : Bool := 0 < n && ln * 128 < va.toNat % 2 ^ 57 + n && va.toNat % 2 ^ 57 < ln * 128 + 128
def lineInside (va : DWord) (n ln : Nat) : Bool := va.toNat % 2 ^ 57 ≤ ln * 128 && ln * 128 + 128 ≤ va.toNat % 2 ^ 57 + n

/-- Checks every page of a range for lane l, from page k of `left` pages, and then acts; a fault gives the address in the page
that fails. -/
def rangePages (m0 : MemSys) (c : Acc) (l : Nat) (va : DWord) (nd : Need) (f : State → Acc → AccAns) : Nat → Nat → State → AccAns
  | 0, _, s => f s c
  | left + 1, k, s =>
    let at' : DWord := if k = 0 then va else BitVec.ofNat 64 ((va.toNat / 4096 + k) * 4096)
    let w := s.who s.cur.sp
    match checkAccess s w at' 1 nd (rightsFind m0 w.core (eaOf w.asid at') (pageOf at')).isNone with
    | .ok s _ => rangePages m0 c l va nd f left (k + 1) s
    | .bad s cs r => c.fault s l cs at' (accField 0 nd.w false) r
    | .absent s ea pg => .go { c with s := absentLane s s.cur.sp l ea pg at' (accField 0 nd.w false) 0#16 }
    | .wait h => .stall h

/-- One lane of a range operation: rights on every page, then the effect. -/
def rangeLane (m0 : MemSys) (c : Acc) (l : Nat) (va : DWord) (n : Nat) (nd : Need) (f : State → Acc → AccAns) : AccAns :=
  rangePages m0 c l va nd f (pagesIn va n) 0 c.s

/-- The issuing core's L1 lines of a range. -/
def inRange (w : Who) (va : DWord) (n : Nat) (x : L1Line) : Bool := x.core == w.core && x.ea == eaOf w.asid va && lineMeets va n x.ln

/-- `CINV` (R172). -/
def execCinv (p : Pfx) (a b : Reg) (s : State) : Host.Outcome State Fault Refusal :=
  issue (.cinv p a b) p 2 s (fun x s => withFlag s true (fun s fl =>
    let old := s.spindle s.cur.sp
    let m0 := s.mem
    (overAcc x s (fun l c =>
      let va := old.getD a.toNat l
      let n := (old.getV b.toNat l).toNat
      rangeLane m0 c l va n { r := true, w := false, x := false } (fun s c =>
        let w := s.who s.cur.sp
        c.complete (invLines (wbLines s (inRange w va n)) (inRange w va n)) l []))).pend fl))

/-- `CWB` (R172). -/
def execCwb (p : Pfx) (a b : Reg) (s : State) : Host.Outcome State Fault Refusal :=
  issue (.cwb p a b) p 2 s (fun x s => withFlag s true (fun s fl =>
    let old := s.spindle s.cur.sp
    let m0 := s.mem
    (overAcc x s (fun l c =>
      let va := old.getD a.toNat l
      let n := (old.getV b.toNat l).toNat
      rangeLane m0 c l va n { r := true, w := false, x := false } (fun s c =>
        let w := s.who s.cur.sp
        c.complete (wbLines s (inRange w va n)) l []))).pend fl))

/-- `CDIS` of one line wholly inside the range (R173): every copy goes, and the home holds what memory holds; a line that no home holds notes the time
for its next fill (14 R327). Answers whether dirty data was discarded. -/
def discardLine (s : State) (w : Who) (ea ln : Nat) : State × Bool :=
  let isLine (e n : Nat) : Bool := e == ea && n == ln
  let dirtyL1 := s.mem.l1.any (fun x => isLine x.ea x.ln && x.line.dirty != 0#128)
  let dirtyBuf := s.mem.buf.any (fun b => isLine b.ea b.ln && b.line.dirty != 0#128)
  let s := s.modMem (fun m => { bufDel m ea ln with l1 := m.l1.filter (fun x => !isLine x.ea x.ln) })
  match homeFind s.mem ea ln with
  | none => (floorNow s ea ln, dirtyL1 || dirtyBuf)
  | some h =>
    let s := homeTouch s h (some w.team)
    let (s, h) := preImage s w.team h
    let dirty := dirtyL1 || dirtyBuf || h.line.dirty != 0#128
    if h.line.dirty == 0#128 && !h.pend then (s.modMem (fun m => homePut m { h with owner := none, version := s.clock.ns }), dirty)
    else
      match linePa s ea ln with
      | some pa =>
        let raw : Line := { Line.empty with data := physLine s.mem pa, valid := BitVec.allOnes 128, poison := physMarks s.mem pa }
        (s.modMem (fun m => homePut m { h with line := raw, owner := none, pend := false, version := s.clock.ns }), dirty)
      | none =>
        let h := { h with version := s.clock.ns }
        ((raiseFloor (tagsLost s h) (homeDie s ea ln) h).modMem (fun m => homeDel m ea ln), dirty)

/-- The first line of a range that the host holds: it is asked back before a range operation ends or discards it (13 R304; 19 R413). -/
def hostIn (s : State) (p : Nat → Nat → Bool) : Option Nat :=
  s.mem.hostHeld.find? (fun k => (lineOfPa s (128 * k)).any (fun x => p x.1 x.2))

/-- `CDIS` of a range: the lines it meets, wherever they stand; answers the count (R173). -/
def discardRange (s : State) (w : Who) (va : DWord) (n : Nat) : State × Nat :=
  let ea := eaOf w.asid va
  let lines := ((s.mem.l1.filter (fun x => x.ea == ea)).map (·.ln) ++ (s.mem.home.filter (fun x => x.ea == ea)).map (·.ln) ++
    (s.mem.buf.filter (fun x => x.ea == ea)).map (·.ln)).foldl (fun acc ln => if lineMeets va n ln then insertNat acc ln else acc) []
  lines.foldl (fun (r : State × Nat) ln =>
    if lineInside va n ln then
      let (s, d) := discardLine r.1 w ea ln
      (s, r.2 + boolNat d)
    else (wbLines r.1 (fun x => x.ea == ea && x.ln == ln), r.2)) (s, 0)

/-- `CDIS` (R173). DESIGN CHOICE (log entry 109): vD takes the count alone, whatever it held. -/
def execCdis (p : Pfx) (d a b : Reg) (s : State) : Host.Outcome State Fault Refusal :=
  issue (.cdis p d a b) p 2 s (fun x s => withFlag s true (fun s fl =>
    let old := s.spindle s.cur.sp
    let m0 := s.mem
    (overAcc x s (fun l c =>
      let va := old.getD a.toNat l
      let n := (old.getV b.toNat l).toNat
      rangeLane m0 c l va n { r := false, w := true, x := false } (fun s c =>
        let w := s.who s.cur.sp
        if lockedAny s (fun ea ln => ea == eaOf w.asid va && lineMeets va n ln) then .stall none else
        match hostIn s (fun ea ln => ea == eaOf w.asid va && lineMeets va n ln) with
        | some k => .stall (some k)
        | none =>
        let (s, k) := if n = 0 then (s, 0) else discardRange s w va n
        c.complete s l (vWrites d.toNat l 1 k)))).pend fl))

-- Sealing (R174)

/-- Seals, or unseals, one 4 KiB page: every core's dirty data goes home and ownership is returned; unsealing ends every copy. -/
def sealOne (un : Bool) (s : State) (ea page : Nat) : State :=
  let mine := s.mem.l1.filter (fun x => x.ea == ea && pageOfLn x.ln == page && (un || x.owned || x.line.dirty != 0#128))
  let s := mine.foldl (fun s x => l1End s x.core x.ea x.ln) s
  s.modMem (fun m => { m with seals := if un then m.seals.filter (· != (ea, page)) else if m.seals.contains (ea, page) then m.seals else (ea, page) :: m.seals })

/-- Processes `left` pages in ascending order; the first whose leaf lacks W raises RIGHTS. -/
def sealPages (un : Bool) (s : State) (w : Who) (m0 : MemSys) (va : DWord) : Nat → Got Unit
  | 0 => .ok s ()
  | left + 1 =>
    let ea := eaOf w.asid va
    let nd : Need := { r := false, w := true, x := false }
    let rv := (rightsFind m0 w.core ea (pageOf va)).isNone
    if !canonical va then .bad s 0x09#8 (rightsField none nd false false)
    else
      match rightsOf s w.core w.pn ea (pageOf va) with
      | (s, .leaf e) =>
        if lockedAny s (fun e ln => e == ea && pageOfLn ln == pageOf va) then .wait none
        else if !un && (hostIn s (fun e ln => e == ea && pageOfLn ln == pageOf va)).isSome then .wait (hostIn s (fun e ln => e == ea && pageOfLn ln == pageOf va))
        else if leafW e then sealPages un (sealOne un s ea (pageOf va)) w m0 (va + 4096#64) left
        else .bad s 0x09#8 (rightsField (some e) nd (sealedPage s.mem ea (pageOf va)) rv)
      | (s, .never) => .bad s 0x0B#8 (rightsField none nd false false)
      | (s, .none) => .bad s 0x09#8 (rightsField none nd false false)

/-- `SEAL` and `UNSEAL` act once for the spindle. DESIGN CHOICE (log entry 90): a fault on any page of the range records the base as its ADDR. -/
def sealEff (un : Bool) (a b : Reg) (x : LaneMask) (s : State) : Eff :=
  let sp := s.spindle s.cur.sp
  let va := sp.getSD a.toNat
  if va.toNat % 4096 != 0 then .bad 0x08#8 va
  else
    match sealPages un s (s.who s.cur.sp) s.mem va (sp.getS b.toNat).toNat with
    | .ok s _ => .done (holdDone s x 2)
    | .bad s c r => laneFaults s x c va r
    | .absent _ ea pg => .absent ea pg va 0#16
    | .wait h => .stall h

/-- `SEAL` (R174). -/
def execSeal (p : Pfx) (a b : Reg) (s : State) : Host.Outcome State Fault Refusal := issue (.seal p a b) p 2 s (sealEff false a b)

/-- `UNSEAL` (R174). -/
def execUnseal (p : Pfx) (a b : Reg) (s : State) : Host.Outcome State Fault Refusal := issue (.unseal p a b) p 2 s (sealEff true a b)

/-- One lane of a prefetch: what it brings to the L1. A prefetch that would fault, or that meets a sealed line with X, is dropped (R175); a load's
of an absent page is, as it would park its lane (12 R277). DESIGN CHOICE (log entry 107): with X it takes ownership under a pending fill and requests
the page, as a store does. -/
def prefLane (s : State) (w : Who) (va : DWord) (lc : Nat) (own : Bool) : Eff :=
  match checkAccess s w va 1 { r := true, w := false, x := false } false with
  | .ok s1 e =>
    let ea := eaOf w.asid va
    let ln := lnOf va
    if own && sealedPage s.mem ea (pageOf va) then .done s
    else if own && leafClass e != 0 then
      match l1Own s1 w ea ln with
      | .ok s2 _ => .done s2
      | .wait h => .stall h
      | _ => .done s
    else
      match l1Read s1 w ea ln (BitVec.allOnes 128) (min lc (leafLcap e)) 1 with
      | .ok s2 _ => .done s2
      | .wait h => .stall h
      | _ => .done s
  | _ => .done s

/-- `PREF` (R175). -/
def execPref (p : Pfx) (a : Reg) (lc : BitVec 3) (x : Bool) (s : State) : Host.Outcome State Fault Refusal :=
  issue (.pref p a lc x) p 1 s (fun m s =>
    let old := s.spindle s.cur.sp
    overLanesE m s (fun l s => prefLane s (s.who s.cur.sp) (old.getD a.toNat l) lc.toNat x))

-- Exchange between lanes (R176, R177)

/-- `SHFL` (R176). -/
def execShfl (p : Pfx) (d a b : Reg) (s : State) : Host.Outcome State Fault Refusal :=
  issue (.shfl p d a b) p 1 s (fun x s => withFlag s true (fun s fl =>
    let sp := s.spindle s.cur.sp
    let src (l : Nat) : Nat := (sp.getV b.toNat l).toNat % 32
    .done (pendOp s fl x ((lanesOf x).map (fun l => (32 * d.toNat + l, sp.getV a.toNat (if x.getLsbD (src l) then src l else l)))) [] [])))

/-- A `POLL` that writes a predicate. -/
def poll (i : Instr) (p : Pfx) (d a : Reg) (s : State) (f : LaneMask → LaneMask → Bool) : Host.Outcome State Fault Refusal :=
  uniform i p 1 s (fun x sp => sp.setPred d.toNat x (if f x (x &&& sp.pred a.toNat) then BitVec.allOnes 32 else 0#32))

/-- `POLL.ALL` (R177). -/
def execPollAll (p : Pfx) (d a : Reg) (s : State) : Host.Outcome State Fault Refusal := poll (.pollAll p d a) p d a s (fun x m => m == x)

/-- `POLL.ANY` (R177). -/
def execPollAny (p : Pfx) (d a : Reg) (s : State) : Host.Outcome State Fault Refusal := poll (.pollAny p d a) p d a s (fun _ m => m != 0#32)

/-- `POLL.SAME` (R177). -/
def execPollSame (p : Pfx) (d a : Reg) (s : State) : Host.Outcome State Fault Refusal := poll (.pollSame p d a) p d a s (fun x m => m == 0#32 || m == x)

/-- `POLL.MASK` (R177). -/
def execPollMask (p : Pfx) (d a : Reg) (s : State) : Host.Outcome State Fault Refusal :=
  uniform (.pollMask p d a) p 1 s (fun x sp => (lanesOf x).foldl (fun sp' l => sp'.setV d.toNat l (x &&& sp.pred a.toNat)) sp)

end Sys2Proof.Machine
end

