-- ==== Sys2Proof/Machine/Engine.lean ====
section
/-! DEFINITION. The life of an engine command: the checks at issue, acceptance, conflicts, the run of a command over
memory, scratchpad and faceplate, command faults and completion (08 R183-R196; 21 R432-R435). -/

namespace Sys2Proof.Machine

open Sys2Proof

-- Operands (R193-R196)

/-- A faceplate region (R193). -/
structure Rect where
  row0 : Nat
  rows : Nat
  col0 : Nat
  cols : Nat
  deriving DecidableEq, Repr

def regionOf (x : DWord) : Rect :=
  { row0 := bitsOf x.toNat 0 9, rows := bitsOf x.toNat 32 10, col0 := bitsOf x.toNat 9 8, cols := bitsOf x.toNat 23 9 }
/-- The region's checks at issue: RESERVED_FIELD, then RIGHTS. -/
def regionChecks (t : Team) (x : DWord) : List (Bool × BitVec 8) :=
  let r := regionOf x
  [(bitsOf x.toNat 42 22 != 0 || bitsOf x.toNat 17 6 != 0 || r.rows == 0 || r.cols == 0 || decide (256 < r.col0 + r.cols), 0x02#8),
   (decide (t.tiles < r.row0 + r.rows), 0x09#8)]
def Rect.overlaps (a b : Rect) : Bool :=
  a.row0 < b.row0 + b.rows && b.row0 < a.row0 + a.rows && a.col0 < b.col0 + b.cols && b.col0 < a.col0 + a.cols
/-- Bytes of a row of the region. -/
def Rect.width (r : Rect) : Nat := 4 * r.cols
/-- A region word of given place and size. -/
def regionWord (row0 rows col0 cols : Nat) : Nat := row0 ||| col0 <<< 9 ||| cols <<< 23 ||| rows <<< 32

/-- A tile reference's checks at issue (R194). -/
def tileChecks (p : Partition) (idx : Word) : List (Bool × BitVec 8) :=
  [(idx.toNat ≥ 2 ^ 16 || p.tiletab &&& ~~~0xFFF#64 == 0#64 || decide ((bitsOf p.tiletab.toNat 0 12 + 1) * 16 ≤ bitsOf idx.toNat 0 16), 0x02#8)]

/-- A scratchpad layout word (R195). -/
structure Layout where
  base : Int
  s0 : Int
  s1 : Int
  s2 : Int
  mode : Nat
  deriving DecidableEq, Repr

def layoutOf (w : Nat) : Layout :=
  { base := bitsOf w 0 18, s0 := signExt (bitsOf w 18 24) 24, s1 := signExt (bitsOf w 42 24) 24, s2 := signExt (bitsOf w 66 24) 24, mode := bitsOf w 90 4 }
/-- The three registers of a layout word. -/
def layoutWord (a b c : Word) : Nat := a.toNat ||| b.toNat <<< 32 ||| c.toNat <<< 64
/-- The offset of element (i, j, k) before permutation, and after it (R196). -/
def Layout.plain (l : Layout) (i j k : Nat) : Int := l.base + i * l.s0 + j * l.s1 + k * l.s2
def Layout.at (l : Layout) (e i j k : Nat) : Nat :=
  let o := (l.plain i j k).toNat
  if l.mode = 0 then o else o ^^^ (max e 4 * (j % 2 ^ l.mode))
/-- The corners of a window. -/
def Layout.corners (l : Layout) (n0 n1 n2 : Nat) : List Int :=
  [0, n0 - 1].flatMap (fun i => [0, n1 - 1].flatMap (fun j => [0, n2 - 1].map (fun k => l.plain i j k)))
/-- The reserved field and MODE of a layout word. -/
def layoutFields (w e : Nat) : Bool × BitVec 8 :=
  let l := layoutOf w
  (w >>> 94 != 0 || decide (5 < l.mode) || (l.mode != 0 && decide (128 < max e 4 * 2 ^ l.mode)), 0x02#8)
/-- A layout word's checks (R195, R196). -/
def layoutChecks (w e share n0 n1 n2 : Nat) : List (Bool × BitVec 8) :=
  let l := layoutOf w
  [layoutFields w e,
   (l.base % e != 0 || l.s0 % e != 0 || l.s1 % e != 0 || l.s2 % e != 0, 0x08#8),
   ((l.corners n0 n1 n2).any (fun o => decide (o < 0) || decide ((share : Int) - e < o)), 0x09#8)]
/-- The interval from the lowest to the highest byte that a window touches (R190): that of its corners, or, under a permutation, that of all its
elements. -/
def Layout.span (l : Layout) (e n0 n1 n2 : Nat) : Nat × Nat :=
  if l.mode = 0 then
    let c := l.corners n0 n1 n2
    ((c.foldl min l.base).toNat, (c.foldl max l.base).toNat + e)
  else
    let o := l.at e 0 0 0
    let x := (List.range n0).foldl (fun x i => (List.range n1).foldl (fun x j => (List.range n2).foldl (fun (x : Nat × Nat) k =>
      (min x.1 (l.at e i j k), max x.2 (l.at e i j k))) x) x) (o, o)
    (x.1, x.2 + e)

/-- A generic scratchpad address (07 R157) of n bytes: MISALIGNED, then RIGHTS, which its OFFSET alone raises where n is 0. -/
def genericChecks (t : Team) (a : Word) (align n : Nat) : List (Bool × BitVec 8) :=
  [(a.toNat % align != 0, 0x08#8), (decide (2 ^ 18 ≤ a.toNat) || decide (t.share < a.toNat + max 1 n), 0x09#8)]

/-- The first fault of a list of checks: RESERVED_FIELD before the others (03 R84 orders 8 and 9). -/
def firstCause (l : List (Bool × BitVec 8)) : Option (BitVec 8) :=
  if l.any (fun x => x.1 && x.2 == 0x02#8) then some 0x02#8 else (l.find? (fun x => x.1)).map (·.2)

-- Snapshots (R187, 11 R464)

/-- The s and k registers that a command names, in the order of R464. -/
def snapOperands (i : Instr) : List Operand :=
  match i with
  | .fqr _ d a b _ _ batch t => if batch then operands i else [rSD d, rSD a, rS b] ++ tailOperands t
  | _ => operands i
def snapRegs (sp : Spindle) (i : Instr) : List Word :=
  (snapOperands i).flatMap (fun o =>
    match o.kind with
    | .s => [sp.getS o.num]
    | .sd => [sp.getS o.num, sp.getS (o.num + 1)]
    | .sn n _ => (List.range n).map (fun j => sp.getS (o.num + j))
    | .k => [(sp.getK o.num).setWidth 32]
    | _ => [])
/-- The snapshot of the issuing word. -/
def snapOf (s : State) (i : Instr) : Snap :=
  let sp := s.spindle s.cur.sp
  { w0 := s.cur.w0, w1 := if xMajor (fld s.cur.w0 21 7).toNat then s.cur.w1 else 0#32, spidx := sp.idx, pc := s.cur.pc, tacc := s.clock.ns, chained := s.cur.chained, regs := snapRegs sp i }

-- Acceptance (R183, R185)

/-- Commands that the core's queue of an engine holds, and its capacity (R183, 10 R232). -/
def queueCap : Engine → Nat
  | .matrix => 8
  | _ => 16
def queueFull (s : State) (core : Nat) (e : Engine) : Bool :=
  decide (queueCap e ≤ (s.cmds.filter (fun c => c.core == core && c.engine == e && !c.saved)).length)

/-- A command of the issuing word, with the registers of its spindle. -/
def newCmd (s : State) (i : Instr) (e : Engine) (x : LaneMask) : Cmd :=
  let sp := s.spindle s.cur.sp
  { id := s.nextId, core := sp.core, rank := sp.crank, team := sp.team, sp := s.cur.sp, engine := e, instr := i, snap := snapOf s i,
    sregs := sp.s, kregs := sp.k, pm := sp.pm, lanes := x, charges := [], shares := [], threads := [], scratchOld := [], scratchNew := [], st := .queued, saved := false,
    page := none, others := [], remote := [], asked := 0, lost := [], rowVas := [], lease := 0, parts := [], swrites := [], pmwrite := none, pwrite := none, bytes := 0,
    priv := (sp.lane (lowestLane x)).priv, launch := none, written := [] }

/-- A command is accepted: it takes the next place in the core's command order and its spindle's flag is charged. -/
def acceptCmd (s : State) (c : Cmd) (f : Nat) : State :=
  let s := charge s c.sp f
  { s with cmds := s.cmds ++ [{ c with charges := (c.sp, f) :: c.charges }], nextId := s.nextId + 1 }

/-- The check of a barrier operand (R185). -/
def barChecks (s : State) (t : Nat) (ct : CmdTail) : List (Bool × BitVec 8) := [(ct.ben && !(s.nbar t ct.bar.toNat).init, 0x02#8)]

/-- The issue of an engine command of n words: the room in the engine's queue, before any check of an operand (R183; 12 R281), the checks, and then
its own way to be accepted. -/
def command (i : Instr) (p : Pfx) (n : Nat) (e : Engine) (s : State) (checks : State → Spindle → Team → List (Bool × BitVec 8))
    (go : LaneMask → Nat → State → Eff) : Host.Outcome State Fault Refusal :=
  issue i p n s (fun x s => withFlag s false (fun s f =>
    let sp := s.spindle s.cur.sp
    if queueFull s sp.core e then .stall none
    else
      match firstCause (checks s sp (s.team sp.team)) with
      | some c => .bad c 0#64
      | none => go x f s))

/-- An engine command that is accepted as it stands. -/
def plainCommand (i : Instr) (p : Pfx) (e : Engine) (s : State) (checks : State → Spindle → Team → List (Bool × BitVec 8)) :
    Host.Outcome State Fault Refusal :=
  command i p 2 e s checks (fun x f s => .done (acceptCmd s (newCmd s i e x) f))

-- The registers of a command, as read at issue

def Cmd.s (c : Cmd) (r : Nat) : Word := cellGet c.sregs r
def Cmd.sd (c : Cmd) (r : Nat) : DWord := c.s (r + 1) ++ c.s r
def Cmd.region (c : Cmd) (r : Reg) : Rect := regionOf (c.sd r.toNat)
def Cmd.layout (c : Cmd) (r : Reg) : Layout := layoutOf (layoutWord (c.s r.toNat) (c.s (r.toNat + 1)) (c.s (r.toNat + 2)))
def Cmd.pmEntry (c : Cmd) (n i : Nat) : Nat := (cellGet c.pm (128 * n + i) ^^^ BitVec.ofNat 8 i).toNat

-- Conflicts (R190; 10 R232)

/-- A range that a command reads, or writes as well. -/
inductive CRange where
  | face (r : Rect) (w : Bool)
  | scr (lo hi : Nat) (w : Bool)
  | cursor (n : Nat) (w : Bool)
  deriving DecidableEq, Repr

def CRange.meets : CRange → CRange → Bool
  | .face a w, .face b w' => (w || w') && a.overlaps b
  | .scr lo hi w, .scr lo' hi' w' => (w || w') && lo < hi' && lo' < hi
  | .cursor a w, .cursor b w' => (w || w') && a == b
  | _, _ => false

def rangesMeet (a b : List CRange) : Bool := a.any (fun x => b.any (fun y => x.meets y))

-- The run of a command

/-- Bytes of a destination written so far: a space, a start and a length, for the faceplate over rows of one shape. -/
structure Wrote where
  space : Nat
  row0 : Nat
  rows : Nat
  b0 : Nat
  len : Nat
  deriving DecidableEq, Repr

/-- Joins ranges that follow each other, newest first. -/
def addWrote (l : List Wrote) (w : Wrote) : List Wrote :=
  match l with
  | [] => [w]
  | a :: rest =>
    if a.space == w.space && a.rows == 1 && a.row0 == w.row0 && a.b0 + a.len == w.b0 then
      let m := { a with len := a.len + w.len }
      match rest with
      | b :: rest' =>
        if m.space == 2 && b.space == 2 && b.b0 == m.b0 && b.row0 + b.rows == m.row0 && b.len == b.rows * m.len then
          { b with rows := b.rows + 1, len := b.len + m.len } :: rest'
        else m :: rest
      | [] => [m]
    else if w.space == 2 && a.space == 2 && a.b0 == w.b0 && a.row0 + a.rows == w.row0 && a.len == a.rows * w.len then
      { a with rows := a.rows + 1, len := a.len + w.len } :: rest
    else w :: l

/-- PARTW's form of a range (12 R298). -/
def Wrote.part (w : Wrote) : PartRange :=
  { space := w.space, len := w.len,
    start := if w.space = 2 then regionWord w.row0 w.rows (w.b0 / 4) ((w.b0 % 4 + w.len / max 1 w.rows + 3) / 4) else w.b0 }

/-- A command at work: the state, the command with the results it has staged, the sectors read as zero (21 R435), the global lines it wrote with the bytes and the sectors given marks, the
bytes it wrote as space, key and length, the ranges written, and, where marks stand, every write that it will make (21 R434). -/
structure Run where
  s : State
  cmd : Cmd
  subst : List (Nat × Nat × Nat)
  lines : List (Nat × Nat × BitVec 128 × BitVec 4)
  done : List (Nat × Nat × Nat)
  wrote : List Wrote
  plan : List (Nat × Nat × Nat)

/-- What a run comes to. -/
inductive RunAns (α : Type) where
  | ok (r : Run) (a : α)
  | fault (r : Run) (cause : BitVec 8) (addr : Nat)
  | absent (s : State) (ea page : Nat)
  | wait (host : Option Nat)
  | poison (r : Run) (va : DWord)

def RunAns.andThen {α β : Type} (x : RunAns α) (f : Run → α → RunAns β) : RunAns β :=
  match x with
  | .ok r a => f r a
  | .fault r c a => .fault r c a
  | .absent s ea pg => .absent s ea pg
  | .wait h => .wait h
  | .poison r va => .poison r va

/-- A loop over 0 to n − 1 that carries a value. -/
def runLoop {α : Type} (n : Nat) (r : Run) (a : α) (f : Nat → Run → α → RunAns α) : RunAns α :=
  (List.range n).foldl (fun x i => x.andThen (fun r a => f i r a)) (.ok r a)
/-- A loop over a list. -/
def runList {α β : Type} (l : List β) (r : Run) (a : α) (f : β → Run → α → RunAns α) : RunAns α :=
  l.foldl (fun x b => x.andThen (fun r a => f b r a)) (.ok r a)

def Run.team (r : Run) : Team := r.s.team r.cmd.team
def Run.who (r : Run) : Who := { r.s.teamWho r.cmd.team with core := r.cmd.core }
def Run.init (s : State) (c : Cmd) : Run :=
  { s := { s with free := s.free + 1 }, cmd := c, subst := [], lines := [], done := c.written, wrote := [], plan := [] }

/-- The tail of a command, for those that have one (R184). -/
def tailOf : Instr → Option CmdTail
  | .mma _ _ _ _ _ _ _ _ t => some t
  | .tld _ _ _ t => some t
  | .tst _ _ _ t => some t
  | .cpy _ _ _ _ _ _ _ t => some t
  | .gathf _ _ _ _ _ t => some t
  | .scatf _ _ _ _ _ _ t => some t
  | .flu _ _ _ _ _ _ _ _ _ t => some t
  | .fchol _ _ _ _ _ _ _ _ t => some t
  | .fqr _ _ _ _ _ _ _ t => some t
  | .ftrs _ _ _ _ _ _ _ _ _ _ _ t => some t
  | .fupd _ _ _ _ _ _ _ _ t => some t
  | .sjoin _ _ _ _ _ t => some t
  | .sfuse _ _ _ _ _ _ t => some t
  | .stopk _ _ _ _ _ t => some t
  | .launch _ _ _ t => some t
  | _ => none
def Cmd.acq (c : Cmd) : Bool := (tailOf c.instr).any (fun t => t.acq && t.scope != 0#3)
def Cmd.rel (c : Cmd) : Bool := (tailOf c.instr).any (fun t => t.rel && t.scope != 0#3)
def Cmd.bar (c : Cmd) : Option Nat := (tailOf c.instr).bind (fun t => if t.ben then some t.bar.toNat else none)
/-- The scope that ACQ or REL names, checked against the class of each touched page (R186). -/
def Cmd.scopeFits (c : Cmd) (cls : Nat) : Bool := (tailOf c.instr).all (fun t => !(t.acq || t.rel) || scopeOk cls t.scope)

/-- The line lies behind a fenced die: its home, or its memory (R186; 19 R419). -/
def behindFence (s : State) (ea ln : Nat) : Bool :=
  s.adeol.fenced != 0#64 &&
    (fencedDie s (homeDie s ea ln) || (linePa s ea ln).any (fun pa => decide (pa < Config.hbmTop) && fencedDie s (pa / Config.stackBytes / 2)))

/-- The rights and the class of a page that a command touches, and ENGINE_FAULT where a fenced die holds the line (R186). -/
def runPage (r : Run) (va : DWord) (nd : Need) : RunAns DWord :=
  if !canonical va then .fault r 0x09#8 va.toNat
  else
    match checkPage r.s r.who (eaOf r.who.asid va) (pageOf va) nd false with
    | .ok s e =>
      if !r.cmd.scopeFits (leafClass e) then .fault { r with s := s } 0x0A#8 va.toNat
      else if behindFence s (eaOf r.who.asid va) (lnOf va) then .fault { r with s := s } 0x0D#8 va.toNat
      else .ok { r with s := s } e
    | .bad s c _ => .fault { r with s := s } c va.toNat
    | .absent s ea pg => .absent s ea pg
    | .wait h => .wait h

/-- The pieces of n bytes at va that lie in one line each: address, offset from the first byte, length. -/
def linePieces (va : DWord) (n : Nat) : List (DWord × Nat × Nat) :=
  (List.range ((offOf va + n + 127) / 128)).map (fun j =>
    let start := if j = 0 then va else va + BitVec.ofNat 64 (128 * j - offOf va)
    let done := if j = 0 then 0 else 128 * j - offOf va
    (start, done, min (128 - offOf start) (n - done)))

/-- Reads n bytes of global memory under a lease class, with the marks of the sectors met; `home`: at the home. Each
piece answers its address, its length, the line and the leaf. -/
def runPieces (r : Run) (va : DWord) (n lc : Nat) (home : Bool) : RunAns (List (DWord × Nat × Nat × Line × DWord)) :=
  runList (linePieces va n) r [] (fun p r acc =>
    (runPage r p.1 { r := true, w := false, x := false }).andThen (fun r e =>
      let w := r.who
      let ea := eaOf w.asid p.1
      let need := byteMask (offOf p.1) p.2.2
      let g : Got Line := if home then
          (match homeRead r.s w ea (lnOf p.1) need 5 with
            | .ok s h => .ok s h.line
            | .bad s c x => .bad s c x
            | .absent s ea pg => .absent s ea pg
            | .wait h => .wait h)
        else l1Read r.s w ea (lnOf p.1) need (min lc (leafLcap e)) 5
      match g with
      | .ok s line => .ok { r with s := s } (acc ++ [(p.1, p.2.1, p.2.2, line, e)])
      | .bad s c _ => .fault { r with s := s } c p.1.toNat
      | .absent s ea pg => .absent s ea pg
      | .wait h => .wait h))

/-- Poison that a command consumes (21 R433, R441). -/
def runPoison {α : Type} (r : Run) (addr : Nat) : RunAns α :=
  if r.team.rollb then .poison r (BitVec.ofNat 64 addr) else .fault r 0x10#8 addr

/-- Reads n bytes of global memory: marked sectors of error-tolerant pages read as zero (R186). -/
def runRead (r : Run) (va : DWord) (n lc : Nat) (home : Bool) : RunAns Nat :=
  (runPieces r va n lc home).andThen (fun r ps =>
    runList ps r 0 (fun p r acc =>
      let need := byteMask (offOf p.1) p.2.2.1
      let hit := marksHit p.2.2.2.1 need
      let ea := eaOf r.who.asid p.1
      if hit == 0#4 then .ok r (acc ||| lineBytesGet p.2.2.2.1.data (offOf p.1) p.2.2.1 <<< (8 * p.2.1))
      else if leafET p.2.2.2.2 then
        .ok { r with subst := addSubst r.subst ea (lnOf p.1) hit } (acc ||| lineBytesGet (zeroMarked p.2.2.2.1 hit) (offOf p.1) p.2.2.1 <<< (8 * p.2.1))
      else runPoison r p.1.toNat))

/-- The writer tag of a command (R187). -/
def Cmd.tag (c : Cmd) (s : State) (n : Nat) : Tag :=
  { team := (s.team c.team).idx, idx := c.snap.spidx, lane := 0, pc := c.snap.pc.setWidth 32, time := c.snap.tacc, size := min 4 (Nat.log2 (max 1 n)), atomic := false }

/-- Adds the bytes a command wrote of a line, and the sectors that took a mark. -/
def addLine (l : List (Nat × Nat × BitVec 128 × BitVec 4)) (ea ln : Nat) (m : BitVec 128) (p : BitVec 4) : List (Nat × Nat × BitVec 128 × BitVec 4) :=
  if l.any (fun x => x.1 == ea && x.2.1 == ln) then
    l.map (fun x => if x.1 == ea && x.2.1 == ln then (ea, ln, x.2.2.1 ||| m, x.2.2.2 ||| p) else x)
  else (ea, ln, m, p) :: l

/-- Sectors that one command wrote whole lose their marks where they stand (21 R431, R434). -/
def clearLine (s : State) (ea ln : Nat) (full : BitVec 4) (core : Nat) : State :=
  if full == 0#4 then s
  else
    s.modMem (fun m => { m with
      l1 := m.l1.map (fun x => if x.core == core && x.ea == ea && x.ln == ln && x.line.dirty != 0#128 then
        { x with line := { x.line with poison := x.line.poison &&& ~~~full, full := x.line.full ||| full } } else x),
      home := m.home.map (fun h => if h.ea == ea && h.ln == ln && !(m.l1.any (fun x => x.core == core && x.ea == ea && x.ln == ln && x.line.dirty != 0#128)) then
        { h with line := { h.line with poison := h.line.poison &&& ~~~full, full := h.line.full ||| full } } else h) })

/-- The sectors of n bytes at key k of a space that the command has now written whole and for the last time (21 R434). -/
def Run.lastWrites (r : Run) (space k n : Nat) : List Nat :=
  let on (l : List (Nat × Nat × Nat)) (j : Nat) : List (Nat × Nat) :=
    (l.filter (fun x => x.1 == space && (scratchSectors x.2.1 x.2.2).contains j)).map (·.2)
  (scratchSectors k n).filter (fun j => (on r.done j).length == (on r.plan j).length && (coveredSectors (on r.done j)).contains j)

/-- Bytes of a line as keys of space 0. -/
def lineKey (ea ln : Nat) : Nat := 128 * (2 ^ 50 * ea + ln)

/-- Sectors of a space lose their marks: 0 global memory, 1 the scratchpad, 2 the faceplate. -/
def Run.clear (r : Run) (space : Nat) (js : List Nat) : Run :=
  { r with s :=
      if space = 0 then js.foldl (fun s j => clearLine s (j / 4 / 2 ^ 50) (j / 4 % 2 ^ 50) (BitVec.ofNat 4 (2 ^ (j % 4))) r.cmd.core) r.s
      else if space = 1 then r.s.modTeam r.cmd.team (fun t => { t with scratchPoison := t.scratchPoison.filter (fun j => !js.contains j) })
      else r.s.modTeam r.cmd.team (fun t => { t with facePoison := t.facePoison.filter (fun j => !js.contains j) }) }

/-- The command has written n bytes at key k of a space: a sector that it writes whole loses its mark at its last write to it (21 R434). -/
def Run.noted (r : Run) (space k n : Nat) : Run :=
  let r := { r with done := (space, k, n) :: r.done }
  if r.plan.isEmpty then r else r.clear space (r.lastWrites space k n)

/-- Writes n bytes of global memory with ownership in the issuing core's L1, as a store does (R189). -/
def runWrite (r : Run) (va : DWord) (n v : Nat) : RunAns Unit :=
  runList (linePieces va n) r () (fun p r _ =>
    (runPage r p.1 { r := false, w := true, x := false }).andThen (fun r e =>
      let w := r.who
      let ea := eaOf w.asid p.1
      let inc := incOf (offOf p.1) p.2.2 (bitsOf v (8 * p.2.1) (8 * p.2.2)) 0#4 (some (r.cmd.tag r.s n))
      match l1Write r.s w (leafClass e) ea (lnOf p.1) inc with
      | .ok s _ =>
        .ok ({ r with s := s, lines := addLine r.lines ea (lnOf p.1) inc.dirty 0#4,
                      wrote := addWrote r.wrote { space := 0, row0 := 0, rows := 1, b0 := p.1.toNat % 2 ^ 57, len := p.2.2 } }.noted 0 (lineKey ea (lnOf p.1) + offOf p.1) p.2.2) ()
      | .bad s c _ => .fault { r with s := s } c p.1.toNat
      | .absent s ea pg => .absent s ea pg
      | .wait h => .wait h))

-- Faceplate and scratchpad of the issuing core (R193, 07 R157)

def faceKey (rank row b : Nat) : Nat := 1024 * (Config.faceRows * rank + row) + b
def scratchKeyOf (rank o : Nat) : Nat := 2 ^ 18 * rank + o

/-- Reads n bytes of a faceplate row. DESIGN CHOICE (log entry 57): a report of POISON gives 1,024 × row + byte. -/
def faceRead (r : Run) (row b n : Nat) : RunAns Nat :=
  let k := faceKey r.cmd.rank row b
  let t := r.team
  if !t.facePoison.isEmpty && (scratchSectors k n).any (fun j => t.facePoison.contains j) then runPoison r (1024 * row + b)
  else .ok r (bytesGet t.face k n)

/-- The 128-byte units that n bytes at a key meet (21 R438). -/
def unitsIn (f : Nat → SnapUnit) (k n : Nat) : List SnapUnit := (List.range ((k % 128 + n + 127) / 128)).map (fun j => f (k / 128 + j))

def faceWrite (r : Run) (row b n v : Nat) : RunAns Unit :=
  let k := faceKey r.cmd.rank row b
  .ok ({ r with s := touchUnits (r.s.modTeam r.cmd.team (fun t => { t with face := bytesSet t.face k n v })) r.cmd.team (unitsIn SnapUnit.face k n),
                wrote := addWrote r.wrote { space := 2, row0 := row, rows := 1, b0 := b, len := n } }.noted 2 k n) ()

/-- The bytes of the scratchpad as the command reads them: of a byte that a thread wrote since the issue, either value (R191). -/
def scratchSeen (r : Run) (k n : Nat) : Nat :=
  let now := bytesGet r.team.scratch k n
  if r.cmd.scratchOld.isEmpty then now
  else (List.range n).foldl (fun v j =>
    let d := cellGet r.cmd.scratchOld (k + j)
    if d != 0#8 && Config.raceChoice (r.s.free * 2 ^ 22 + k + j) then v ^^^ d.toNat <<< (8 * j) else v) now

def scratchRead (r : Run) (o n : Nat) : RunAns Nat :=
  let k := scratchKeyOf r.cmd.rank o
  let t := r.team
  if !t.scratchPoison.isEmpty && (scratchSectors k n).any (fun j => t.scratchPoison.contains j) then runPoison r o
  else .ok r (scratchSeen r k n)

/-- A command that has written n bytes of value v over `now` at key k knows them until it completes (R191). -/
def Cmd.noteWrite (c : Cmd) (k n v now : Nat) : Cmd :=
  { c with scratchNew := (List.range n).foldl (fun m j =>
      let x := cellGet m (k + j)
      let other := if x.getLsbD 8 then (x.extractLsb' 9 8).toNat else bitsOf now (8 * j) 8
      cellSet m (k + j) (BitVec.ofNat 17 (bitsOf v (8 * j) 8 ||| 0x100 ||| other <<< 9))) c.scratchNew }

/-- Writes the scratchpad; a byte that a thread wrote since the issue ends with either value (R191). -/
def scratchWrite (r : Run) (o n v : Nat) : RunAns Unit :=
  let k := scratchKeyOf r.cmd.rank o
  let now := bytesGet r.team.scratch k n
  let cmd := r.cmd.noteWrite k n v now
  let v := if r.cmd.scratchOld.isEmpty then v else
    (List.range n).foldl (fun v j =>
      if cellGet r.cmd.scratchOld (k + j) != 0#8 && Config.raceChoice (r.s.free * 2 ^ 22 + 2 ^ 21 + k + j) then
        v ^^^ (bitsOf v (8 * j) 8 ^^^ bitsOf now (8 * j) 8) <<< (8 * j) else v) v
  let s := touchUnits (r.s.modTeam r.cmd.team (fun t => { t with scratch := bytesSet t.scratch k n v })) r.cmd.team (unitsIn SnapUnit.scratch k n)
  let s := { s with cmds := s.cmds.map (fun c => if c.team == r.cmd.team && !c.scratchOld.isEmpty then { c with scratchOld := cellDrop c.scratchOld k n } else c) }
  .ok ({ r with s := s, cmd := { cmd with scratchOld := if cmd.scratchOld.isEmpty then cmd.scratchOld else cellDrop cmd.scratchOld k n },
                wrote := addWrote r.wrote { space := 1, row0 := 0, rows := 1, b0 := o, len := n } }.noted 1 k n) ()

/-- The end of a run, done or abandoned: SUBSTCNT, and the marks of sectors written whole. -/
def Run.settle (r : Run) : Run :=
  let s := countSubst r.s r.cmd.team r.subst.length
  let s := r.lines.foldl (fun s x => clearLine s x.1 x.2.1 (fullSectors x.2.2.1 &&& ~~~x.2.2.2) r.cmd.core) s
  let t := s.team r.cmd.team
  let cov (space : Nat) : List Nat := coveredSectors ((r.done.filter (fun x => x.1 == space)).map (·.2))
  let r := { r with s := s }
  let r := if t.facePoison.isEmpty then r else r.clear 2 (cov 2)
  let r := if t.scratchPoison.isEmpty then r else r.clear 1 (cov 1)
  let s := r.s
  { r with s := s, cmd := { r.cmd with parts := (r.wrote.reverse.map (·.part)) } }

/-- The lines a command dirtied go to their homes, for REL and before a barrier arrival (R189, 13 R309). -/
def runRelease (r : Run) : State :=
  if r.cmd.rel || r.cmd.bar.isSome then wbLines r.s (fun x => x.core == r.cmd.core && r.lines.any (fun y => y.1 == x.ea && y.2.1 == x.ln)) else r.s

/-- Chunks of n elements. -/
def chunksOf (n : Nat) (l : List Nat) : Nat → List (List Nat)
  | 0 => []
  | k + 1 => if l.isEmpty then [] else l.take n :: chunksOf n (l.drop n) k

/-- Extra cycles of the address generator for one run of elements at offsets (R196): 32 words of 4 bytes a cycle. DESIGN CHOICE (log entry 94):
the words of one run share cycles with each other alone. -/
def generatorExtra (e : Nat) (offs : List Nat) : Nat :=
  let words := offs.flatMap (fun o => (List.range ((e + 3) / 4)).map (fun j => o / 4 + j))
  (chunksOf 32 words words.length).foldl (fun a c => a + bankExtra (c.map (fun w => (4 * w, 4)))) 0

/-- BANKCONF of the issuing spindle counts the extra cycles of one run. -/
def Run.countRun (r : Run) (e : Nat) (offs : List Nat) : Run := { r with s := countBanks r.s r.cmd.sp (generatorExtra e offs) }

-- Command faults (R186)

/-- A command leaves its queue and its flag counts fall. -/
def dropCmd (s : State) (c : Cmd) : State :=
  c.charges.foldl (fun s x => discharge s x.1 x.2) { s with cmds := s.cmds.filter (fun d => d.id != c.id) }

/-- A block index with the operand that a report names above it (02 R47; 08 R200; 10 R229). DESIGN CHOICE (log entry 95): the record of 12 R298
has no operand field of its own. -/
def blockField (operand b : Nat) : Nat := b % 2 ^ 32 ||| operand <<< 32

/-- The report of a command fault to spindle i of the team (12 R298). -/
def commandReport (s : State) (team i : Nat) (snap : Snap) (cause : BitVec 8) (addr : Nat) (parts : List PartRange) (unserved : List Nat) : Report :=
  { team := team, mayKill := true,
    info := { cause := cause, kind := 2, toTeam := false, dropped := false, wlane := 0, wspidx := (s.spindle i).idx, agent := 0xFF, wteam := (s.team team).idx,
              later := 0, wpc := snap.pc, addr := BitVec.ofNat 64 addr, tissue := snap.tacc, tdetect := s.clock.ns, bmask := 0#128, acc := 0#5,
              parts := parts, unserved := unserved, snap := some snap } }

/-- A command fault: the command is abandoned, every member receives the report and the counts fall (R186). After ENGINE_FAULT the report lists
the positions that were not served (R206). -/
def commandFault (s : State) (c : Cmd) (cause : BitVec 8) (addr : Nat) : State :=
  let out := if cause == 0x0D#8 then ((c.lost ++ c.remote.map (·.1)).foldl insertNat []) else []
  let rs := ((c.sp, c.snap) :: c.others).map (fun x => commandReport s c.team x.1 x.2 cause addr c.parts out)
  let s := dropCmd s c
  evalBarriers { s with reports := s.reports ++ rs } c.team

-- Tiles (R194)

/-- A tile handle entry. -/
structure Tile where
  base : DWord
  ext : List Nat
  str : List DWord
  fmt : Nat
  lease : Nat
  hdr : Bool
  deriving DecidableEq, Repr

def tileOf (v : Nat) : Tile :=
  { base := BitVec.ofNat 64 v, ext := (List.range 4).map (fun d => bitsOf v (64 + 32 * d) 32),
    str := (List.range 4).map (fun d => BitVec.ofNat 64 (bitsOf v (192 + 64 * d) 64)), fmt := bitsOf v 448 4, lease := bitsOf v 452 3, hdr := v.testBit 455 }
def isMx (fmt : Nat) : Bool := 8 ≤ fmt
/-- Bytes of an element of a wide format, or of a block (02 R45, R48). -/
def unitBytes (fmt : Nat) : Nat :=
  match fmt with
  | 0 => 4
  | 1 => 8
  | 8 => 34
  | 9 => 26
  | 10 => 18
  | _ => 2
/-- The constraints of an entry's content. -/
def tileBad (v : Nat) : Bool :=
  let t := tileOf v
  !fmtOk (BitVec.ofNat 4 t.fmt) || bitsOf v 456 56 != 0 || (isMx t.fmt && (t.hdr || t.ext.getD 0 0 % 32 != 0 || t.str.getD 0 0#64 != 0#64))
def tileMisaligned (t : Tile) : Bool :=
  !isMx t.fmt && (t.base.toNat % unitBytes t.fmt != 0 || t.str.any (fun x => x.toNat % unitBytes t.fmt != 0))

/-- Reads the entry that a tile reference names (R187, R194). -/
def runTile (r : Run) (reg : Nat) : RunAns Tile :=
  let tab := (r.s.part r.team.part).tiletab &&& ~~~0xFFF#64
  let va := tab + BitVec.ofNat 64 (64 * bitsOf (r.cmd.s reg).toNat 0 16)
  (runRead r va 64 0 true).andThen (fun r v =>
    if tileBad v then .fault r 0x02#8 va.toNat
    else if tileMisaligned (tileOf v) then .fault r 0x08#8 (tileOf v).base.toNat
    else .ok r (tileOf v))
/-- Coordinate d of a tile reference. -/
def Cmd.coord (c : Cmd) (reg d : Nat) : Nat := (c.s (reg + 1 + d)).toNat
/-- The address of an element, or of a block when the unit index is given for an MX format; none when it is out of range. -/
def Tile.addr (t : Tile) (i0 i1 i2 i3 : Nat) : Option DWord :=
  let i := [i0, i1, i2, i3]
  if (enumFrom 0 i).any (fun x => t.ext.getD x.1 0 ≤ x.2) then none
  else
    let off := (enumFrom 0 i).foldl (fun a x => a + BitVec.ofNat 64 x.2 * t.str.getD x.1 0#64) 0#64
    some (t.base + off + (if isMx t.fmt then BitVec.ofNat 64 (i0 / 32 * unitBytes t.fmt) else 0#64))
/-- An out-of-range block (R194). -/
def emptyBlock (fmt : Nat) : Nat := (match fmt with
  | 8 => 0x01
  | 9 => 0x11
  | _ => 0x21) ||| 0x7F <<< 8

end Sys2Proof.Machine
end

