-- ==== Sys2Proof/Machine/Factor.lean ====
section
/-! DEFINITION. The factorisation instructions: LU, Cholesky, QR, triangular solve and rank-1 update of faceplate tiles
(09 R207-R225). -/

namespace Sys2Proof.Machine

open Sys2Proof

/-- What a factorisation command works on: the parts of its word and its operands (R208-R210). -/
structure Fac where
  opk : Nat
  f : Fmt
  code : Nat
  e : Nat
  n : Nat
  b : Nat
  rc : Rect
  x : Rect
  o : Nat
  s : Nat
  batch : Bool
  trap : Bool
  up : Bool
  unit : Bool
  trn : Bool
  perm : Bool
  down : Bool
  pms : Nat

def Fac.solves (c : Fac) : Bool := c.opk == 4
def facFmt (fmt : BitVec 4) : Fmt := if fmt == 1#4 then fmt64 else fmt32
def facBytes (fmt : BitVec 4) : Nat := if fmt == 1#4 then 8 else 4

/-- The work of a command; `reg` reads its registers as they stood at issue. -/
def facOf (i : Instr) (s : Nat → Word) : Option Fac :=
  let sd (r : Reg) : Rect := regionOf (s (r.toNat + 1) ++ s r.toNat)
  let base (opk : Nat) (d : Reg) (fmt : BitVec 4) (nm1 : BitVec 7) (batch : Bool) : Fac :=
    { opk := opk, f := facFmt fmt, code := fmt.toNat, e := facBytes fmt, n := nm1.toNat + 1, b := if batch then ((sd d).rows - 1) / (nm1.toNat + 1) else 1,
      rc := sd d, x := sd d, o := 0, s := 0, batch := batch, trap := false, up := false, unit := false, trn := false, perm := false, down := false, pms := 0 }
  match i with
  | .flu _ d a b fmt nm1 batch trap pms _ => some { base 1 d fmt nm1 batch with o := bitsOf (s b.toNat).toNat 0 18, s := a.toNat, trap := trap, pms := boolNat pms }
  | .fchol _ d a b fmt nm1 batch trap _ => some { base 2 d fmt nm1 batch with o := bitsOf (s b.toNat).toNat 0 18, s := a.toNat, trap := trap }
  | .fqr _ d a b fmt nm1 batch _ => some { base 3 d fmt nm1 batch with o := bitsOf (s b.toNat).toNat 0 18, s := a.toNat }
  | .ftrs _ d a fmt nm1 batch pms perm trn unit up _ =>
    some { base 4 d fmt nm1 batch with x := sd a, up := up, unit := unit, trn := trn, perm := perm, pms := boolNat pms }
  | .fupd _ d a b fmt nm1 trap down _ => some { base 5 d fmt nm1 false with x := sd b, s := a.toNat, trap := trap, down := down }
  | _ => none

/-- FLU without BATCH keeps its permutation in the header (R212). -/
def Fac.permInHeader (c : Fac) : Bool := c.opk == 1 && !c.batch
/-- Bytes of the scratchpad area of R211. -/
def Fac.area (c : Fac) : Nat :=
  match c.opk with
  | 1 => if c.batch then 16 * c.b + c.b * c.n else 0
  | 2 => if c.batch then 16 * c.b else 0
  | 3 => if c.batch then 16 * c.b + c.b * c.n * c.e else c.n * c.e
  | _ => 0

/-- The checks at issue (R209, R210). `o`: the register of the result area. -/
def facChecks (i : Instr) (o : Option Reg) (x : Option Reg) (d : Reg) (ct : CmdTail) (s : State) (sp : Spindle) (t : Team) : List (Bool × BitVec 8) :=
  match facOf i sp.getS with
  | none => []
  | some c =>
    let rows := c.rc.rows
    regionChecks t (sp.getSD d.toNat) ++
    [(if c.batch then decide (rows < 2) || (rows - 1) % c.n != 0 || decide (128 < c.b * c.n) else rows != c.n + 1, 0x02#8),
     (decide (c.rc.width < c.n * c.e) || decide (c.rc.width < 32 + (if c.permInHeader then c.n else 0)), 0x02#8)] ++
    (match x with
      | none => []
      | some r =>
        regionChecks t (sp.getSD r.toNat) ++
        [((if c.solves then c.x.rows != c.b * c.n || c.x.width % c.e != 0 else c.x.rows != 1 || decide (c.x.width < c.n * c.e)) || c.x.overlaps c.rc, 0x02#8)]) ++
    (match o with
      | none => []
      | some r => genericChecks t (sp.getS r.toNat) 8 c.area) ++
    barChecks s sp.team ct

/-- `FLU` (R217). -/
def execFlu (p : Pfx) (d a b : Reg) (fmt : BitVec 4) (nm1 : BitVec 7) (batch trap pms : Bool) (t : CmdTail) (s : State) : Host.Outcome State Fault Refusal :=
  let i : Instr := .flu p d a b fmt nm1 batch trap pms t
  plainCommand i p .matrix s (facChecks i (if batch then some b else none) none d t)

/-- `FCHOL` (R218). -/
def execFchol (p : Pfx) (d a b : Reg) (fmt : BitVec 4) (nm1 : BitVec 7) (batch trap : Bool) (t : CmdTail) (s : State) : Host.Outcome State Fault Refusal :=
  let i : Instr := .fchol p d a b fmt nm1 batch trap t
  plainCommand i p .matrix s (facChecks i (if batch then some b else none) none d t)

/-- `FQR` (R219). -/
def execFqr (p : Pfx) (d a b : Reg) (fmt : BitVec 4) (nm1 : BitVec 7) (batch : Bool) (t : CmdTail) (s : State) : Host.Outcome State Fault Refusal :=
  let i : Instr := .fqr p d a b fmt nm1 batch t
  plainCommand i p .matrix s (facChecks i (some b) none d t)

/-- `FTRS` (R220). -/
def execFtrs (p : Pfx) (d a : Reg) (fmt : BitVec 4) (nm1 : BitVec 7) (batch pms perm trn unit up : Bool) (t : CmdTail) (s : State) : Host.Outcome State Fault Refusal :=
  let i : Instr := .ftrs p d a fmt nm1 batch pms perm trn unit up t
  plainCommand i p .matrix s (facChecks i none (some a) d t)

/-- `FUPD` (R221). -/
def execFupd (p : Pfx) (d a b : Reg) (fmt : BitVec 4) (nm1 : BitVec 7) (trap down : Bool) (t : CmdTail) (s : State) : Host.Outcome State Fault Refusal :=
  let i : Instr := .fupd p d a b fmt nm1 trap down t
  plainCommand i p .matrix s (facChecks i none (some b) d t)

-- Values of the tile's format as bits (R215)

def Fac.rd (c : Fac) (v : Nat) : Num := c.f.read false v
def Fac.neg (c : Fac) (v : Nat) : Nat := v ^^^ c.f.signBit true
def Fac.fma (c : Fac) (x y z : Nat) : Nat := (c.f.fma false .rne (c.rd x) (c.rd y) (c.rd z)).1
def Fac.mul (c : Fac) (x y : Nat) : Nat := (c.f.mul false .rne (c.rd x) (c.rd y)).1
def Fac.add (c : Fac) (x y : Nat) : Nat := (c.f.add false .rne (c.rd x) (c.rd y)).1
def Fac.sub (c : Fac) (x y : Nat) : Nat := c.add x (c.neg y)
def Fac.div (c : Fac) (x y : Nat) : Nat := (c.f.div false .rne (c.rd x) (c.rd y)).1
def Fac.sqrt (c : Fac) (x : Nat) : Nat := (c.f.sqrt false .rne (c.rd x)).1
def Fac.isNan (c : Fac) (v : Nat) : Bool := (c.rd v).isNan
def Fac.isZero (c : Fac) (v : Nat) : Bool := (c.rd v).isZero
def Fac.zero (c : Fac) : Num := c.rd 0
/-- v > 0, false for a NaN. -/
def Fac.pos (c : Fac) (v : Nat) : Bool := !c.isNan v && c.zero.lt (c.rd v)
/-- v ≤ 0, false for a NaN. -/
def Fac.notAbove (c : Fac) (v : Nat) : Bool := !c.isNan v && !c.zero.lt (c.rd v)
def Num.mag : Num → Num
  | .nan s => .nan s
  | .inf _ => .inf false
  | .fin _ m e => .fin false m e
/-- `bigger` of R217. -/
def Fac.bigger (c : Fac) (x y : Nat) : Bool :=
  (c.isNan x && !c.isNan y) || (!c.isNan x && !c.isNan y && (c.rd y).mag.lt (c.rd x).mag)
/-- The FP64 maximum of magnitudes; the first NaN stays (R216). -/
def maxMag (m : Nat) (v : Num) : Nat :=
  let x := fmt64.read false m
  if x.isNan then m
  else if v.isNan then fmt64.nan
  else if x.lt v.mag then fmt64.write v.mag else m

/-- The growth estimate of R217. -/
def growth (maxa maxu : Nat) : Nat :=
  let a := fmt64.read false maxa
  let u := fmt64.read false maxu
  if a.isNan || u.isNan then fmt64.nan
  else if a.isInf || u.isInf then fmt64.infBits false
  else if u.isZero then 0
  else (fmt64.div false .ru u a).1

-- The tile and its header

/-- A tile in progress (R213, R214, R216). -/
structure TileRun where
  defect : Bool
  nan : Bool
  trapped : Bool
  nzp : Nat
  col : Nat
  tag : Nat
  maxa : Nat
  maxu : Nat
  perm : List Nat
  stopped : Bool
  deriving DecidableEq, Repr

/-- The status word (R213). -/
def TileRun.status (st : TileRun) (c : Fac) : Nat :=
  c.opk <<< 28 ||| boolNat st.defect <<< 27 ||| boolNat st.nan <<< 26 ||| boolNat st.trapped <<< 25 ||| (st.nzp % 256) <<< 16 ||| (c.n - 1) <<< 8 ||| st.col % 256

def Fac.get (c : Fac) (r : Run) (t i j : Nat) : RunAns Nat := faceRead r (c.rc.row0 + 1 + t * c.n + i) (4 * c.rc.col0 + j * c.e) c.e
def Fac.set (c : Fac) (r : Run) (t i j v : Nat) : RunAns Unit := faceWrite r (c.rc.row0 + 1 + t * c.n + i) (4 * c.rc.col0 + j * c.e) c.e v
/-- Element (i, j) of the right-hand side of tile t, or of the vector of `FUPD` with i = 0. -/
def Fac.getX (c : Fac) (r : Run) (t i j : Nat) : RunAns Nat := faceRead r (c.x.row0 + t * c.n + i) (4 * c.x.col0 + j * c.e) c.e
def Fac.setX (c : Fac) (r : Run) (t i j v : Nat) : RunAns Unit := faceWrite r (c.x.row0 + t * c.n + i) (4 * c.x.col0 + j * c.e) c.e v
/-- The header's field of n bytes at byte o (R212). -/
def Fac.head (c : Fac) (r : Run) (o n : Nat) : RunAns Nat := faceRead r c.rc.row0 (4 * c.rc.col0 + o) n
def Fac.setHead (c : Fac) (r : Run) (o n v : Nat) : RunAns Unit := faceWrite r c.rc.row0 (4 * c.rc.col0 + o) n v

/-- Loops over lo to n − 1. -/
def runFrom {α : Type} (lo n : Nat) (r : Run) (a : α) (f : Nat → Run → α → RunAns α) : RunAns α := runLoop (n - lo) r a (fun i => f (lo + i))

/-- The positions of a tile that a command takes as its own: the whole tile, or its lower triangle. -/
def Fac.covers (c : Fac) (i j : Nat) : Bool := c.opk == 1 || c.opk == 3 || j ≤ i

/-- A value gathered over the tile's own elements in the columns from `lo`. -/
def Fac.overTile {α : Type} (c : Fac) (r : Run) (t lo : Nat) (a : α) (f : Nat → Nat → Nat → α → α) : RunAns α :=
  runLoop c.n r a (fun i r a => runFrom lo c.n r a (fun j r a =>
    if c.covers i j then (c.get r t i j).andThen (fun r v => .ok r (f i j v a)) else .ok r a))

/-- `begin_tile` (R216): tag (R214) and maximum of the input, over the columns from `lo`. `FUPD` keeps the header's tag. -/
def Fac.begin (c : Fac) (r : Run) (t lo : Nat) : RunAns TileRun :=
  (if c.solves then .ok r (0, 0)
    else c.overTile r t lo (0, 0) (fun i j v a => (if c.isZero v then a.1 else a.1 + 1 + i + 128 * j, maxMag a.2 (c.rd v)))).andThen (fun r x =>
    (if c.opk = 5 then c.head r 12 4 else .ok r (c.code <<< 28 ||| (c.n - 1) <<< 21 ||| x.1 % 2 ^ 21)).andThen (fun r tag =>
      .ok r { defect := false, nan := false, trapped := false, nzp := 0, col := 0xFF, tag := tag, maxa := x.2, maxu := 0, perm := List.range c.n, stopped := false }))

/-- The start column of `FUPD`: the lowest index whose element is not zero (R221). -/
def Fac.startColumn (c : Fac) (r : Run) : RunAns Nat :=
  runLoop c.n r c.n (fun k r a => (c.getX r 0 0 k).andThen (fun r v => .ok r (if a == c.n && !c.isZero v then k else a)))

def permBytes (l : List Nat) : Nat := packBytes 1 l
def permOfBytes (n v : Nat) : List Nat := (List.range n).map (fun i => bitsOf v (8 * i) 8)

/-- The slot of tile t's permutation in a batch `FLU` (R211). -/
def Fac.permSlot (c : Fac) (t : Nat) : Nat := c.o + 16 * c.b + t * c.n

/-- Restores a tile in progress from the header (R216). -/
def Fac.restore (c : Fac) (r : Run) (t : Nat) : RunAns TileRun :=
  (c.head r 8 4).andThen (fun r st =>
    (c.head r 12 4).andThen (fun r tag =>
      (c.head r 16 8).andThen (fun r ma =>
        (c.head r 24 8).andThen (fun r mu =>
          (if c.permInHeader then c.head r 32 c.n else if c.opk = 1 then scratchRead r (c.permSlot t) c.n else .ok r (permBytes (List.range c.n))).andThen (fun r pm =>
            .ok r { defect := st.testBit 27, nan := false, trapped := false, nzp := bitsOf st 16 8, col := bitsOf st 0 8, tag := tag, maxa := ma, maxu := mu,
                    perm := permOfBytes c.n pm, stopped := false })))))

/-- Writes the header's identity and progress (R212): FLAGS with ACTIVE as given, OPK, NM1, FMT, STATUS, TAG, MAXA, MAXU and, for
`FLU` solo, PERM; TILE and STEP where they are given. -/
def Fac.writeHead (c : Fac) (r : Run) (active : Bool) (at' : Option (Nat × Nat)) (st : TileRun) : RunAns Unit :=
  (c.head r 0 1).andThen (fun r fl =>
    (c.setHead r 0 2 ((fl &&& 2) ||| boolNat active ||| c.opk <<< 8)).andThen (fun r _ =>
      (match at' with
        | some (t, k) => c.setHead r 2 2 (t ||| k <<< 8)
        | none => .ok r ()).andThen (fun r _ =>
        (c.setHead r 4 2 ((c.n - 1) ||| c.code <<< 8)).andThen (fun r _ =>
          (c.setHead r 8 24 (st.status c ||| st.tag <<< 32 ||| st.maxa <<< 64 ||| st.maxu <<< 128)).andThen (fun r _ =>
            if c.permInHeader then c.setHead r 32 c.n (permBytes st.perm) else .ok r ())))))

/-- A step, or the fault of its defect under TRAP. -/
inductive StepAns where
  | ok (r : Run) (st : TileRun)
  | defect (r : Run) (cause : BitVec 8)

def defectAt (st : TileRun) (k nzp : Nat) (stop : Bool) : TileRun :=
  { st with defect := true, nzp := nzp, col := if st.col = 0xFF then k else st.col, stopped := stop }

/-- Swaps rows k and p of a tile. -/
def Fac.swapRows (c : Fac) (r : Run) (t k p : Nat) : RunAns Unit :=
  if k = p then .ok r ()
  else runLoop c.n r () (fun j r _ =>
    (c.get r t k j).andThen (fun r x => (c.get r t p j).andThen (fun r y => (c.set r t k j y).andThen (fun r _ => c.set r t p j x))))

/-- a[i][j] := fma(−x, y, a[i][j]). -/
def Fac.update (c : Fac) (r : Run) (t i j x y : Nat) : RunAns Unit :=
  (c.get r t i j).andThen (fun r a => c.set r t i j (c.fma (c.neg x) y a))

/-- `flu_step` (R217). -/
def Fac.flu (c : Fac) (r : Run) (st : TileRun) (t k : Nat) : RunAns StepAns :=
  (c.get r t k k).andThen (fun r akk =>
    (runFrom (k + 1) c.n r (k, akk) (fun i r a => (c.get r t i k).andThen (fun r v => .ok r (if c.bigger v a.2 then (i, v) else a)))).andThen (fun r pv =>
      ((if c.isZero pv.2 then
        if c.trap then .ok r (.defect r 0x12#8) else .ok r (.ok r (defectAt st k (st.nzp + 1) false))
      else
        (c.swapRows r t k pv.1).andThen (fun r _ =>
          let perm := (st.perm.set k (st.perm.getD pv.1 0)).set pv.1 (st.perm.getD k 0)
          (runFrom (k + 1) c.n r () (fun i r _ => (c.get r t i k).andThen (fun r v => c.set r t i k (c.div v pv.2)))).andThen (fun r _ =>
            (runFrom (k + 1) c.n r () (fun j r _ =>
              (c.get r t k j).andThen (fun r y =>
                runFrom (k + 1) c.n r () (fun i r _ => (c.get r t i k).andThen (fun r x => c.update r t i j x y))))).andThen (fun r _ =>
              .ok r (.ok r { st with perm := perm }))))) : RunAns StepAns).andThen (fun r a =>
        match a with
        | .defect r x => .ok r (.defect r x)
        | .ok _ st =>
          (runFrom k c.n r st.maxu (fun j r m => (c.get r t k j).andThen (fun r v => .ok r (maxMag m (c.rd v))))).andThen (fun r m =>
            .ok r (.ok r { st with maxu := m })))))

/-- `fchol_step` (R218). -/
def Fac.chol (c : Fac) (r : Run) (st : TileRun) (t k : Nat) : RunAns StepAns :=
  (c.get r t k k).andThen (fun r d =>
    if !c.pos d then (if c.trap then .ok r (.defect r 0x13#8) else .ok r (.ok r (defectAt st k 1 true)))
    else
      let q := c.sqrt d
      (c.set r t k k q).andThen (fun r _ =>
        (runFrom (k + 1) c.n r () (fun i r _ => (c.get r t i k).andThen (fun r v => c.set r t i k (c.div v q)))).andThen (fun r _ =>
          (runFrom (k + 1) c.n r () (fun j r _ =>
            (c.get r t j k).andThen (fun r y =>
              runFrom j c.n r () (fun i r _ => (c.get r t i k).andThen (fun r x => c.update r t i j x y))))).andThen (fun r _ => .ok r (.ok r st)))))

/-- Where β_k of tile t goes (R211). -/
def Fac.betaSlot (c : Fac) (t k : Nat) : Nat := if c.batch then c.o + 16 * c.b + (t * c.n + k) * c.e else c.o + k * c.e

/-- `fqr_step` (R219). -/
def Fac.qr (c : Fac) (r : Run) (st : TileRun) (t k : Nat) : RunAns StepAns :=
  (runFrom (k + 1) c.n r 0 (fun i r s => (c.get r t i k).andThen (fun r a => .ok r (c.fma a a s)))).andThen (fun r sigma =>
    (c.get r t k k).andThen (fun r alpha =>
      (if c.isZero sigma then scratchWrite r (c.betaSlot t k) c.e 0
      else
        let mu := c.sqrt (c.fma alpha alpha sigma)
        let v0 := if c.notAbove alpha then c.sub alpha mu else c.div (c.neg sigma) (c.add alpha mu)
        let q := c.mul v0 v0
        let beta := (c.f.div false .rne (c.rd q).twice (c.rd (c.add sigma q))).1
        (scratchWrite r (c.betaSlot t k) c.e beta).andThen (fun r _ =>
          (c.set r t k k mu).andThen (fun r _ =>
            (runFrom (k + 1) c.n r () (fun i r _ => (c.get r t i k).andThen (fun r a => c.set r t i k (c.div a v0)))).andThen (fun r _ =>
              runFrom (k + 1) c.n r () (fun j r _ =>
                (c.get r t k j).andThen (fun r akj =>
                  (runFrom (k + 1) c.n r akj (fun i r w => (c.get r t i k).andThen (fun r x => (c.get r t i j).andThen (fun r y => .ok r (c.fma x y w))))).andThen (fun r w =>
                    let tau := c.mul beta w
                    (c.set r t k j (c.sub akj tau)).andThen (fun r _ =>
                      runFrom (k + 1) c.n r () (fun i r _ => (c.get r t i k).andThen (fun r x => c.update r t i j tau x)))))))))).andThen (fun r _ =>
        (c.get r t k k).andThen (fun r d => .ok r (.ok r (if c.isZero d then defectAt st k (st.nzp + 1) false else st))))))

/-- T′[i][j] (R220). -/
def Fac.tri (c : Fac) (r : Run) (t i j : Nat) : RunAns Nat := if c.trn then c.get r t j i else c.get r t i j

/-- `ftrs_step` with the permutation of step 0 (R220); `pm` is the permutation read at issue. -/
def Fac.solve (c : Fac) (r : Run) (pm : Nat → Nat) (t k : Nat) : RunAns Unit :=
  let m := c.x.width / c.e
  let lower := c.up == c.trn
  let i := if lower then k else c.n - 1 - k
  let solved := (List.range c.n).filter (fun j => if lower then j < i else i < j)
  (if c.perm && k == 0 then
    runLoop m r () (fun col r _ =>
      (runLoop c.n r [] (fun row r acc => (c.getX r t row col).andThen (fun r v => .ok r (acc ++ [v])))).andThen (fun r old =>
        runLoop c.n r () (fun row r _ => c.setX r t row col (old.getD (pm row) 0))))
  else .ok r ()).andThen (fun r _ =>
    runLoop m r () (fun col r _ =>
      (c.getX r t i col).andThen (fun r x0 =>
        (runList solved r x0 (fun j r acc => (c.tri r t i j).andThen (fun r a => (c.getX r t j col).andThen (fun r x => .ok r (c.fma (c.neg a) x acc))))).andThen (fun r acc =>
          if c.unit then c.setX r t i col acc
          else (c.tri r t i i).andThen (fun r d => c.setX r t i col (c.div acc d))))))

/-- `fupd_step` (R221). -/
def Fac.upd (c : Fac) (r : Run) (st : TileRun) (k : Nat) : RunAns StepAns :=
  (c.get r 0 k k).andThen (fun r l =>
    (c.getX r 0 0 k).andThen (fun r xk =>
      let q := c.mul xk xk
      let d := c.fma l l (if c.down then c.neg q else q)
      if !c.pos d then (if c.trap then .ok r (.defect r 0x13#8) else .ok r (.ok r (defectAt st k 1 true)))
      else
        let rt := c.sqrt d
        let cc := c.div rt l
        let s := c.div xk l
        (c.set r 0 k k rt).andThen (fun r _ =>
          (runFrom (k + 1) c.n r () (fun i r _ =>
            (c.getX r 0 0 i).andThen (fun r xi =>
              (c.get r 0 i k).andThen (fun r a =>
                let a' := c.div (c.fma (if c.down then c.neg s else s) xi a) cc
                (c.set r 0 i k a').andThen (fun r _ => c.setX r 0 0 i (c.fma (c.neg s) a' (c.mul cc xi))))))).andThen (fun r _ => .ok r (.ok r st)))))

/-- Step k of tile t. A poisoned read leaves the tile as after the step before (R225). -/
def Fac.step (c : Fac) (r : Run) (pm : Nat → Nat) (st : TileRun) (t k : Nat) : RunAns StepAns :=
  let a := match c.opk with
    | 1 => c.flu r st t k
    | 2 => c.chol r st t k
    | 3 => c.qr r st t k
    | 4 => (c.solve r pm t k).andThen (fun r _ => .ok r (.ok r st))
    | _ => c.upd r st k
  match a with
  | .fault _ cause addr => .fault r cause addr
  | a => a

/-- `mode_fault` (R222). -/
def Fac.modeFault {α : Type} (c : Fac) (r : Run) (cause : BitVec 8) (st : TileRun) (t k : Nat) : RunAns α :=
  let st := { st with defect := true, trapped := true, col := k, nzp := if c.opk = 1 then st.nzp + 1 else 1 }
  (c.writeHead r false (some (t, k)) st).andThen (fun r _ => .fault r cause (t <<< 8 ||| k))

/-- `yield_to_save` (R223): the header, and the permutation of a batch `FLU`. -/
def Fac.yieldTo (c : Fac) (r : Run) (st : TileRun) (t k : Nat) : RunAns Unit :=
  if c.solves then
    (c.head r 0 1).andThen (fun r fl => (c.setHead r 0 1 ((fl &&& 1) ||| 2)).andThen (fun r _ => c.setHead r 6 2 (t ||| k <<< 8)))
  else
    (c.writeHead r true (some (t, k)) st).andThen (fun r _ =>
      if c.opk = 1 && c.batch then scratchWrite r (c.permSlot t) c.n (permBytes st.perm) else .ok r ())

/-- The steps of a tile from step k while `left` bounds them and `budget` steps remain (none: no save is asked). Answers the
tile and, for a yield, none. -/
def Fac.steps (c : Fac) (pm : Nat → Nat) (t : Nat) : Nat → Nat → Option Nat → Run → TileRun → RunAns (TileRun × Bool × Option Nat)
  | 0, _, budget, r, st => .ok r (st, true, budget)
  | left + 1, k, budget, r, st =>
    if st.stopped then .ok r (st, true, budget)
    else if budget = some 0 then (c.yieldTo r st t k).andThen (fun r _ => .ok r (st, false, budget))
    else
      (c.step r pm st t k).andThen (fun r a =>
        match a with
        | .ok r st => c.steps pm t left (k + 1) (budget.map (· - 1)) r st
        | .defect r cause => c.modeFault r cause st t k)

/-- `end_tile` (R216): NANSEEN, the header, and the results of a batch (R211). `FUPD` does not read the columns below its start column, which its
steps leave as the lowest index whose element is not zero (R221). -/
def Fac.endTile (c : Fac) (r : Run) (st : TileRun) (t : Nat) : RunAns TileRun :=
  if c.solves then .ok r st
  else
    ((if c.opk = 5 then c.startColumn r else .ok r 0).andThen (fun r lo => c.overTile r t lo false (fun _ _ v a => a || c.isNan v))).andThen (fun r nan =>
      let g := if c.opk = 1 then growth st.maxa st.maxu else 0
      let st := { st with nan := nan || (fmt64.read false g).isNan }
      (c.writeHead r false none st).andThen (fun r _ =>
        (if c.batch then scratchWrite r (c.o + 16 * t) 16 (st.status c ||| st.tag <<< 32 ||| g <<< 64) else .ok r ()).andThen (fun r _ =>
          (if c.batch && c.opk == 1 then scratchWrite r (c.permSlot t) c.n (permBytes st.perm) else .ok r ()).andThen (fun r _ => .ok r st))))

/-- The resume test of R216: the tile and step to go on from. -/
def Fac.resumeAt (c : Fac) (r : Run) : RunAns (Option (Nat × Nat)) :=
  (c.head r 0 8).andThen (fun r h =>
    let by' (o : Nat) : Nat := bitsOf h (8 * o) 8
    .ok r (
      if c.solves then (if h.testBit 1 && by' 6 < c.b && by' 7 < c.n then some (by' 6, by' 7) else none)
      else if h.testBit 0 && by' 1 == c.opk && by' 4 == c.n - 1 && by' 5 == c.code && by' 2 < c.b && by' 3 < c.n then some (by' 2, by' 3) else none))

/-- `check_structure` (R221). -/
def Fac.checkStructure (c : Fac) (r : Run) : RunAns Unit :=
  if c.opk != 5 then .ok r ()
  else
    (c.head r 0 16).andThen (fun r h =>
      let by' (o : Nat) : Nat := bitsOf h (8 * o) 8
      let tag := bitsOf h 96 32
      if h.testBit 0 || (by' 1 != 2 && by' 1 != 5) || by' 4 != c.n - 1 || by' 5 != c.code || h.testBit (64 + 27) || tag != (r.cmd.s (c.s + 1)).toNat then
        .fault r 0x14#8 tag
      else .ok r ())

/-- Tiles from t0, step k0; answers whether the run is whole. -/
def Fac.tiles (c : Fac) (pm : Nat → Nat) : Nat → Nat → Option Nat → Option Nat → Run → TileRun → RunAns (TileRun × Bool)
  | 0, _, _, _, r, st => .ok r (st, true)
  | left + 1, t, k0, budget, r, st0 =>
    (if (k0.getD 0) = 0 then
        (if c.opk = 5 then c.startColumn r else .ok r 0).andThen (fun r k => (c.begin r t k).andThen (fun r st => .ok r (st, k)))
      else (if c.solves then .ok r st0 else c.restore r t).andThen (fun r st => .ok r (st, k0.getD 0))).andThen (fun r x =>
      (c.steps pm t (c.n - x.2) x.2 budget r x.1).andThen (fun r a =>
        if !a.2.1 then .ok r (a.1, false)
        else (c.endTile r a.1 t).andThen (fun r st => c.tiles pm left (t + 1) none a.2.2 r st)))

/-- The register results of a solo command (R211), written at completion. -/
def Fac.deliver (c : Fac) (r : Run) (st : TileRun) : Run :=
  if c.batch || c.solves then r
  else
    let base : List (Nat × Word) := [(c.s, BitVec.ofNat 32 (st.status c)), (c.s + 1, BitVec.ofNat 32 st.tag)]
    if c.opk != 1 then { r with cmd := { r.cmd with swrites := base } }
    else
      let g := growth st.maxa st.maxu
      { r with cmd := { r.cmd with swrites := base ++ [(c.s + 2, BitVec.ofNat 32 g), (c.s + 3, BitVec.ofNat 32 (g >>> 32))],
                                   pmwrite := some (c.pms, st.perm ++ (List.range (128 - c.n)).map (fun i => c.n + i)) } }

/-- A run that ends in a command fault leaves neither ACTIVE nor SACTIVE set (R224). -/
def Fac.quit {α : Type} (c : Fac) (x : RunAns α) : RunAns α :=
  match x with
  | .fault r cause addr =>
    let fl := bytesGet r.team.face (faceKey r.cmd.rank c.rc.row0 (4 * c.rc.col0)) 1
    let bit := if c.solves then 2 else 1
    if fl &&& bit = 0 then x else (c.setHead r 0 1 (fl &&& (3 - bit))).andThen (fun r _ => .fault r cause addr)
  | x => x

/-- `run()` (R216). `steps`: a context save reaches the command after that many steps; 0: none does. Answers whether the
command has ended. DESIGN CHOICE (log entry 57): a permutation entry out of range is reported with ADDR 0. -/
def runFactor (r : Run) (steps : Nat) : RunAns Bool :=
  match facOf r.cmd.instr r.cmd.s with
  | none => .ok r true
  | some c =>
    let pm (i : Nat) : Nat := r.cmd.pmEntry c.pms i
    let size := if c.solves then c.x.rows * c.x.width else c.rc.rows * c.rc.width
    let r := { r with cmd := { r.cmd with bytes := size } }
    if c.perm && (List.range c.n).any (fun i => c.n ≤ pm i) then .fault r 0x02#8 0
    else
      (c.resumeAt r).andThen (fun r at' =>
        (if at'.isSome then .ok r () else c.checkStructure r).andThen (fun r _ =>
          let t0 := (at'.map (·.1)).getD 0
          let blank : TileRun := { defect := false, nan := false, trapped := false, nzp := 0, col := 0xFF, tag := 0, maxa := 0, maxu := 0, perm := [], stopped := false }
          (c.quit (c.tiles pm (c.b - t0) t0 (at'.map (·.2)) (if steps = 0 then none else some steps) r blank)).andThen (fun r x =>
            if !x.2 then .ok r false
            else
              (if c.solves then (c.head r 0 1).andThen (fun r fl => c.setHead r 0 1 (fl &&& 1)) else .ok r ()).andThen (fun r _ => .ok (c.deliver r x.1) true))))

end Sys2Proof.Machine
end

