-- ==== Sys2Proof/Machine/Chain.lean ====
section
/-! DEFINITION. Chains: fetching every word before issue, the checks of the chain as a whole, and the faults of words
that are no instruction (03 R67, R70, R71, R76-R78, R83, R84, R463). -/

namespace Sys2Proof.Machine

open Sys2Proof

/-- One word of a chain: its address, its word or words, and the instruction that its fields name, if any. -/
structure CWord where
  pc : DWord
  w0 : Word
  w1 : Word
  op : Nat
  deriving DecidableEq, Repr

def CWord.wide (c : CWord) : Bool := xMajor c.op
def CWord.chains (c : CWord) : Bool := c.w0.getLsbD 31
/-- Words taken; an X instruction in slot 2 has no second word in its packet. -/
def CWord.len (c : CWord) : Nat := if c.wide && slotOf c.pc < 2 then 2 else 1
def CWord.instr (c : CWord) : Option Instr := parse c.w0 c.w1

/-- The pipe of a major; none for the words that use none (R79, R83). -/
def pipeOf (op : Nat) : Option Pipe :=
  if reservedOp (BitVec.ofNat 7 op) || op == 0x7F then none
  else if op ≤ 0x1F then some .a
  else if op ≤ 0x2E then some .f
  else if op ≤ 0x35 then some .s
  else if op ≤ 0x48 then some .m
  else if op ≤ 0x5D then some .b
  else if op ≤ 0x71 || op == 0x7A then some .e
  else if op == 0x73 then some .m
  else if op == 0x75 || op == 0x77 || op == 0x79 then some .a
  else some .b

/-- `NOP`: major 0x5B with D, A and B all zero, under any guard (R79). -/
def CWord.isNop (c : CWord) : Bool := c.op == 0x5B && fld c.w0 0 21 == 0#21
def CWord.pipe (c : CWord) : Option Pipe := if c.isNop then none else pipeOf c.op

/-- The cells a word reads or writes, its guard among them, and those it writes. The all-zero word faults whatever p0 holds (R83): it reads
none. -/
def CWord.cells (c : CWord) : List (Nat × Nat) :=
  let g := (fld c.w0 28 3).toNat
  (if g = 7 || c.isNop || c.w0 == 0#32 then [] else [(2, g)]) ++ (match c.instr with
    | some i => (operands i).flatMap operandCells
    | none => [])
def CWord.written (c : CWord) : List (Nat × Nat) :=
  match c.instr with
  | some i => (operands i).flatMap (fun o => if o.wr then operandCells o else [])
  | none => []

/-- The v registers that a word reads, and those that it writes. -/
def CWord.readsV (c : CWord) : List Nat :=
  match c.instr with
  | some i => (operands i).flatMap (fun o => if o.rd then operandVRegs o else [])
  | none => []
def CWord.writesV (c : CWord) : List Nat :=
  match c.instr with
  | some i => writtenRegs i
  | none => []

/-- Majors that must end their chain (R70). -/
def CWord.mustEnd (c : CWord) : Bool :=
  (decide (0x50 ≤ c.op) && decide (c.op ≤ 0x5F) && !c.isNop) || c.op == 0x3F || (decide (0x72 ≤ c.op) && decide (c.op ≤ 0x76)) || c.op == 0x78

/-- The conditions of R70 on one word and the words after it. -/
def chainBad : List CWord → Bool
  | [] => false
  | c :: rest =>
    (c.chains && decide (slotOf c.pc + c.len ≥ 3)) || (c.wide && slotOf c.pc == 2) ||
    (!rest.isEmpty && c.mustEnd) ||
    rest.any (fun d => (c.pipe.isSome && c.pipe == d.pipe) || d.cells.any (fun x => c.written.contains x)) ||
    chainBad rest

/-- What fetching a chain gives. -/
inductive ChainAns where
  | words (l : List CWord)
  | bad (cause : BitVec 8) (addr : DWord) (rights : BitVec 16)
  | absent (ea page : Nat) (addr : DWord) (rights : BitVec 16)
  | wait (host : Option Nat)
  deriving DecidableEq, Repr

/-- Fetches the chain that starts at a word, at most `n` words of its packet (R463). -/
def fetchChain (s : State) (i : Nat) : Nat → DWord → State × ChainAns
  | 0, _ => (s, .words [])
  | n + 1, pc =>
    match fetchWord s i pc with
    | (s, .bad c r) => (s, .bad c pc r)
    | (s, .absent ea pg r) => (s, .absent ea pg pc r)
    | (s, .wait h) => (s, .wait h)
    | (s, .word w0) =>
      let op := (fld w0 21 7).toNat
      let two := xMajor op && slotOf pc < 2
      match (if two then fetchWord s i (pc + 4#64) else (s, .word 0#32)) with
      | (s, .bad c r) => (s, .bad c (pc + 4#64) r)
      | (s, .absent ea pg r) => (s, .absent ea pg (pc + 4#64) r)
      | (s, .wait h) => (s, .wait h)
      | (s, .word w1) =>
        let c : CWord := { pc := pc, w0 := w0, w1 := w1, op := op }
        if c.chains && op != 0x7F && slotOf pc + c.len < 3 then
          match fetchChain s i n (pc + BitVec.ofNat 64 (4 * c.len)) with
          | (s, .words l) => (s, .words (c :: l))
          | r => r
        else (s, .words [c])

/-- The header among a chain's words that stands in slot 1 or 2 (R78, R83). -/
def badHeaderWord (l : List CWord) : Option CWord := l.find? (fun c => c.op == 0x7F && slotOf c.pc != 0)

/-- Some word of the chain charges a flag. -/
def chainCharges (l : List CWord) : Bool := l.any (fun c => c.instr.any (fun i => isFlagA i || isFlagB i))

/-- The header of the clause that the chain's operations charge; it is looked for only where the chain charges a flag (R77). -/
def chainHeader (s : State) (i : Nat) (pc : DWord) (l : List CWord) : State × Fetched × DWord :=
  if chainCharges l then clauseFlags s i pc else (s, .word 0x1FE#32, pc)

/-- Counts that the chain's flag-A and flag-B instructions would charge leave room in each flag that header h names (12 R281, 01 R17). -/
def flagRoom (sp : Spindle) (h : Word) (l : List CWord) : Bool :=
  let na := (l.filter (fun c => c.instr.any isFlagA)).length
  let nb := (l.filter (fun c => c.instr.any isFlagB)).length
  let fa := faOf h
  let fb := fbOf h
  (decide (fa > 11) || decide ((sp.flag fa).toNat + na + (if fa = fb then nb else 0) ≤ 63)) &&
    (decide (fb > 11) || decide ((sp.flag fb).toNat + nb + (if fa = fb then na else 0) ≤ 63))

/-- A word that decodes to nothing faults for `exec_lanes()`, a bad header word for every lane of the fragment (R83). -/
def undecoded (s : State) (e : DecodeError) : State :=
  let x := match e with
    | .badHeader => s.cur.lanes
    | _ => s.execLanes (pfxOf s.cur.w0)
  let n := if xMajor (fld s.cur.w0 21 7).toNat then 2 else 1
  rcvEvalAll (faultLanes (s.advance n) x 0x02#8 0#64) s.cur.sp

/-- The whole fragment faults before any word takes effect (R84 orders 1 to 3). -/
def faultFragment (s : State) (cause : BitVec 8) (addr : DWord) (rights : BitVec 16) : State :=
  rcvEvalAll ((lanesOf s.cur.lanes).foldl (fun s l => faultLane s s.cur.sp l cause addr 0#5 rights) s) s.cur.sp

/-- The whole fragment waits for a page of its fetch (R463). -/
def absentFragment (s : State) (ea page : Nat) (addr : DWord) (rights : BitVec 16) : State :=
  rcvEvalAll ((lanesOf s.cur.lanes).foldl (fun s l => absentLane s s.cur.sp l ea page addr 0#5 rights) s) s.cur.sp

/-- A fetch that cannot succeed: its cause for the whole fragment, or, for poison in a team with rollback on, the team's (R463; 21 R441). -/
def fetchFault (s : State) (cause : BitVec 8) (addr : DWord) (rights : BitVec 16) : State :=
  let sp := s.spindle s.cur.sp
  if cause == 0x10#8 && (s.team sp.team).rollb then poisonTeam s sp.team sp.idx s.cur.pc addr else faultFragment s cause addr rights

/-- The results of a command for its issuing spindle, those that `pick` selects: its s registers, its pm register, and its predicate in each
lane of the operation that has not exited (R76; 05 R122). -/
def Cmd.results (c : Cmd) (pick : Nat → Bool) (sp : Spindle) : Spindle :=
  let sp := if pick 0 then c.swrites.foldl (fun sp x => sp.setS x.1 x.2) sp else sp
  let sp := match c.pmwrite with
    | none => sp
    | some (q, l) => if pick 1 then (enumFrom 0 l).foldl (fun sp x => sp.setPm q x.1 (BitVec.ofNat 8 x.2)) sp else sp
  match c.pwrite with
  | none => sp
  | some (q, b) =>
    let m := c.lanes &&& sp.live &&& maskBy (fun l => pick (2 + l))
    sp.setPred q m (if b then m else 0#32)

/-- The results of a flag-A operation, those that `pick` selects, in the lanes that have not exited (R76; 05 R122): lane l of the first destination
in the v registers is choice l, of the second 32 + l, of a predicate 64 + l. -/
def PendingOp.results (o : PendingOp) (pick : Nat → Bool) (sp : Spindle) : Spindle :=
  let live (l : Nat) : Bool := (sp.lane l).st != .exited
  (o.pwrites.filter (fun x => pick (64 + x.2.1) && live x.2.1)).foldl (fun sp x => sp.setPred x.1 (laneBit x.2.1) (if x.2.2 then laneBit x.2.1 else 0#32))
    (sp.setVs (o.writes.filter (fun x => pick ((if o.second.contains (x.1 / 32) then 32 else 0) + x.1 % 32) && live (x.1 % 32))))

/-- Between issue and completion each destination of a flag-A or flag-B operation in each lane holds its old value or the result (R76): a free
choice makes a result visible early. -/
def earlyResults (s : State) (i : Nat) : State :=
  let s := (s.ops.filter (fun o => o.sp == i)).foldl (fun s o =>
    { s.modSp i (o.results (fun k => Config.earlyResult (s.free + k))) with free := s.free + 96 }) s
  (s.cmds.filter (fun c => c.sp == i && c.st == .ran)).foldl (fun s c =>
    { s.modSp i (c.results (fun k => Config.earlyResult (s.free + k))) with free := s.free + 34 }) s

/-- The spindle's earlier instructions have completed: f0-f11 read clear, and no lane is held by an instruction or waits (11 R266). Which instructions
that hold their lanes count is deduced (log entry 103). -/
def Spindle.workDone (sp : Spindle) : Bool :=
  sp.flagsClear && sp.lanes.all (fun y => match y.st with
    | .held _ => false
    | .waiting => false
    | _ => true)

/-- Where a chosen fragment stands: the state in which its first word executes, or the state after a fault or a wait. -/
inductive Start where
  | run (s : State) (i : Except DecodeError Instr)
  | over (s : State)

/-- The issue of fragment `lanes` of spindle i at `pc`, before its words are fetched. -/
def Issue.start (i : Nat) (lanes : LaneMask) (pc : DWord) : Issue :=
  { sp := i, lanes := lanes, pc := pc, w0 := 0#32, w1 := 0#32, chained := false, more := false, rest := [], clear := false }

/-- Prepares the issue of fragment `lanes` of spindle i at `pc`: its words are fetched, and the chain is checked whole, in the order of R84.
DESIGN CHOICE (log entry 92): a header in slot 1 or 2 that a chain flows into faults the whole fragment before the chain's first word, and
order 2 of R84 holds that header alone; the target of a transfer is checked by the transfer's own word. -/
def startFragment (s : State) (i : Nat) (lanes : LaneMask) (pc : DWord) : Start :=
  let s := { s with cur := Issue.start i lanes pc }
  match fetchChain s i 3 pc with
  | (s, .bad c a r) => .over (fetchFault s c a r)
  | (s, .absent ea pg a r) => .over (absentFragment s ea pg a r)
  | (s, .wait h) => .over (stallLanes s lanes h)
  | (s, .words l) =>
    match badHeaderWord l with
    | some c => .over (faultFragment { s with cur := { s.cur with pc := c.pc, chained := c.pc != pc } } 0x04#8 0#64 0#16)
    | none =>
      if chainBad l then .over (faultFragment s 0x03#8 0#64 0#16)
      else
        match chainHeader s i pc l with
        | (s, .absent ea pg r, a) => .over (absentFragment s ea pg a r)
        | (s, .wait h, _) => .over (stallLanes s lanes h)
        | (s, .bad _ _, _) => .over s
        | (s, .word h, _) =>
          if !flagRoom (s.spindle i) h l then .over (stallLanes s lanes none)
          else
            match l with
            | [] => .over s
            | c :: rest =>
              let s := earlyResults { s with cur := { s.cur with w0 := c.w0, w1 := c.w1, more := !rest.isEmpty, rest := rest.map (fun d => (d.w0, d.w1)), clear := (s.spindle i).workDone } } i
              .run s (decodeWords c.w0 c.w1)

/-- The address of the word that follows the issuing one. -/
def nextPc (s : State) : DWord := s.cur.pc + BitVec.ofNat 64 (4 * (if xMajor (fld s.cur.w0 21 7).toNat then 2 else 1))

/-- The next word of the chain, fetched with it, for the lanes that no earlier word stopped (R71, R463). -/
def nextWord (s : State) : Start :=
  let pc := nextPc s
  let sp := s.spindle s.cur.sp
  let lanes := s.cur.lanes &&& maskBy (fun l => (sp.lane l).st.isEligible && (sp.lane l).pc == pc)
  match s.cur.rest with
  | [] => .over { s with cur := { s.cur with more := false } }
  | (w0, w1) :: rest =>
    if lanes == 0#32 then .over { s with cur := { s.cur with more := false, rest := [] } }
    else
      .run { s.modLanes s.cur.sp lanes (fun _ y => { y with chained := true }) with cur := { s.cur with lanes := lanes, pc := pc, w0 := w0, w1 := w1, chained := true, more := !rest.isEmpty, rest := rest } } (decodeWords w0 w1)

end Sys2Proof.Machine
end

