-- ==== Sys2Proof/Machine/Arena.lean ====
section
/-! DEFINITION. The chunks of a team's register arena, and the copies that a rollback interval's snapshot takes in them (01 R35; 17 R356;
21 R438). -/

namespace Sys2Proof.Machine

open Sys2Proof

-- Chunks of the register arena (01 R35, 17 R356)

/-- Units of 64 KiB that n bytes take. -/
def arenaUnits (n : Nat) : Nat := (n + 65535) / 65536
/-- W of R157 for C cores. -/
def shareOfCores (scratch c : Nat) : Nat := (scratch + 128 * c - 1) / (128 * c) * 128
/-- C for the layout of the arena. -/
def LaunchRec.arenaCores (r : LaunchRec) : Nat := if r.cores = 0 then 8 else r.cores
/-- The units of the areas before the chunk area: context record, scratchpad, faceplate and machine save areas. -/
def LaunchRec.areas (r : LaunchRec) : List Nat :=
  let c := r.arenaCores
  [1, arenaUnits (if r.cores = 0 then r.scratch + 1024 else c * shareOfCores r.scratch c), arenaUnits (c * r.tiles * 1024), arenaUnits (c * 524288)]
/-- First chunk of the chunk area, and the end of the arena as the launch record lays it out. -/
def LaunchRec.chunkFirst (r : LaunchRec) : Nat := 32 * r.areas.foldl (· + ·) 0
def LaunchRec.chunkEnd (r : LaunchRec) : Nat := 32 * r.rasize

/-- The n lowest chunks from `cur` that are not in use. -/
def lowestChunks (used : List Nat) (stop : Nat) : Nat → Nat → Nat → List Nat
  | 0, _, _ => []
  | fuel + 1, cur, n =>
    if n = 0 || stop ≤ cur then []
    else if used.contains cur then lowestChunks used stop fuel (cur + 1) n
    else cur :: lowestChunks used stop fuel (cur + 1) (n - 1)
/-- The end of the arena that REGARENA gives: its SIZE, none for 0 (01 R32). -/
def Team.chunkEnd (t : Team) : Nat := 32 * bitsOf t.regarena.toNat 0 16
/-- Takes n chunks of a team's arena, all or none. -/
def takeChunks (s : State) (t n : Nat) : Option (State × List Nat) :=
  let used := (s.team t).chunks
  let l := lowestChunks used (s.team t).chunkEnd (n + used.length) (s.launchRec t).chunkFirst n
  if l.length = n then some (s.modTeam t (fun x => { x with chunks := l.foldl insertNat x.chunks }), l) else none
/-- Returns chunks to the arena. -/
def freeChunks (s : State) (t : Nat) (l : List Nat) : State := s.modTeam t (fun x => { x with chunks := x.chunks.filter (fun c => !l.contains c) })

-- Copies of the interval's snapshot (21 R438, R440)

/-- The keys at which two lists of cells differ. -/
def cellsDiffer {w : Nat} (a b : Cells w) : List Nat :=
  if a == b then [] else ((a.filter (fun c => !b.contains c)) ++ b.filter (fun c => !a.contains c)).map (·.1)

/-- The lines of a spindle's image that differ from those of its snapshot: uniform lines, then vector lines. -/
def imageChanges (s : State) (i : Nat) (old : Spindle) : List SnapUnit :=
  let now := s.spindle i
  if now == old then []
  else
    let was := uniformLines (s.modSp i (fun _ => old)) i
    let uni := (enumFrom 0 (was.zip (uniformLines s i))).filterMap (fun x => if x.2.1 == x.2.2 then none else some (SnapUnit.image i x.1))
    uni ++ ((cellsDiffer old.v now.v).map (fun k => SnapUnit.image i (16 + k / 32)) ++
      (cellsDiffer old.vpoison now.vpoison).map (fun r => SnapUnit.image i (16 + r)))

/-- The units that team t has written since its interval opened. -/
def changedUnits (s : State) (t : Nat) (sn : Snapshot) : List SnapUnit :=
  let x := s.team t
  sn.spindles.flatMap (fun p => imageChanges s p.1 p.2) ++
    (cellsDiffer sn.scratch x.scratch).map (fun k => .scratch (k / 128)) ++
    (cellsDiffer sn.face x.face).map (fun k => .face (k / 128))

/-- The copies of the units that team t's open interval has newly written take their chunks, 16 units each; where no chunk is free the interval
becomes ineligible (R438, R440; log entry 32). -/
def copyUnits (s : State) (t : Nat) : State :=
  match (s.team t).snap with
  | none => s
  | some sn =>
    if (s.team t).ineligible then s
    else
      let units := (changedUnits s t sn).foldl (fun l u => if l.contains u then l else u :: l) sn.units
      match takeChunks s t ((units.length + 15) / 16 - sn.chunks.length) with
      | none => s.ineligible t
      | some (s, l) => s.modTeam t (fun x => { x with snap := some { sn with units := units, chunks := sn.chunks ++ l } })

end Sys2Proof.Machine
end

