-- ==== Sys2Proof/Machine/Sched.lean ====
section
/-! DEFINITION. Room in the register cache, the passing of a cycle, and which fragment may issue next (00 R8; 12 R279-R290). -/

namespace Sys2Proof.Machine

open Sys2Proof

/-- One cycle of the arithmetic clock passes; device time follows at the clock's rate (00 R8, 22 R457). -/
def Clock.tick (c : Clock) : Clock :=
  let f := c.frac + 1000 * Config.nsParts / max 1 c.mhz
  { c with cycle := c.cycle + 1, ns := c.ns + f / Config.nsParts, frac := f % Config.nsParts }

/-- A launch that charges its partition's deadline account (22 R449). -/
def Launch.charges (l : Launch) : Bool :=
  l.info.dlcontrib != 0 && (match l.st with
    | .complete => false
    | _ => true)
/-- DEADLINE_USED of each partition that does not stand frozen rises with device time while a launch charges it (22 R449,
R452). -/
def chargeDeadlines (s : State) (ns : Nat) : List Partition :=
  (enumFrom 0 s.parts).map (fun x =>
    if !x.2.halted && s.launches.any (fun l => l.part == x.1 && l.charges) then { x.2 with used := x.2.used + ns } else x.2)

-- Room in the register cache (12 R287-R290)

/-- The lines of spindle i that operations under way, or a `WAITC` whose lane waits, will write: they are pinned (R289). -/
def pinnedRegs (s : State) (i : Nat) : List Nat :=
  (s.spindle i).lanes.foldl (fun acc y =>
      match y.st, y.monitor with
      | .waiting, some m => if m.w64 then insertNat (insertNat acc m.dest) (m.dest + 1) else insertNat acc m.dest
      | _, _ => acc)
    ((s.ops.filter (fun o => o.sp == i)).foldl (fun acc o => o.writes.foldl (fun acc w => insertNat acc (w.1 / 32)) acc) [])

/-- The line is gathered for a chain that some lane still stands at (R288). -/
def gatheredNow (s : State) (x : RegLine) : Bool :=
  x.gathered.any (fun pc => (s.spindle x.sp).lanes.any (fun y => y.st.canIssue && y.pc == pc))

/-- The line that leaves a core's register cache next: of a spindle without a slot, clean lines first, else the least recently used line of a
resident spindle that is neither pinned nor gathered (R290). -/
def rcVictim (s : State) (core : Nat) : Option RegLine :=
  let mine := s.rcache.filter (fun x => x.core == core)
  let away := mine.filter (fun x => (s.spindle x.sp).st != .resident)
  match away.find? (fun x => !x.dirty), away with
  | some x, _ => some x
  | none, x :: _ => some x
  | none, [] => mine.find? (fun x => !gatheredNow s x && !(pinnedRegs s x.sp).contains x.reg)

/-- A line leaves the register cache; a dirty one is written back to its image first (R290). -/
def rcEvict (s : State) (x : RegLine) : Got Unit :=
  let gone (s : State) : State := { s with rcache := s.rcache.filter (fun y => !(y.sp == x.sp && y.reg == x.reg)) }
  if !x.dirty then .ok (gone s) ()
  else
    match devWriteLine s (s.who x.sp) (s.vectorVa x.sp x.reg) (vectorLine (s.spindle x.sp) x.reg) (cellGet (s.spindle x.sp).vpoison x.reg) with
    | .ok s _ => .ok (gone s) ()
    | .bad s _ _ => .ok (gone s) ()
    | r => r

/-- Makes room for `n` further lines in a core's register cache. -/
def rcRoom (s : State) (core n : Nat) : Got Unit :=
  let excess := (s.rcache.filter (fun x => x.core == core)).length + n - Config.vectorLines
  (List.range excess).foldl (fun r _ =>
    match r with
    | .ok s _ =>
      match rcVictim s core with
      | some x => rcEvict s x
      | none => .wait none
    | r => r) (.ok s ())

-- The passing of a cycle

/-- No team has a slot or a dormant spindle on the core any more (21 R446). -/
def coreFree (s : State) (c : Nat) : Bool :=
  !s.spindles.any (fun sp => sp.core == c && (sp.st == .resident || (sp.st == .dormant && (s.team sp.team).st.holds)))

/-- The core under scan still holds a team at this time (21 R446; log entry 101). -/
def Scan.pass (s : State) (x : Scan) : Scan :=
  if x.core.any (fun c => !coreFree s c) then { x with held := s.clock.ns } else x

/-- Lanes that were not ready are looked at again (12 R281). -/
def LaneSt.again : LaneSt → LaneSt
  | .stalled => .eligible
  | st => st

/-- What the device brings in order as a cycle passes: its own writes and page requests that waited (18 R392; 19 R413), caches that hold more
lines than they have (00 R1; 12 R290; 18 R389), and the copies of open rollback intervals (21 R438). -/
def settleCycle (s : State) : State :=
  let s := if s.mem.puts.isEmpty then s else retryPuts s
  let s := if s.mem.reqs.all (fun q => q.queued) then s else drainReqs s
  let s := ((enumFrom 0 s.teams).filter (fun x => x.2.snap.isSome)).foldl (fun s x => copyUnits s x.1) s
  if s.mem.rights.length ≤ Config.rightsEntries then s else s.modMem (fun m => { m with rights := withinRoom Config.rightsEntries m.rights })

/-- The issue and engine cycles of the cycle that ends, by core and team (22 R455). -/
def meterCycle (s : State) : Meter :=
  let issued := s.picks.map (fun p => ((s.spindle p.sp).core, (s.spindle p.sp).team))
  let engines := (s.cmds.filter (fun c => c.st == .started && !c.saved && c.engine != .distributor)).map (fun c => (c.core, c.team))
  { s.meter with cycles := (issued ++ engines).foldl (fun l k =>
      if l.any (fun x => x.1 == k) then l.map (fun x => if x.1 == k then (k, x.2 + 1) else x) else l ++ [(k, 1)]) s.meter.cycles }

/-- A cycle passes: device time and the deadline accounts go on, and the picks of the next cycle begin. -/
def tickState (s : State) : State :=
  let s := settleCycle s
  { s with
    clock := s.clock.tick,
    scan := Scan.pass s s.scan,
    meter := meterCycle s,
    parts := chargeDeadlines s (s.clock.tick.ns - s.clock.ns),
    picks := [], ports := [], turn := (s.turn + 1) % (Config.coreCount * Config.quadrants),
    spindles := s.spindles.map (fun sp => { sp with lanes := sp.lanes.map (fun l => { l with st := l.st.again }) }) }

-- Fragments (12 R279-R282)

/-- The fragment of lane l's PC, with its stamp (12 R279, R280). -/
def fragmentOf (sp : Spindle) (el : LaneMask) (l : Nat) : LaneMask × Nat :=
  let pc := (sp.lane l).pc
  let m := el &&& maskBy (fun k => (sp.lane k).pc == pc)
  (m, (lanesOf m).foldl (fun acc k => min acc (sp.lane k).stamp) (sp.lane l).stamp)

/-- A spindle's fragments, each with its stamp: those with the least stamp first, the one with the lowest lane on a tie (12 R282). -/
def fragmentsOf (sp : Spindle) : List (LaneMask × Nat) :=
  let el := sp.lanesIn LaneSt.canIssue
  sortBy (fun f => f.2) ((lanesOf el).foldl (fun acc l => if acc.any (fun f => f.1.getLsbD l) then acc else acc ++ [fragmentOf sp el l]) [])

/-- The fragment has not been found wanting in this cycle, and it does not stand at a header with a flag to wait for. -/
def Spindle.untried (sp : Spindle) (m : LaneMask) : Bool :=
  (lanesOf m).any (fun l => (sp.lane l).st.isEligible) && (lanesOf m).all (fun l => (sp.lane l).st != .stalled)

/-- The least-stamp fragment that may be ready (12 R282). -/
def bestFragment (sp : Spindle) : Option (LaneMask × DWord) :=
  ((fragmentsOf sp).find? (fun f => sp.untried f.1)).map (fun f => (f.1, (sp.lane (lowestLane f.1)).pc))

-- Picks (12 R283-R285)

/-- The quadrant of a spindle, counted over the device. -/
def Spindle.quadrant (sp : Spindle) : Nat := sp.core * Config.quadrants + sp.quad

/-- Some bank delivers more than two of the lines (12 R285). -/
def banksOver (banks : List Nat) : Bool := (List.range 8).any (fun b => decide (2 < banks.count b))

/-- The picks of a quadrant in this cycle. -/
def picksOf (s : State) (q : Nat) : List Pick := s.picks.filter (fun x => (s.spindle x.sp).quadrant == q)

/-- The quadrant may pick: once, or twice when its first pick's reads leave the banks free (12 R284, R285). -/
def mayPick (s : State) (q : Nat) : Bool :=
  decide ((cellGet s.quiet q).toNat ≤ s.clock.cycle) &&
    (match picksOf s q with
      | [] => true
      | [x] => !banksOver x.banks
      | _ => false)

/-- A spindle that may issue: it holds a slot, its team runs, no delivery of a trap has stopped it, and it has not issued in this cycle. -/
def canIssue (s : State) (sp : Spindle) : Bool :=
  sp.st == .resident && (s.team sp.team).st == .running && !sp.stopped && (bestFragment sp).isSome

/-- The next spindle: of the quadrants that may still pick the next in turn, the oldest (12 R283, R284). -/
def pickSpindle (s : State) : Option Nat :=
  let n := Config.coreCount * Config.quadrants
  let key (sp : Spindle) : Nat := (sp.quadrant + n - s.turn % n) % n
  let c := (enumFrom 0 s.spindles).filter (fun x => canIssue s x.2 && mayPick s x.2.quadrant && s.picks.all (fun p => p.sp != x.1))
  match c with
  | [] => none
  | x :: r =>
    some (r.foldl (fun b y =>
      if key y.2 < key b.2 || (key y.2 == key b.2 && y.2.age < b.2.age) then y else b) x).1

/-- Ages across quadrants: by the cycle of the last change, then by quadrant; within a quadrant by age (12 R283). -/
def Spindle.older (a b : Spindle) : Bool :=
  if a.quadrant == b.quadrant then a.age < b.age else a.aged < b.aged || (a.aged == b.aged && a.quadrant < b.quadrant)

-- The timers of spawn bins (11 R253; 12 R294)

/-- SPAWNTIMER in cycles; 0 to 63 act as 64 (01 R24). -/
def binTimer (t : Team) : Nat := max 64 (bitsOf t.spawntimer.toNat 0 16)
/-- The cycle in which the bin's timer reaches SPAWNTIMER. -/
def Bin.dueAt (b : Bin) (t : Team) : Nat := b.start + (binTimer t - b.elapsed)
/-- The timer has reached it, and the bin is not marked ready yet. -/
def Bin.isDue (b : Bin) (s : State) : Bool :=
  b.ready.isNone && !b.saved && !b.threads.isEmpty && decide (b.dueAt (s.team b.team) ≤ s.clock.cycle) && (s.team b.team).st == .running
/-- A write of SPAWNTIMER: bins whose timers had reached the old value are ready since then, and bins whose timers reach only
the new one since now. -/
def setSpawnTimer (s : State) (t : Nat) (w : Word) : State :=
  let x := s.team t
  let u := { x with spawntimer := w }
  let mark (b : Bin) : Bin :=
    if b.team != t then b
    else if b.isDue s then { b with ready := some (b.dueAt x) }
    else if b.ready.isNone && !b.saved && !b.threads.isEmpty && decide (b.dueAt u ≤ s.clock.cycle) then { b with ready := some s.clock.cycle }
    else b
  { s with bins := s.bins.map mark }.modTeam t (fun _ => u)

end Sys2Proof.Machine
end

