-- ==== Sys2Proof/Machine/Gather.lean ====
section
/-! DEFINITION. The fabric gather unit: rows gathered from and scattered to this device and others, and the rows that
other devices ask for and send (08 R204-R206; 13 R320; 19 R417-R419; 21 R436). -/

namespace Sys2Proof.Machine

open Sys2Proof

/-- A gather descriptor (R204). -/
structure Gather where
  base : DWord
  rowBytes : Nat
  lease : Nat
  shardRows : Nat
  devBase : Nat
  nShards : Nat
  deriving DecidableEq, Repr

def gatherOf (v : Nat) : Gather :=
  { base := BitVec.ofNat 64 v, rowBytes := bitsOf v 64 32, lease := bitsOf v 96 3, shardRows := bitsOf v 128 64, devBase := bitsOf v 192 18, nShards := bitsOf v 224 32 }
/-- The rules of the descriptor's content. -/
def gatherBad (v : Nat) : Bool :=
  let g := gatherOf v
  g.base.toNat % 16 != 0 || decide (g.rowBytes < 16) || decide (8192 < g.rowBytes) || g.rowBytes % 16 != 0 || bitsOf v 99 29 != 0 || g.shardRows == 0 ||
    bitsOf v 210 14 != 0 || g.nShards == 0 || decide (2 ^ 18 < g.nShards)

/-- Where row x lies: the device and the address, none when it is out of range. -/
def Gather.place (g : Gather) (x : Nat) : Option (Nat × DWord) :=
  let sh := x / g.shardRows
  if x = 2 ^ 64 - 1 || g.nShards ≤ sh || 2 ^ 18 ≤ g.devBase + sh then none
  else some (g.devBase + sh, g.base + BitVec.ofNat 64 (x % g.shardRows * g.rowBytes))

/-- A route to another device: its table entry has a port that is up, and no fence holds it (19 R417, R419). -/
def routed (s : State) (dev : Nat) : Bool :=
  let e := paRead s (baseOf s.adeol.lroute + 2 * dev) 2
  !s.deadDevices.contains dev && (List.range 16).any (fun p => e.testBit p && (cellGet s.adeol.lport p).getLsbD 63)

/-- The checks of `GATHF` and `SCATF` at issue (R205). That a whole row fits is known once the descriptor is (`runGather`). PRESUMED of the words that the manual gives no unit: the row is laid out
in 4-byte elements. -/
def gatherChecks (s : State) (sp : Spindle) (t : Team) (loc desc list : Reg) (face : Bool) (ct : CmdTail) : List (Bool × BitVec 8) :=
  let n := (sp.getS (list.toNat + 1)).toNat
  let w := layoutWord (sp.getS loc.toNat) (sp.getS (loc.toNat + 1)) (sp.getS (loc.toNat + 2))
  let lay := layoutOf w
  [(decide (4096 < n), 0x02#8), ((sp.getSD desc.toNat).toNat % 32 != 0, 0x02#8)] ++ genericChecks t (sp.getS list.toNat) 8 (8 * n) ++
    (if face then regionChecks t (sp.getSD loc.toNat) ++ [(decide ((regionOf (sp.getSD loc.toNat)).rows < n), 0x02#8)]
     else (lay.s0 != 0 || lay.s2 != 0, 0x02#8) :: layoutChecks w 4 t.share 1 n 1) ++ barChecks s sp.team ct

/-- `GATHF` (R205). -/
def execGathf (p : Pfx) (d a b : Reg) (lk : Bool) (t : CmdTail) (s : State) : Host.Outcome State Fault Refusal :=
  plainCommand (.gathf p d a b lk t) p .gather s (fun s sp tm => gatherChecks s sp tm d a b lk t)

/-- `SCATF` (R205). -/
def execScatf (p : Pfx) (d a b : Reg) (lk : Bool) (rop : BitVec 3) (t : CmdTail) (s : State) : Host.Outcome State Fault Refusal :=
  plainCommand (.scatf p d a b lk rop t) p .gather s (fun s sp tm => gatherChecks s sp tm d a b lk t)

/-- The descriptor, read when the command starts (R187), with the checks that its values complete. -/
def runGather (r : Run) (d a b : Reg) (face : Bool) : RunAns Gather :=
  let va := r.cmd.sd a.toNat
  let n := (r.cmd.s (b.toNat + 1)).toNat
  (runRead r va 32 0 true).andThen (fun r v =>
    let g := gatherOf v
    let lay := r.cmd.layout d
    let r := { r with cmd := { r.cmd with bytes := n * g.rowBytes, lease := g.lease } }
    if gatherBad v || (face && decide ((r.cmd.region d).width < g.rowBytes)) then .fault r 0x02#8 va.toNat
    else if !face && n != 0 && [0, n - 1].any (fun p => decide (lay.plain 0 p 0 < 0) || decide ((r.team.share : Int) < lay.plain 0 p 0 + g.rowBytes)) then .fault r 0x09#8 0
    else .ok r g)

/-- The index list (R205). -/
def runIndices (r : Run) (b : Reg) : RunAns (List Nat) :=
  runLoop (r.cmd.s (b.toNat + 1)).toNat r [] (fun p r acc =>
    (scratchRead r ((r.cmd.s b.toNat).toNat + 8 * p) 8).andThen (fun r v => .ok r (acc ++ [v])))

/-- The offset of word x of the row at list position p, after permutation (R196). -/
def rowWord (lay : Layout) (p x : Nat) : Nat :=
  let o := (lay.plain 0 p 0).toNat + 4 * x
  if lay.mode = 0 then o else o ^^^ (4 * (p % 2 ^ lay.mode))

/-- BANKCONF for the row at list position p. -/
def countRow (r : Run) (d : Reg) (face : Bool) (p n : Nat) : Run :=
  if face then r else r.countRun 4 ((List.range (n / 4)).map (rowWord (r.cmd.layout d) p))

/-- Writes a row of n bytes at list position p. -/
def runPutRow (r : Run) (d : Reg) (face : Bool) (p n v : Nat) : RunAns Unit :=
  if face then
    let rc := r.cmd.region d
    faceWrite r (rc.row0 + p) (4 * rc.col0) n v
  else runLoop (n / 4) (countRow r d face p n) () (fun x r _ => scratchWrite r (rowWord (r.cmd.layout d) p x) 4 (bitsOf v (32 * x) 32))

/-- Reads the row at list position p without consuming its marks: the bytes, and the 4-byte words that lie in a marked
sector (21 R432, R436). -/
def rowSource (r : Run) (d : Reg) (face : Bool) (p n : Nat) : Nat × List Nat :=
  let t := r.team
  let one (x : Nat) : Nat × Bool :=
    if face then
      let rc := r.cmd.region d
      let k := faceKey r.cmd.rank (rc.row0 + p) (4 * rc.col0 + 4 * x)
      (bytesGet t.face k 4, t.facePoison.contains (k / 32))
    else
      let k := scratchKeyOf r.cmd.rank (rowWord (r.cmd.layout d) p x)
      (scratchSeen r k 4, t.scratchPoison.contains (k / 32))
  (List.range (n / 4)).foldl (fun a x =>
    let y := one x
    (a.1 ||| y.1 <<< (32 * x), if y.2 then a.2 ++ [x] else a.2)) (0, [])

/-- One element of a reduction (R205). -/
def reduceElem (rop : Nat) (o b : Nat) : Nat :=
  match rop with
  | 1 => (o + b) % 2 ^ 32
  | 2 => (fmt32.add false .rne (fmt32.read false o) (fmt32.read false b)).1
  | 3 => (fmt32.minmax true (fmt32.read false o) (fmt32.read false b)).1
  | _ => b

/-- The sectors of a line that receive a byte of a marked word: words `bad` of a row, whose word k0 is the first of the n
bytes that fall at offset o of the line. -/
def forwardMarks (bad : List Nat) (k0 o n : Nat) : BitVec 4 :=
  bad.foldl (fun m k => if k0 ≤ k && k < k0 + n / 4 then m ||| sectorMask (o + 4 * (k - k0)) 4 else m) 0#4

/-- Stores or reduces n bytes of a row in one line at its home (R206, 21 R436), for agent w. Marks that the row forwards are noted in the error
ring (21 R430, R445). -/
def applyRow (s : State) (w : Option Who) (ea : Nat) (va : DWord) (rop n v : Nat) (mark : BitVec 4) (tag : Option Tag) (kind : Nat) : Got Unit :=
  let o := offOf va
  let need := byteMask o n
  let noted (s : State) : State :=
    if mark == 0#4 then s else errRecord s 1 10 (homeDie s ea (lnOf va) <<< 8 ||| sliceOf ea (lnOf va)) mark.toNat (vaOfLn (lnOf va)) 0 0 0 0
  (if rop = 0 then homeWrite s w ea (lnOf va) { incOf o n v (fullSectors need) tag with poison := mark }
  else
    let g := match w with
      | some w => homeRead s w ea (lnOf va) need kind
      | none => (match homeGet s none ea (lnOf va) kind false with
        | .ok s h => if need &&& ~~~h.line.valid != 0#128 then .absent (postReq s ea (pageOf va) kind) ea (pageOf va) else .ok s h
        | r => r)
    match g with
    | .ok s h =>
      let v' := (List.range (n / 4)).foldl (fun a x =>
        a ||| reduceElem rop (lineBytesGet h.line.data (o + 4 * x) 4) (bitsOf v (32 * x) 32) <<< (32 * x)) 0
      homeWrite s w ea (lnOf va) { incOf o n v' 0#4 tag with poison := mark }
    | .bad s c x => .bad s c x
    | .absent s ea pg => .absent s ea pg
    | .wait h => .wait h).andThen (fun s _ => .ok (noted s) ())

/-- Stores or reduces a row of this device. -/
def runApply (r : Run) (va : DWord) (rop n v : Nat) (bad : List Nat) : RunAns Unit :=
  runList (linePieces va n) r () (fun p r _ =>
    (runPage r p.1 { r := rop != 0, w := true, x := false }).andThen (fun r e =>
      let w := r.who
      let ea := eaOf w.asid p.1
      let mark := forwardMarks bad (p.2.1 / 4) (offOf p.1) p.2.2
      let s := if leafClass e != 1 && r.team.rollb then r.s.ineligible r.cmd.team else r.s
      match applyRow s (some w) ea p.1 rop p.2.2 (bitsOf v (8 * p.2.1) (8 * p.2.2)) mark (some (r.cmd.tag s (if rop = 0 then n else 4))) 5 with
      | .ok s _ =>
        .ok { r with s := s, lines := if rop = 0 then addLine r.lines ea (lnOf p.1) (byteMask (offOf p.1) p.2.2) mark else r.lines,
                     wrote := addWrote r.wrote { space := 0, row0 := 0, rows := 1, b0 := p.1.toNat % 2 ^ 57, len := p.2.2 } } ()
      | .bad s c _ => .fault { r with s := s } c p.1.toNat
      | .absent s ea pg => .absent s ea pg
      | .wait h => .wait h))

/-- A position that its owner does not serve (R206; 19 R419). -/
def loseRow (r : Run) (p : Nat) : RunAns Unit := .ok { r with cmd := { r.cmd with lost := insertNat r.cmd.lost p } } ()

/-- The access to a row of this device, whose position is lost with a fenced die (R206). -/
def rowHere (p : Nat) (x : RunAns Unit) : RunAns Unit :=
  match x with
  | .fault r c a => if c == 0x0D#8 then loseRow r p else .fault r c a
  | x => x

/-- A position owed by another device: its message leaves, or the device cannot be reached (19 R417, R418). -/
def runRemote (r : Run) (dev p : Nat) (va : DWord) (msg : Reply) : RunAns Unit :=
  if routed r.s dev then
    .ok { r with s := { r.s with hostReplies := r.s.hostReplies ++ [msg] },
                 cmd := { r.cmd with asked := if r.cmd.remote.isEmpty then r.s.clock.ns else r.cmd.asked, remote := r.cmd.remote ++ [(p, dev)], rowVas := r.cmd.rowVas ++ [(p, va)] } } ()
  else loseRow r p

/-- ENGINE_FAULT once every other position is served, at the first of those that are not (R206). -/
def runLost (r : Run) : RunAns Unit := if r.cmd.lost.isEmpty then .ok r () else .fault r 0x0D#8 (r.cmd.lost.headD 0)

/-- A row of another device from the copies that the slices of this die hold of it, while each lives (01 R31; 13 R307). -/
def remoteRow (s : State) (die dev asid : Nat) (va : DWord) (n : Nat) : Option Nat :=
  (linePieces va n).foldl (fun v p => v.bind (fun v =>
    let ea := eaOf (BitVec.ofNat 14 asid) p.1
    (s.mem.remote.find? (fun x => x.die == die && x.dev == dev && x.ea == ea && x.ln == lnOf p.1)).bind (fun x =>
      if x.til.all (fun t => decide (s.clock.ns < t)) && byteMask (offOf p.1) p.2.2 &&& ~~~x.valid == 0#128 then
        some (v ||| lineBytesGet x.data (offOf p.1) p.2.2 <<< (8 * p.2.1)) else none))) (some 0)

/-- The copies that an answered row leaves in the slices of this die, for the lease class of its descriptor (R204; 01 R31). DESIGN CHOICE (log
entry 97): which die and slice. -/
def remoteKeep (s : State) (die dev asid cls : Nat) (va : DWord) (n v : Nat) : State :=
  if cls = 0 || leaseLen s.leaseL2 cls == some 0 then s
  else
    (linePieces va n).foldl (fun s p =>
      remotePut s { die := die, dev := dev, ea := eaOf (BitVec.ofNat 14 asid) p.1, ln := lnOf p.1,
                    data := lineBytesSet 0#1024 (offOf p.1) p.2.2 (bitsOf v (8 * p.2.1) (8 * p.2.2)), valid := byteMask (offOf p.1) p.2.2, poison := 0#4,
                    til := (leaseLen s.leaseL2 cls).map (s.clock.ns + ·) }) s

def runGathf (r : Run) (d a b : Reg) (face : Bool) : RunAns Unit :=
  (runGather r d a b face).andThen (fun r g =>
    (runIndices r b).andThen (fun r xs =>
      (runList (enumFrom 0 xs) r () (fun x r _ =>
        match g.place x.2 with
        | none => runPutRow r d face x.1 g.rowBytes 0
        | some (dev, va) =>
          if dev = r.s.devnum.toNat then
            rowHere x.1 ((runRead r va g.rowBytes g.lease false).andThen (fun r v => runPutRow r d face x.1 g.rowBytes v))
          else
            match remoteRow r.s (dieOfCore r.cmd.core) dev r.who.asid.toNat va g.rowBytes with
            | some v => runPutRow r d face x.1 g.rowBytes v
            | none => runRemote r dev x.1 va (.ask dev r.who.asid.toNat va.toNat g.rowBytes r.cmd.id x.1))).andThen (fun r _ => runLost r)))

def runScatf (r : Run) (d a b : Reg) (face : Bool) (rop : BitVec 3) : RunAns Unit :=
  (runGather r d a b face).andThen (fun r g =>
    (runIndices r b).andThen (fun r xs =>
      (runList (enumFrom 0 xs) r () (fun x r _ =>
        match g.place x.2 with
        | none => .ok r ()
        | some (dev, va) =>
          let r := countRow r d face x.1 g.rowBytes
          let src := rowSource r d face x.1 g.rowBytes
          if dev = r.s.devnum.toNat then rowHere x.1 (runApply r va rop.toNat g.rowBytes src.1 src.2)
          else
            let r := if r.team.rollb then { r with s := r.s.ineligible r.cmd.team } else r
            let marks := src.2.foldl (fun m k => m ||| 2 ^ (k / 8)) 0
            runRemote r dev x.1 va (.send dev r.who.asid.toNat va.toNat rop.toNat g.rowBytes src.1 marks r.cmd.id x.1))).andThen (fun r _ => runLost r)))

-- Messages of other devices (R204, R206; 13 R320)

/-- What another device's row access meets here, in this device's page table under the ASID that came with it (R204; 13 R308). A malformed entry is
requested as KIND 7 (18 R388, R392). -/
def fabricCheck (s : State) (ea : Nat) (va : DWord) (write : Bool) : Got DWord :=
  if !canonical va then .bad s 0x09#8 0#16
  else
    match agentLeaf s ea (lnOf va) with
    | (.leaf e _, _) =>
      if (if write then !leafW e || sealedPage s.mem ea (pageOf va) else !leafR e) then .bad s 0x09#8 0#16
      else if write && (leafLock e || moving s ea (pageOf va)) then .wait none
      else .ok s e
    | (.malformed, _) => .bad (postReq s ea (pageOf va) 7) 0x0B#8 0#16
    | (.badRoot, _) => .bad (postReq s ea (pageOf va) 7) 0x09#8 0#16
    | _ => .bad s 0x09#8 0#16

/-- The event comes again a cycle later. -/
def requeue (s : State) (e : Instr) : State := tickState { s with agenda := s.agenda ++ [e] }

/-- An event of the fabric that its home answers, is refused, or waits for. -/
def fabricEnd {α : Type} (g : Got α) (e : Instr) (tag : Nat) (s0 : State) (done : State → α → State) : Host.Outcome State Fault Refusal :=
  match g with
  | .ok s v => .next (done s v)
  | .bad s c _ => .next { s with hostReplies := s.hostReplies ++ [.acknowledgement tag c.toNat] }
  | .absent s _ _ => .next (requeue s e)
  | .wait h => .next (requeue (s0.askBack h) e)

/-- The marks of the bytes [o, o + n) of a line, one bit for each 32 bytes of a row that has them from byte k (21 R431). -/
def rowMarks (x : Line) (o n k : Nat) : Nat :=
  (List.range (n / 4)).foldl (fun acc i => if x.poison.getLsbD ((o + 4 * i) / 32) then acc ||| 2 ^ ((k + 4 * i) / 32) else acc) 0

/-- The memory sectors that a row from address va meets, from its first on, with marks in the piece at p of line x (21 R431). -/
def sectorMarks (va p : DWord) (x : Line) (n : Nat) : Nat :=
  (List.range 4).foldl (fun acc i =>
    if (marksHit x (byteMask (offOf p) n)).getLsbD i then acc ||| 2 ^ ((p.toNat / 128 * 128 + 32 * i) / 32 - va.toNat / 32) else acc) 0

/-- FABRIC_GATHER_REQUEST: a row of this device is read at its homes under the issuer's ASID, for another device; the answer
leaves under its tag, or the cause of a refusal. Above the row's bytes stand the marks of its 32-byte parts that lie on pages that are not error-tolerant;
the marked sectors of error-tolerant pages go beside it, as zeros are what the issuer reads there (21 R433). -/
def execFabricGatherRequest (asid va size tag : Nat) (s : State) : Host.Outcome State Fault Refusal :=
  let e : Instr := .fabricGatherRequest asid va size tag
  let a := BitVec.ofNat 64 va
  let r := (linePieces a size).foldl (fun (r : Got (Nat × Nat)) p =>
    match r with
    | .ok s acc =>
      let ea := eaOf (BitVec.ofNat 14 asid) p.1
      (fabricCheck s ea p.1 false).andThen (fun s e =>
        match homeGet s none ea (lnOf p.1) 8 false with
        | .ok s h =>
          if byteMask (offOf p.1) p.2.2 &&& ~~~h.line.valid != 0#128 then .absent (postReq s ea (pageOf p.1) 8) ea (pageOf p.1)
          else
            let bytes := lineBytesGet h.line.data (offOf p.1) p.2.2 <<< (8 * p.2.1)
            if leafET e then .ok s (acc.1 ||| bytes, acc.2 ||| sectorMarks a p.1 h.line p.2.2)
            else .ok s (acc.1 ||| bytes ||| rowMarks h.line (offOf p.1) p.2.2 p.2.1 <<< (8 * size), acc.2)
        | .bad s c x => .bad s c x
        | .absent s ea pg => .absent s ea pg
        | .wait h => .wait h)
    | r => r) (.ok s (0, 0))
  fabricEnd r e tag s (fun s v => { s with hostReplies := s.hostReplies ++ [.row tag v.1 v.2] })

/-- FABRIC_SCATTER_WRITE: a row from another device is stored or reduced at its homes, with its marks (21 R436); the release
that follows finds every byte at home (13 R320), and the acknowledgement leaves under its tag. -/
def execFabricScatterWrite (asid va : Nat) (rop : BitVec 3) (head : RowHead) (data : Nat) (poison : BitVec 256) (s : State) : Host.Outcome State Fault Refusal :=
  let e : Instr := .fabricScatterWrite asid va rop head data poison
  let a := BitVec.ofNat 64 va
  let bad := (List.range (head.size / 4)).filter (fun k => poison.getLsbD (k / 8))
  let r := (linePieces a head.size).foldl (fun (r : Got Unit) p =>
    match r with
    | .ok s _ =>
      let ea := eaOf (BitVec.ofNat 14 asid) p.1
      (fabricCheck s ea p.1 true).andThen (fun s _ =>
        applyRow s none ea p.1 rop.toNat p.2.2 (bitsOf data (8 * p.2.1) (8 * p.2.2)) (forwardMarks bad (p.2.1 / 4) (offOf p.1) p.2.2) none 8)
    | r => r) (.ok s ())
  fabricEnd r e head.tag s (fun s _ => { s with hostReplies := s.hostReplies ++ [.acknowledgement head.tag 0] })

/-- A row of n bytes from address va with zeros in the memory sectors js that it meets. -/
def zeroSectors (va : DWord) (n : Nat) (js : List Nat) (v : Nat) : Nat :=
  (List.range n).foldl (fun a k => if js.contains ((va.toNat % 32 + k) / 32) then a else a ||| bitsOf v (8 * k) 8 <<< (8 * k)) 0

/-- FABRIC_ACKNOWLEDGEMENT: the owner of list position `pos` of a command answers, with the row for a `GATHF`, or with the cause for which its
page table refuses the row (R204, R206). A `GATHF` consumes the row's marks: its marked sectors of error-tolerant pages are zeros and count in SUBSTCNT, another
mark is a command fault at its place (21 R433, R435, R441). -/
def onFabricAcknowledgement (id pos : Nat) (answer : RowAnswer) (poison : BitVec 256) (s : State) : Option State :=
  match s.cmds.find? (fun c => c.id == id && c.remote.any (fun x => x.1 == pos)) with
  | none => none
  | some c =>
    let c' := { c with remote := c.remote.filter (fun x => x.1 != pos) }
    let put (c : Cmd) (s : State) : State := { s with cmds := s.cmds.map (fun x => if x.id == id then c else x) }
    let va := ((c.rowVas.find? (fun x => x.1 == pos)).map (·.2)).getD 0#64
    let dev := ((c.remote.find? (fun x => x.1 == pos)).map (·.2)).getD 0
    match answer, c.instr with
    | .refused cause, _ => some (commandFault s c cause va.toNat)
    | .row data tolerant, .gathf _ d _ b lk _ =>
      let n := (c.s (b.toNat + 1)).toNat
      let size := if n = 0 then 0 else c.bytes / n
      let at' := va + BitVec.ofNat 64 (32 * (((List.range 256).find? (fun k => poison.getLsbD k)).getD 0))
      if poison != 0#256 then
        some (if (s.team c.team).rollb then poisonTeam s c.team c.snap.spidx c.snap.pc at' else commandFault s c 0x10#8 at'.toNat)
      else
        let zeros := (List.range (size / 32 + 1)).filter (fun j => tolerant.testBit j)
        let s := countSubst s c.team zeros.length
        let data := zeroSectors va size zeros data
        match runPutRow (Run.init s c') d lk pos size data with
        | .ok r _ =>
          let r := r.settle
          let s := put { r.cmd with parts := c.parts ++ r.cmd.parts, written := if r.cmd.remote.isEmpty then [] else r.done } r.s
          some (if zeros.isEmpty then remoteKeep s (dieOfCore c.core) dev (s.teamWho c.team).asid.toNat c.lease va size data else s)
        | _ => some (put c' s)
    | .row _ _, _ => some (put c' s)

/-- `onFabricAcknowledgement`, where the state brings it about. -/
def execFabricAcknowledgement (id pos : Nat) (answer : RowAnswer) (poison : BitVec 256) (s : State) : Host.Outcome State Fault Refusal := happens s (onFabricAcknowledgement id pos answer poison s)

end Sys2Proof.Machine
end

