-- ==== Sys2Proof/Machine/Control.lean ====
section
/-! DEFINITION. Clause headers, the words that are no instruction, control transfers, exit, reconvergence barriers,
yield, sleep and the software trap (03 R73, R74, R83; 05 R118-R126; 11 R275; 14 R336-R339). -/

namespace Sys2Proof.Machine

open Sys2Proof

/-- Every flag named in WAIT reads clear (R74). -/
def waitClear (sp : Spindle) (wait : BitVec 12) : Bool :=
  (List.range 12).all (fun n => !wait.getLsbD n || sp.flag n == 0#6)

/-- A clause header (R73, R74): the fragment passes it, its spindle as the youngest of its quadrant under YH, or stops there until
the flags named in WAIT are clear. It takes no issue cycle: the lanes keep their stamps (12 R280). -/
def execClauseHeader (wait : BitVec 12) (fa fb : BitVec 4) (yh : Bool) (s : State) : Host.Outcome State Fault Refusal :=
  let _ := fa
  let _ := fb
  if waitClear (s.spindle s.cur.sp) wait then
    let s := s.modLanes s.cur.sp s.cur.lanes (fun _ y => { y with st := .eligible, pc := s.cur.pc + 4#64 })
    .next (if yh then youngest s s.cur.sp else s)
  else .next (s.modLanes s.cur.sp s.cur.lanes (fun _ y => { y with st := .header, pc := s.cur.pc }))

/-- A reserved major (R83): ILLEGAL_OPCODE in the executing lanes. -/
def execReservedMajor (p : Pfx) (op : BitVec 7) (rest : BitVec 21) (s : State) : Host.Outcome State Fault Refusal :=
  issue (.reservedMajor p op rest) p 1 s (fun _ _ => .bad 0x01#8 0#64)

/-- The all-zero word (R83): ZERO_WORD in every lane of the fragment. -/
def execZeroWord (s : State) : Host.Outcome State Fault Refusal := .next (faultFragment s 0x05#8 0#64 0#16)

/-- A control transfer: each taking lane's target is checked before its PC changes; a call then writes its return
address (R118-R120). -/
def transfer (i : Instr) (p : Pfx) (s : State) (target : Spindle → Nat → DWord) (link : Option Reg) : Host.Outcome State Fault Refusal :=
  issue i p 1 s (fun x s =>
    let old := s.spindle s.cur.sp
    overLanesE x s (fun l s =>
      let t := target old l
      match checkTarget s s.cur.sp t with
      | (s, .good) =>
        let s := s.modLane s.cur.sp l (fun y => { y with pc := t })
        .done (match link with
          | some d => s.modSp s.cur.sp (fun sp => sp.setD d.toNat l (packetOf s.cur.pc + 12#64))
          | none => s)
      | (s, .bad c r) => laneFault s l c t 0#5 r
      | (s, .absent ea pg r) => .done (absentLane s s.cur.sp l ea pg t 0#5 r)
      | (_, .wait h) => .stall h))

/-- `BRA` (R119). -/
def execBra (p : Pfx) (off : BitVec 21) (s : State) : Host.Outcome State Fault Refusal :=
  transfer (.bra p off) p s (fun _ _ => targetOf s.cur.pc off) none

/-- `BRX` (R119). -/
def execBrx (p : Pfx) (a : Reg) (s : State) : Host.Outcome State Fault Refusal :=
  transfer (.brx p a) p s (fun sp l => sp.getD a.toNat l) none

/-- `CALL` (R120): the return address goes into d14. -/
def execCall (p : Pfx) (off : BitVec 21) (s : State) : Host.Outcome State Fault Refusal :=
  transfer (.call p off) p s (fun _ _ => targetOf s.cur.pc off) (some 14#7)

/-- `CALLX` (R120). -/
def execCallx (p : Pfx) (d a : Reg) (s : State) : Host.Outcome State Fault Refusal :=
  transfer (.callx p d a) p s (fun sp l => sp.getD a.toNat l) (some d)

/-- `RET` (R120). -/
def execRet (p : Pfx) (a : Reg) (s : State) : Host.Outcome State Fault Refusal :=
  transfer (.ret p a) p s (fun sp l => sp.getD a.toNat l) none

-- Exit (R122, R336, R338, R339)

/-- A thread ends: it leaves the live mask (R122). -/
def exitLane (s : State) (i l : Nat) : State :=
  let s := s.modLane i l (fun y =>
    { y with st := .exited, pc := s.cur.pc, tx := false, txn := none, restart := false, serial := false, record := none, monitor := none, rel := none })
  { s with tokens := s.tokens.filter (fun k => !(k.sp == i && k.lane == l)) }

/-- NEXT of a domain word, read at its home (R336), with the marked sectors that read as zero on an error-tolerant page. Elsewhere a marked sector
is POISON (21 R432, R433). DESIGN CHOICE (log entry 116): the read is an engine's. -/
def domainNext (s : State) (i : Nat) (va : DWord) : Got (Word × BitVec 4) :=
  let w := s.who i
  let ea := eaOf w.asid va
  let need := byteMask (offOf va) 8
  match homeRead s w ea (lnOf va) need 1 with
  | .ok s h =>
    let hit := marksHit h.line need
    if hit != 0#4 && !lineET s ea (lnOf va) then .bad s 0x10#8 0#16
    else .ok s (BitVec.ofNat 32 (lineBytesGet (zeroMarked h.line hit) (offOf va) 4), hit)
  | .bad s c r => .bad s c r
  | .absent s ea pg => .absent s ea pg
  | .wait h => .wait h

/-- s is behind NEXT (R336). -/
def behind (seq next : Word) : Bool := decide (2 ^ 31 ≤ (seq - next).toNat)

/-- Discards a transaction without status and faults the lane at its word (R336, R338); poison is the rollback's, where the team has one (21 R441). -/
def refuseOrdered (s : State) (i l : Nat) (cause : BitVec 8) (addr : DWord) (rights : BitVec 16) : State :=
  if rollsBack s cause then poisonTeam s (s.spindle i).team (s.spindle i).idx s.cur.pc addr
  else faultLane (s.modLane i l (fun y => { y with tx := false, txn := none })) i l cause addr 0#5 rights

/-- An ordered thread reaches its commit point: it waits for its token (R336, R338). -/
def orderedExit (s : State) (i l : Nat) : Eff :=
  let va := (s.spindle i).domain
  match domainFault s i with
  | (s, some r) => .done (refuseOrdered s i l 0x0A#8 va r)
  | (s, none) =>
    match domainNext s i va with
    | .ok s (next, hit) =>
      let s := if hit == 0#4 then s else s.modTeam (s.spindle i).team (fun t => { t with substcnt := satAdd t.substcnt 1 })
      if behind (s.lane i l).seq next then .done (refuseOrdered s i l 0x02#8 0#64 0#16)
      else .done (askToken (s.modLane i l (fun y => { y with st := .held .token, pc := s.cur.pc })) i l)
    | .bad s c r => if rollsBack s c then .poison va else .done (refuseOrdered s i l c va r)
    | .absent s ea pg => .done (absentLane s i l ea pg va 0#5 0#16)
    | .wait h => .stall h

/-- The tag of a write that a lane's commit makes: the lane, with the PC and the issue of its `TXE` or `EXIT` (R331; 18 R396). -/
def commitTag (s : State) (i l sz : Nat) : Tag :=
  { team := (s.teamOf i).idx, idx := (s.spindle i).idx, lane := l, pc := (s.lane i l).pc.setWidth 32, time := (s.lane i l).issued, size := sz, atomic := false }

/-- The write of NEXT that follows lane l: its number plus one (R338, R339). -/
def nextInc (s : State) (i l : Nat) : Line :=
  incOf (offOf (s.spindle i).domain) 4 ((s.lane i l).seq + 1#32).toNat 0#4 (some (commitTag s i l 2))

/-- A domain has committed: its other requests have waited only since now (R340). -/
def domainMoved (s : State) (ea : Nat) (va : DWord) : State :=
  { s with tokens := s.tokens.map (fun k => if k.ea == ea && k.va == va then { k with since := s.clock.ns } else k) }

/-- NEXT of lane l's domain becomes its number plus one (R339), a write that its page must allow (07 R148, R174). -/
def bumpNext (s : State) (i l : Nat) : Got Unit :=
  let w := s.who i
  let va := (s.spindle i).domain
  let ea := eaOf w.asid va
  (checkAccess s w va 8 { r := false, w := true, x := false } false).andThen (fun s _ =>
    (homeWrite (ineligibleWrite s w ea (lnOf va)) (some w) ea (lnOf va) (nextInc s i l)).andThen (fun s _ => .ok (domainMoved s ea va) ()))

/-- A serial ordered thread ends: `FENCE.REL.dev`, then NEXT rises (R339). -/
def serialExit (s : State) (i l : Nat) : Eff :=
  let va := (s.spindle i).domain
  match bumpNext ((coreRelease s (s.who i).core).modLane i l (fun y => { y with pc := s.cur.pc })) i l with
  | .ok s _ => .done (exitLane s i l)
  | .bad s c r => .done (faultLane s i l c va 0#5 r)
  | .absent s ea pg => .done (absentLane s i l ea pg va 0#5 0#16)
  | .wait h => .stall h

/-- One lane's `EXIT` (R122): a plain thread ends; an ordered thread is at its commit point. DEDUCED (log entry 93): an ordered thread whose
transaction R336 or R338 discarded, and which is not serial, ends at a reissued `EXIT` as a plain one. -/
def exitOne (l : Nat) (s : State) : Eff :=
  let y := s.lane s.cur.sp l
  if y.spec && y.tx then orderedExit s s.cur.sp l
  else if y.spec && y.serial then serialExit s s.cur.sp l
  else .done (exitLane s s.cur.sp l)

/-- `EXIT` (R122): in handler context it kills the team (11 R273). -/
def execExit (p : Pfx) (s : State) : Host.Outcome State Fault Refusal :=
  issue (.exit p) p 1 s (fun x s =>
    let i := s.cur.sp
    match (s.spindle i).trapped with
    | some t =>
      .done (killTeam s (s.spindle i).team
        { KillRep.plain (t.cause.setWidth 8) 3 with lmask := t.lmask, spidx := (s.spindle i).idx, pc := s.cur.pc })
    | none =>
      match overLanesE x s exitOne with
      | .done s => .done (evalBarriers s (s.spindle i).team)
      | r => r)

-- Reconvergence barriers (R124, R125)

/-- `RCVB` (R124): the executing lanes become the participants. -/
def execRcvb (p : Pfx) (d : Reg) (parkok : Bool) (s : State) : Host.Outcome State Fault Refusal :=
  issue (.rcvb p d parkok) p 1 s (fun x s =>
    let n := d.toNat
    let s := s.modSp s.cur.sp (fun sp =>
      { sp with
        wpart := cellSet sp.wpart n x, warr := cellSet sp.warr n (sp.lanesIn (fun st => st == .held (.rcvw n))),
        wpark := (sp.wpark &&& ~~~(BitVec.ofNat 8 (2 ^ n))) ||| (if parkok then BitVec.ofNat 8 (2 ^ n) else 0#8) })
    .done (rcvEval s s.cur.sp n))

/-- `RCVW` (R124): participants arrive and are held until the barrier releases. -/
def execRcvw (p : Pfx) (d : Reg) (s : State) : Host.Outcome State Fault Refusal :=
  issue (.rcvw p d) p 1 s (fun x s =>
    let n := d.toNat
    let m := x &&& (s.spindle s.cur.sp).wParticipants n
    let s := s.modLanes s.cur.sp m (fun _ y => { y with st := .held (.rcvw n), pc := s.cur.pc })
    let s := s.modSp s.cur.sp (fun sp => { sp with warr := cellSet sp.warr n (sp.wArrived n ||| m) })
    .done (rcvEval s s.cur.sp n))

-- Yield, sleep, the empty word and the software trap (R79, R126, R275)

/-- `NOP` (R79): no effect; its guard is ignored. -/
def execNop (p : Pfx) (s : State) : Host.Outcome State Fault Refusal :=
  let _ := p
  .next (s.advance 1)

/-- `YIELD` (R126): the spindle becomes the youngest of its quadrant. -/
def execYield (p : Pfx) (s : State) : Host.Outcome State Fault Refusal :=
  issue (.yield p) p 1 s (fun _ s => .done (youngest s s.cur.sp))

/-- `SLEEP n` (R126): not ready for the n cycles after this one. -/
def execSleep (p : Pfx) (n : BitVec 14) (s : State) : Host.Outcome State Fault Refusal :=
  issue (.sleep p n) p 1 s (fun x s =>
    .done (if n == 0#14 then s else s.modLanes s.cur.sp x (fun _ y => { y with st := .sleeping (s.clock.cycle + n.toNat + 1) })))

/-- `TRAP n` (R275): SOFTWARE in the executing lanes, with n recorded. -/
def execTrap (p : Pfx) (n : BitVec 7) (s : State) : Host.Outcome State Fault Refusal :=
  issue (.trap p n) p 1 s (fun x s =>
    .done ((faultLanes s x 0x18#8 0#64).modLanes s.cur.sp x (fun _ y => { y with tcode := n })))

/-- `ERET` (R274): PRIVILEGED in user mode; RESERVED_FIELD outside handler context; else the return from the trap, once the
handler's flags read clear (DESIGN CHOICE, log entry 29: the manual gives no order). Behind words of its own chain that charge a flag it ends the
chain and issues again from its own word. -/
def execEret (p : Pfx) (s : State) : Host.Outcome State Fault Refusal :=
  let sp := s.spindle s.cur.sp
  if s.cur.chained && sp.inHandler && !sp.flagsClear && s.execLanes p != 0#32 then .next s
  else
    issue (.eret p) p 1 s (fun _ s =>
      let sp := s.spindle s.cur.sp
      if !sp.inHandler then .bad 0x02#8 0#64
      else if sp.flagsClear then returnTrap s s.cur.sp
      else .stall none)

end Sys2Proof.Machine
end

