-- ==== Sys2Proof/Machine/System.lean ====
section
/-! DEFINITION. System registers, clocks, and the chunks that a spindle takes and returns (01 R23-R35; 11 R263-R266;
12 R296; 17 R356). -/

namespace Sys2Proof.Machine

open Sys2Proof

-- System registers (01 R23-R34)

/-- The value of a system register as lane l of spindle i reads it. -/
def sysRead (s : State) (i l num : Nat) : DWord :=
  let sp := s.spindle i
  let t := s.teamOf i
  let p := s.partOf i
  let ln := sp.lane l
  match num with
  | 0x00 => ln.tstat.setWidth 64
  | 0x01 => BitVec.ofNat 64 (boolNat sp.ftz)
  | 0x02 => ln.fpflags.setWidth 64
  | 0x03 => sp.srseed.setWidth 64
  | 0x04 => s.ident i l
  | 0x08 => p.trapvec
  | 0x09 => p.tframe
  | 0x0A => ln.tcause.setWidth 64
  | 0x0C => sp.txctl.setWidth 64
  | 0x10 => t.spawntimer.setWidth 64
  | 0x11 => t.regarena
  | 0x12 => p.tiletab
  | 0x13 => p.bindtab
  | 0x14 => (s.launchOf (s.spindle i).team).grouptab
  | 0x15 => sp.gang
  | 0x16 => t.spawnarena
  | 0x18 => sp.bankconf.setWidth 64
  | 0x19 => t.substcnt.setWidth 64
  | 0x1A => t.metaskip.setWidth 64
  | 0x20 => s.leaseL1
  | 0x21 => s.leaseL2
  | 0x28 => p.deadline
  | 0x29 => BitVec.ofNat 64 p.used
  | 0x2A => BitVec.ofInt 64 p.energyres
  | 0x2B => BitVec.ofNat 64 t.energyused
  | 0x30 => BitVec.ofNat 64 s.clock.ns
  | 0x31 => BitVec.ofNat 64 (s.coreCycle sp.core)
  | 0x32 => p.asid.setWidth 64
  | 0x33 => t.prio.setWidth 64
  | 0x34 => BitVec.ofNat 64 (s.devnum.toNat <<< 32 ||| p.pnum.toNat)
  | _ => 0#64

/-- A write of SRSEED reseeds every lane (02 R54). -/
def Spindle.reseed (sp : Spindle) (x : Word) : Spindle :=
  { sp with srseed := x, lanes := (enumFrom 0 sp.lanes).map (fun y => { y.2 with rng := srSeed x y.1 }) }

/-- Writes a register that is not per thread (01 R24, R25; 22 R450). -/
def sysWrite (s : State) (i num : Nat) (x : DWord) : State :=
  let w : Word := x.setWidth 32
  let sp (f : Spindle → Spindle) : State := s.modSp i f
  let tm (f : Team → Team) : State := s.modTeam (s.spindle i).team f
  let pt (f : Partition → Partition) : State := s.modPart (s.teamOf i).part f
  match num with
  | 0x01 => sp (fun y => { y with ftz := x.getLsbD 0 })
  | 0x03 => sp (fun y => y.reseed w)
  | 0x08 => pt (fun y => { y with trapvec := x })
  | 0x09 => pt (fun y => { y with tframe := x })
  | 0x0C => sp (fun y => { y with txctl := x.setWidth 12 })
  | 0x10 => setSpawnTimer s (s.spindle i).team w
  | 0x11 => tm (fun y => { y with regarena := x })
  | 0x12 => pt (fun y => { y with tiletab := x })
  | 0x13 => pt (fun y => { y with bindtab := x })
  | 0x14 => s.modLaunch (s.teamOf i).launch (fun y => { y with grouptab := x })
  | 0x15 => sp (fun y => { y with gang := x })
  | 0x16 => tm (fun y => { y with spawnarena := x })
  | 0x18 => sp (fun y => { y with bankconf := w })
  | 0x19 => tm (fun y => { y with substcnt := w })
  | 0x1A => tm (fun y => { y with metaskip := w })
  | 0x20 => { s with leaseL1 := x }
  | 0x21 => { s with leaseL2 := x }
  | 0x28 => pt (fun y => { y with deadline := x, used := 0 })
  | 0x33 => tm (fun y => { y with prio := x.setWidth 4 })
  | _ => s

/-- Writes a per-thread register of lane l (01 R29, R24 TCAUSE). -/
def sysWriteLane (s : State) (i l num : Nat) (x : DWord) : State :=
  match num with
  | 0x02 => s.modLane i l (fun y => { y with fpflags := x.setWidth 6 })
  | 0x0A => s.modLane i l (fun y => { y with tcause := x.setWidth 9 })
  | _ => s

/-- Partition and device scope (01 R24): a write makes the writer's interval ineligible (21 R440). -/
def sysDevice (num : Nat) : Bool := num == 0x20 || num == 0x21 || num == 0x28

/-- `MFS` (R265). -/
def execMfs (p : Pfx) (d : Reg) (uni w64 : Bool) (num : BitVec 8) (s : State) : Host.Outcome State Fault Refusal :=
  issue (.mfs p d uni w64 num) p 1 s (fun x s =>
    let i := s.cur.sp
    if uni then
      let v := sysRead s i (lowestLane x) num.toNat
      .done (s.modSp i (fun sp => if w64 then sp.setSD d.toNat v else sp.setS d.toNat (v.setWidth 32)))
    else .done (s.modSp i (fun sp => (lanesOf x).foldl (fun sp l => sp.setVD w64 d.toNat l (sysRead s i l num.toNat)) sp)))

/-- `MTS` (R265). A lane's value with a reserved bit has faulted before (`laneValueBad`). -/
def execMts (p : Pfx) (d : Reg) (uni w64 : Bool) (num : BitVec 8) (s : State) : Host.Outcome State Fault Refusal :=
  issue (.mts p d uni w64 num) p 1 s (fun x s =>
    let i := s.cur.sp
    let sp := s.spindle i
    if uni then
      let v := if w64 then sp.getSD d.toNat else (sp.getS d.toNat).setWidth 64
      if sysBad num.toNat v then .bad 0x02#8 0#64
      else .done (sysWrite (if sysDevice num.toNat && (s.teamOf i).rollb then s.ineligible sp.team else s) i num.toNat v)
    else
      .done ((lanesOf x).foldl (fun s l =>
        sysWriteLane s i l num.toNat (sp.getVD w64 d.toNat l)) s))

/-- A clock is read, under W once the spindle's earlier work had completed when the chain issued (R266; 03 R71). -/
def clock (i : Instr) (p : Pfx) (d : Reg) (w : Bool) (num : Nat) (s : State) : Host.Outcome State Fault Refusal :=
  issue i p 1 s (fun _ s =>
    if w && !s.cur.clear then .stall none
    else .done (s.modSp s.cur.sp (fun sp => sp.setSD d.toNat (sysRead s s.cur.sp 0 num))))

/-- `CLK.TIME` (R266). -/
def execClkTime (p : Pfx) (d : Reg) (w : Bool) (s : State) : Host.Outcome State Fault Refusal := clock (.clkTime p d w) p d w 0x30 s

/-- `CLK.CYCLE` (R266). -/
def execClkCycle (p : Pfx) (d : Reg) (w : Bool) (s : State) : Host.Outcome State Fault Refusal := clock (.clkCycle p d w) p d w 0x31 s

-- REGGROW and REGSHRINK (R263, R264; 12 R296)

def Hold.isGrow : Hold → Bool
  | .reggrow .. => true
  | _ => false
/-- The requests of a kind that lanes of the spindle are held in: identity, predicate and chunks. -/
def Spindle.requests (sp : Spindle) (grow : Bool) : List (Nat × Nat × Nat) :=
  sp.lanes.foldl (fun acc y =>
    let add (x : Nat × Nat × Nat) : List (Nat × Nat × Nat) := if acc.contains x then acc else insertBy (·.1) x acc
    match y.st with
    | .held (.reggrow pd n id) => if grow then add (id, pd, n) else acc
    | .held (.regshrink n id) => if grow then acc else add (id, 7, n)
    | _ => acc) []
/-- The lanes of the spindle's earliest blocked `REGGROW`, with its predicate and chunks. -/
def Spindle.growLanes (sp : Spindle) : LaneMask × Nat × Nat :=
  match sp.requests true with
  | (id, pd, n) :: _ => (sp.lanesIn (· == .held (.reggrow pd n id)), pd, n)
  | [] => (0#32, 7, 0)
/-- The identity of the spindle's earliest blocked `REGGROW`. -/
def Spindle.growId (sp : Spindle) : Option Nat := (sp.requests true).head?.map (·.1)
/-- The team's first request that lanes are still held in (R264); those of a spindle whose handler runs wait with it. -/
def growFirst (s : State) (t : Nat) : Option Nat :=
  (s.team t).growq.find? (fun id => s.spindles.any (fun sp => sp.team == t && (growIds sp.progLanes).contains id))
/-- Chunks that the spindle's blocked `REGGROW`s ask for, and that its waiting `REGSHRINK`s will return. -/
def Spindle.growPending (sp : Spindle) : Nat := ((sp.requests true).map (·.2.2)).sum
def Spindle.shrinkPending (sp : Spindle) : Nat := ((sp.requests false).map (·.2.2)).sum

/-- The registers from number r on are zero and unmarked. -/
def Spindle.cutRegs (sp : Spindle) (r : Nat) : Spindle :=
  { sp with v := sp.v.filter (fun c => c.1 < 32 * r), vpoison := sp.vpoison.filter (fun c => c.1 < r) }

/-- The spindle takes n chunks: its new registers are zero, and so are their lines in the image (12 R287). -/
def growBy (s : State) (i n : Nat) : Option State :=
  (takeChunks s (s.spindle i).team n).map (fun x =>
    let k := (s.spindle i).vcount
    vectorsSet (x.1.modSp i (fun sp => { sp.cutRegs k with vcount := k + 16 * n, chunks := sp.chunks ++ x.2 })) i ((List.range (16 * n)).map (k + ·)))

/-- The request of spindle i ends: pD in its held lanes, which go on. -/
def endGrow (s : State) (i : Nat) (ok : Bool) : State :=
  let g := (s.spindle i).growLanes
  let s := s.modTeam (s.spindle i).team (fun t => { t with growq := t.growq.filter (fun id => some id != (s.spindle i).growId) })
  freeLanes (s.modSp i (fun sp => sp.setPred g.2.1 g.1 (if ok then g.1 else 0#32))) i g.1

/-- `REGGROW` (R263): granted at once when no earlier request waits and the arena has the chunks. -/
def execReggrow (p : Pfx) (d : Reg) (n : BitVec 7) (s : State) : Host.Outcome State Fault Refusal :=
  issue (.reggrow p d n) p 1 s (fun x s =>
    let i := s.cur.sp
    let sp := s.spindle i
    let k := n.toNat
    if k = 0 || 7 < k || 128 < sp.vcount + 16 * (sp.growPending + k) then .bad 0x02#8 0#64
    else
      let grant := if (growFirst s sp.team).isNone then growBy s i k else none
      match grant with
      | some s => .done (s.modSp i (fun sp => sp.setPred (d.toNat % 8) x x))
      | none => .done ({ holdLanes s x (.reggrow (d.toNat % 8) k s.nextId) with nextId := s.nextId + 1 }.modTeam sp.team (fun t => { t with growq := t.growq ++ [s.nextId] })))

/-- The highest n chunks go back and the registers in them are lost. -/
def shrinkBy (s : State) (i n : Nat) : State :=
  let sp := s.spindle i
  let keep := sp.chunks.length - n
  let top := sp.vcount - 16 * n
  let s := freeChunks s sp.team (sp.chunks.drop keep)
  let s := { s with rcache := s.rcache.filter (fun x => !(x.sp == i && top ≤ x.reg)) }
  s.modSp i (fun sp => { sp.cutRegs top with vcount := top, chunks := sp.chunks.take keep })

/-- `REGSHRINK` (R263): it holds until f0–f11 read clear. What earlier ones still return counts against the 16 that must stay. -/
def execRegshrink (p : Pfx) (n : BitVec 7) (s : State) : Host.Outcome State Fault Refusal :=
  issue (.regshrink p n) p 1 s (fun x s =>
    let i := s.cur.sp
    let sp := s.spindle i
    let k := n.toNat
    if k = 0 || 7 < k || sp.vcount < 16 + 16 * (sp.shrinkPending + k) then .bad 0x02#8 0#64
    else if sp.flagsClear then .done (shrinkBy s i k)
    else .done { holdLanes s x (.regshrink k s.nextId) with nextId := s.nextId + 1 })

/-- REGGROW_GRANT: the team's first request is granted when the arena has the chunks (R264). -/
def onReggrowGrant (sp : Nat) (s : State) : Option State :=
  let x := s.spindle sp
  let g := x.growLanes
  if growFirst s x.team != x.growId || x.st != .resident || (s.team x.team).st != .running || g.1 == 0#32 then none
  else
    match growBy s sp g.2.2 with
    | none => none
    | some s => some (endGrow s sp true)

/-- `onReggrowGrant`, where the state brings it about. -/
def execReggrowGrant (sp : Nat) (s : State) : Host.Outcome State Fault Refusal := happens s (onReggrowGrant sp s)

/-- A spindle counts as blocked in `REGGROW` (12 R296). -/
def Spindle.growBlocked (sp : Spindle) : Bool :=
  sp.heldIn Hold.isGrow != 0#32 && sp.lanes.all (fun l => match l.st with
    | .held _ => true
    | .waiting => true
    | .parked => true
    | .exited => true
    | _ => false)

/-- Every spindle that holds a slot of a quadrant is blocked, and i is the oldest of them (R264). -/
def growStuck (s : State) (i : Nat) : Bool :=
  let q := (s.spindle i).quadrant
  let l := s.spindles.filter (fun sp => sp.st == .resident && sp.quadrant == q)
  (s.spindle i).st == .resident && l.all Spindle.growBlocked && l.all (fun sp => !sp.older (s.spindle i)) && (s.spindle i).growLanes.1 != 0#32

/-- REGGROW_FAIL: the oldest request of a stuck quadrant fails (R264). -/
def onReggrowFail (sp : Nat) (s : State) : Option State :=
  if growStuck s sp then some (endGrow s sp false) else none

/-- `onReggrowFail`, where the state brings it about. -/
def execReggrowFail (sp : Nat) (s : State) : Host.Outcome State Fault Refusal := happens s (onReggrowFail sp s)

end Sys2Proof.Machine
end

