-- ==== Sys2Proof/Machine/Tx.lean ====
section
/-! DEFINITION. Transactions: their beginning, end, abort and status, the commit of a spindle's lanes, and the ordered
threads' token (11 R256-R262; 14 R322-R340). -/

namespace Sys2Proof.Machine

open Sys2Proof

/-- The effect f on lane l of spindle i, as at the lane's own word. -/
def atLane (s : State) (i l : Nat) (f : State → State) : State :=
  let r := f { s with cur := { sp := i, lanes := laneBit l, pc := (s.lane i l).pc, w0 := 0#32, w1 := 0#32, chained := (s.lane i l).chained, more := false, rest := [], clear := false } }
  { r with cur := s.cur }

/-- An event that has to wait: only the page requests that it made stay, and a cycle passes. -/
def waitStep (s : State) (reqs : List PageReq) (host : Option Nat) : State :=
  tickState ((s.withReqs reqs).askBack host)

/-- Takes 8 chunks under an owner, once (14 R323). -/
def takeTxChunks (s : State) (i owner : Nat) : Option State :=
  if (s.spindle i).txchunks.any (fun x => x.1 == owner) then some s
  else (takeChunks s (s.spindle i).team 8).map (fun r => r.1.modSp i (fun sp => { sp with txchunks := sp.txchunks ++ r.2.map (fun c => (owner, c)) }))
/-- The checkpoint chunks of the spindle and the log chunks of lane l. -/
def txChunks (s : State) (i l : Nat) : Option State := (takeTxChunks s i 32).bind (fun s => takeTxChunks s i l)

/-- `TXB` (R256). -/
def execTxb (p : Pfx) (mode : Bool) (foff : BitVec 21) (s : State) : Host.Outcome State Fault Refusal :=
  issue (.txb p mode foff) p 2 s (fun x s =>
    let i := s.cur.sp
    let fb := targetOf s.cur.pc foff
    overLanesE x s (fun l s =>
      if (s.lane i l).spec then .done (faultLane s i l 0x02#8 0#64 0#5 0#16)
      else
        match checkTarget s i fb with
        | (s, .bad c r) => laneFault s l c fb 0#5 r
        | (s, .absent ea pg r) => .done (absentLane s i l ea pg fb 0#5 r)
        | (_, .wait h) => .stall h
        | (s, .good) =>
          let s := s.modLane i l (fun y =>
            { y with txatt := if y.restart then BitVec.ofNat 4 (min 15 (y.txatt.toNat + 1)) else 0#4, txstat := if y.restart then y.txstat else TxStatus.clear,
                     restart := false })
          let s := beginTxn s i l mode fb s.cur.pc
          match txChunks s i l with
          | some s => .done s
          | none => .done (abortTx s i l 3#3 0#7 0#8)))

/-- `TXE` (R259): lanes in a transaction are held until the spindle commits. -/
def execTxe (p : Pfx) (s : State) : Host.Outcome State Fault Refusal :=
  issue (.txe p) p 1 s (fun x s =>
    let sp := s.spindle s.cur.sp
    let bad := x &&& maskBy (fun l => (sp.lane l).spec)
    let s := if bad == 0#32 then s else faultLanes s bad 0x02#8 0#64
    .done (holdLanes s (x &&& ~~~bad &&& maskBy (fun l => (sp.lane l).tx)) .txe))

/-- `TXA n` (R261). -/
def execTxa (p : Pfx) (n : BitVec 7) (s : State) : Host.Outcome State Fault Refusal :=
  issue (.txa p n) p 1 s (fun x s =>
    .done ((lanesOf x).foldl (fun s l => if (s.lane s.cur.sp l).tx then abortTx s s.cur.sp l 4#3 n 0#8 else s) s))

/-- `TXS` (R262). -/
def execTxs (p : Pfx) (d : Reg) (s : State) : Host.Outcome State Fault Refusal :=
  alu (.txs p d) p 1 s (fun old l sp => sp.setV d.toNat l (old.lane l).txWord)

-- The commit (R328-R331)

/-- Two lanes conflict: one's write set meets the other's read or write set (R328). -/
def txConflict (a b : Lane) : Bool :=
  let has (l : List TxLine) (x : TxLine) : Bool := (txFind l x.ea x.ln).isSome
  a.txWrites.any (fun x => has b.txReads x || has b.txWrites x) || b.txWrites.any (has a.txReads)

/-- What validation says of a lane (R329 step 3, R330). -/
inductive Verdict where
  | pass
  | fail
  | denied (va : DWord) (rights : BitVec 16)
  deriving DecidableEq, Repr

/-- A line of a commit, with the bytes that its reads need. -/
structure CommitLine where
  ea : Nat
  ln : Nat
  need : BitVec 128
  deriving DecidableEq, Repr

/-- A line joins those of a commit. -/
def addNeed (l : List CommitLine) (x : CommitLine) : List CommitLine :=
  if l.any (fun y => y.ea == x.ea && y.ln == x.ln) then
    l.map (fun y => if y.ea == x.ea && y.ln == x.ln then { y with need := y.need ||| x.need } else y)
  else l ++ [x]

/-- The lines of a commit's lanes and of a domain word, in the order of their locks (R329 step 1, R338). -/
def commitLines (s : State) (i : Nat) (ls : List Nat) (dom : List CommitLine) : List CommitLine :=
  let all := ls.flatMap (fun l => (s.lane i l).txReads.map (fun x => ⟨x.ea, x.ln, x.mask⟩) ++ (s.lane i l).txWrites.map (fun x => ⟨x.ea, x.ln, 0#128⟩)) ++ dom
  sortBy (fun x => floorKey (homeDie s x.ea x.ln) x.ea x.ln * 2 ^ 57 + x.ln) (all.foldl addNeed [])

/-- How far a commit has come with its locks: the lines held, those that their pages refuse, and whether it waits, perhaps for a line that the
host holds, or parked on an absent page. -/
structure Locking where
  s : State
  held : List (Nat × Nat)
  refused : List (Nat × Nat)
  stop : Option (Option Nat)
  parked : Bool

/-- A line is locked as it stands, under a pending fill too; a read line that its home does not hold waits for its page (R329 step 2, R330). -/
def lockLine (w : Who) (a : Locking) (x : CommitLine) : Locking :=
  if a.stop.isSome then a
  else
    match homeLock a.s w x.ea x.ln (x.need == 0#128) with
    | .ok s _ => { a with s := s, held := a.held ++ [(x.ea, x.ln)] }
    | .bad s _ _ => { a with s := s, refused := a.refused ++ [(x.ea, x.ln)] }
    | .absent s _ _ => { a with s := s, stop := some none, parked := true }
    | .wait h => { a with stop := some h }

/-- The locks of a commit, taken anew from its first line: another commit finds none of those that it held in between. -/
def lockLines (s : State) (i : Nat) (m : LaneMask) (dom : List CommitLine) (ls : List Nat) : Locking :=
  let s := s.modMem (fun x => { x with commits := x.commits.filter (fun c => !(c.sp == i && c.lanes == m)) })
  (commitLines s i ls dom).foldl (lockLine (s.who i)) { s := s, held := [], refused := [], stop := none, parked := false }

/-- A commit keeps its locks, and waits (R330). -/
def commitWait (a : Locking) (i : Nat) (m : LaneMask) (host : Option Nat) : State :=
  tickState ((a.s.modMem (fun x => { x with commits := x.commits ++ [{ sp := i, lanes := m, locks := a.held, parked := a.parked }] })).askBack host)

/-- A locked line at its home, or the reason of a page that refuses it. -/
def lineHeld (s : State) (w : Who) (ea ln : Nat) : Got HomeLine := homeFillW (l1End s w.core ea ln) ea ln 1 true

/-- The first written line whose page has no W left, with the rights found. -/
def lostWrite (s : State) (i : Nat) (refused : List (Nat × Nat)) : List TxLine → State × Option (DWord × BitVec 16)
  | [] => (s, none)
  | x :: rest =>
    let w := s.who i
    let nd : Need := { r := false, w := true, x := false }
    match rightsOf s w.core w.pn x.ea (pageOfLn x.ln) with
    | (s, .leaf e) =>
      let sl := sealedPage s.mem x.ea (pageOfLn x.ln)
      if leafW e && !sl && !refused.contains (x.ea, x.ln) then lostWrite s i refused rest else (s, some (vaOfLn x.ln, rightsField (some e) nd sl false))
    | (s, _) => (s, some (vaOfLn x.ln, rightsField none nd false false))

/-- Validation of one lane on locked lines: under `.VAL` the bytes of the read mask, under `.TS` the versions (R329; 21 R433). DEDUCED (log entry
117): bytes that a line under a pending fill does not hold have no value to equal, and fail. -/
def validateLane (s : State) (i l : Nat) (refused : List (Nat × Nat)) : State × Verdict :=
  match (s.lane i l).txn with
  | none => (s, .pass)
  | some x =>
    match lostWrite s i refused x.writes with
    | (s, some (va, r)) => (s, .denied va r)
    | (s, none) =>
      let late (h : HomeLine) : Bool := decide (h.version ≤ x.start)
      let fits (h : HomeLine) (y : TxLine) : Bool :=
        if x.ts then late h else y.mask &&& ~~~h.line.valid == 0#128 && marksHit h.line y.mask == 0#4 && (h.line.data ^^^ y.data) &&& spreadBytes y.mask == 0#1024
      let step (f : HomeLine → TxLine → Bool) (r : State × Verdict) (y : TxLine) : State × Verdict :=
        match lineHeld r.1 (s.who i) y.ea y.ln with
        | .ok s h => (s, if f h y then r.2 else .fail)
        | _ => (r.1, .fail)
      let r := x.reads.foldl (step fits) (s, .pass)
      if x.ts then x.writes.foldl (step (fun h _ => late h)) r else r

/-- A write to a locked line (R329 step 5). -/
def lineWrite (s : State) (w : Who) (ea ln : Nat) (inc : Line) : State :=
  match lineHeld (ineligibleWrite s w ea ln) w ea ln with
  | .ok s h =>
    let (s, h) := preImage s w.team h
    homeMerge s h inc
  | _ => s

/-- A passing lane's write log at the homes, tagged with the lane's word (R329 step 5, R331, R335). -/
def applyLane (s : State) (i l : Nat) : State :=
  (s.lane i l).txWrites.foldl (fun s x =>
    lineWrite s (s.who i) x.ea x.ln { data := x.data, valid := x.mask, dirty := x.mask, poison := 0#4, full := fullSectors x.mask, tag := some (commitTag s i l 0), later := 0 }) s

/-- The lanes of a spindle's commit: every live transactional lane is held at a `TXE` (R259). -/
def commitLanes (sp : Spindle) : LaneMask :=
  let tx := sp.live &&& maskBy (fun l => (sp.lane l).tx && !(sp.lane l).spec)
  if tx != 0#32 && tx == tx &&& sp.heldIn Hold.isTxe then tx else 0#32

/-- The commit of the spindle that holds locks and waits. -/
def waitingCommit (s : State) (i : Nat) : Option Commit :=
  s.mem.commits.find? (fun c => c.sp == i && !((s.lane i (lowestLane c.lanes)).spec))

/-- A lane's transaction ends with a commit; the lane goes on at the next word. -/
def endTx (s : State) (i l : Nat) : State :=
  s.modLane i l (fun y => { y with tx := false, txn := none, txstat := { y.txstat with committed := true }, pc := y.pc + 4#64, st := .eligible, stamp := s.clock.cycle })

/-- A fault that the commit finds: RIGHTS is pending for the lane's `TXE`, and the transaction aborts with FAULT (R330); an ordered thread runs
again serially (R332). -/
def denyLane (s : State) (i l : Nat) (va : DWord) (rights : BitVec 16) : State :=
  if (s.lane i l).spec then abortTx s i l 5#3 0#7 0x09#8
  else
    (abortTx (pendTrap s i l 0x09#8 va ((s.spindle i).wpartOf l) rights) i l 5#3 0#7 0x09#8).modLane i l (fun y =>
      { y with st := .parked })

/-- The lanes ls validate on their locked lines, and the write logs of those that pass are applied (R329 steps 3 and 5). -/
def commitRun (s : State) (i : Nat) (refused : List (Nat × Nat)) (ls : List Nat) : State × List (Nat × Verdict) :=
  let r := ls.foldl (fun (r : State × List (Nat × Verdict)) l =>
    let v := validateLane r.1 i l refused
    (v.1, r.2 ++ [(l, v.2)])) (s, [])
  (r.2.foldl (fun s v => if v.2 = .pass then applyLane s i v.1 else s) r.1, r.2)

/-- The lanes of a commit that lose to a lower lane, and those that go on (R328). -/
def commitWinners (x : Spindle) (ls : List Nat) : List Nat × List Nat :=
  let lose := ls.filter (fun b => ls.any (fun a => decide (a < b) && txConflict (x.lane a) (x.lane b)))
  (lose, ls.filter (fun l => !lose.contains l))

/-- The domain word of lane l's spindle: its effective ASID and its address. -/
def domainAt (s : State) (i : Nat) : Nat × DWord := (eaOf (s.who i).asid (s.spindle i).domain, (s.spindle i).domain)

/-- The lines that a commit of lane l locks beside its logs: an ordered thread's domain word (R338). -/
def domainLines (s : State) (i l : Nat) : List CommitLine :=
  if (s.lane i l).spec then [⟨(domainAt s i).1, lnOf (domainAt s i).2, byteMask (offOf (domainAt s i).2) 8⟩] else []

/-- What an ordered thread's commit does on locked lines, with NEXT among what it validates and writes (R338); a domain word that has lost its
write right denies it (R330). -/
def orderedRun (s : State) (i l : Nat) (refused : List (Nat × Nat)) : State × Verdict :=
  let va := (domainAt s i).2
  let ea := (domainAt s i).1
  let need := byteMask (offOf va) 8
  match lostWrite s i refused [{ ea := ea, ln := lnOf va, version := 0, mask := need, data := 0#1024 }] with
  | (s, some (_, r)) => (s, .denied va r)
  | (s, none) =>
    match validateLane s i l refused with
    | (s, .pass) =>
      match lineHeld s (s.who i) ea (lnOf va) with
      | .ok s h =>
        if need &&& ~~~h.line.valid != 0#128 || marksHit h.line need != 0#4 || lineBytesGet h.line.data (offOf va) 4 != (s.lane i l).seq.toNat then (s, .fail)
        else (domainMoved (lineWrite (applyLane s i l) (s.who i) ea (lnOf va) (nextInc s i l)) ea va, .pass)
      | _ => (s, .fail)
    | r => r

/-- A commit of a spindle that has ended with its team finishes: what it had begun at the homes, and nothing of its lanes (17 R377). -/
def orphanCommit (s : State) (c : Commit) : State :=
  let i := c.sp
  let l := lowestLane c.lanes
  let spec := (s.lane i l).spec
  let win := (commitWinners (s.spindle i) (lanesOf c.lanes)).2
  let a := lockLines s i c.lanes (domainLines s i l) win
  match a.stop with
  | some h => commitWait a i c.lanes h
  | none => (if spec then (orderedRun a.s i l a.refused).1 else (commitRun a.s i a.refused win).1).modSp i Spindle.finish

/-- TX_COMMIT: the spindle's transactional lanes commit (R259, R328, R329). A commit that has begun goes on while its team is being suspended
(R334); one of a killed team finishes for its memory alone (17 R377). -/
def onTxCommit (sp : Nat) (s : State) : Option State :=
  let x := s.spindle sp
  if x.st == .ended then
    match s.mem.commits.find? (fun c => c.sp == sp) with
    | none => none
    | some c => some (orphanCommit s c)
  else
  let began := waitingCommit s sp
  let m := (began.map (·.lanes)).getD (commitLanes x)
  if m == 0#32 || x.st != .resident || x.inHandler || !((s.team x.team).st == .running || (began.isSome && (s.team x.team).st == .suspending)) then
    none
  else
    let (lose, win) := commitWinners x (lanesOf m)
    let a := lockLines s sp m [] win
    match a.stop with
    | some h => some (commitWait a sp m h)
    | none =>
      let r := commitRun a.s sp a.refused win
      let s := lose.foldl (fun s l => abortTx s sp l 1#3 0#7 0#8) r.1
      some (rcvEvalAll (r.2.foldl (fun s v =>
        match v.2 with
        | .pass => endTx s sp v.1
        | .fail => abortTx s sp v.1 2#3 0#7 0#8
        | .denied va r => denyLane s sp v.1 va r) s) sp)

/-- `onTxCommit`, where the state brings it about. -/
def execTxCommit (sp : Nat) (s : State) : Host.Outcome State Fault Refusal := happens s (onTxCommit sp s)

/-- BACKOFF_EXPIRY: the lane reissues its `TXB` (R260). -/
def onBackoffExpiry (sp lane : Nat) (s : State) : Option State :=
  match (s.lane sp lane).st with
  | .backoff t =>
    if t ≤ s.clock.cycle && (s.spindle sp).st == .resident && (s.teamOf sp).st == .running then
      some (s.modLane sp lane (fun y => { y with st := .eligible, stamp := s.clock.cycle }))
    else none
  | _ => none

/-- `onBackoffExpiry`, where the state brings it about. -/
def execBackoffExpiry (sp lane : Nat) (s : State) : Host.Outcome State Fault Refusal := happens s (onBackoffExpiry sp lane s)

/-- SLEEP_EXPIRY (05 R126). -/
def onSleepExpiry (sp lane : Nat) (s : State) : Option State :=
  match (s.lane sp lane).st with
  | .sleeping t =>
    if t ≤ s.clock.cycle && (s.spindle sp).st == .resident && (s.teamOf sp).st == .running then
      some (s.modLane sp lane (fun y => { y with st := .eligible, stamp := s.clock.cycle }))
    else none
  | _ => none

/-- `onSleepExpiry`, where the state brings it about. -/
def execSleepExpiry (sp lane : Nat) (s : State) : Host.Outcome State Fault Refusal := happens s (onSleepExpiry sp lane s)

-- Ordered domains (R336-R340)

/-- The one-lane commit of an ordered thread that holds its token (R338). -/
def orderedCommit (s : State) (i l : Nat) : State :=
  let a := lockLines s i (laneBit l) (domainLines s i l) [l]
  match a.stop with
  | some h => commitWait a i (laneBit l) h
  | none =>
    match orderedRun a.s i l a.refused with
    | (s, .denied va r) => denyLane s i l va r
    | (s, .fail) => abortTx s i l 2#3 0#7 0#8
    | (s, .pass) =>
      let s := s.modLane i l (fun y => { y with txstat := { y.txstat with committed := true } })
      evalBarriers (rcvEvalAll (atLane s i l (fun s => exitLane s i l)) i) (s.spindle i).team

/-- The domains whose token state the home dies keep: the first of each die, in the order of their requests (R340). -/
def servedDomains (s : State) : List (Nat × DWord) :=
  s.tokens.foldl (fun acc k =>
    let die := homeDie s k.ea (lnOf k.va)
    if acc.contains (k.ea, k.va) || Config.tokenCount ≤ acc.countP (fun d => homeDie s d.1 (lnOf d.2) == die) then acc else acc ++ [(k.ea, k.va)]) []

/-- A request that its home die may answer: it keeps the domain, neither die is fenced (19 R419), and the thread can take a token. -/
def tokenReady (s : State) (k : TokenReq) : Bool :=
  let x := s.spindle k.sp
  let st := (s.lane k.sp k.lane).st
  let began := s.mem.commits.any (fun c => c.sp == k.sp && c.lanes == laneBit k.lane)
  !k.granted && (st == .held .token || st == .held .serial) && x.st == .resident && !x.inHandler && (servedDomains s).contains (k.ea, k.va) &&
    !fencedDie s (homeDie s k.ea (lnOf k.va)) && !fencedDie s (dieOfCore x.core) &&
    ((s.team x.team).st == .running || (began && (s.team x.team).st == .suspending))

/-- COMMIT_TOKEN_MESSAGE: the token reaches the thread with this number (R340). At its commit point the thread commits
(R338); at its entry it runs serially (R339). A NEXT that cannot be read is the thread's fault where it waits (log entry 116). -/
def onCommitTokenMessage (easid addr seq : Nat) (s : State) : Option State :=
  match s.tokens.find? (fun k => k.ea == easid && k.va.toNat == addr && k.seq.toNat == seq && tokenReady s k) with
  | none => none
  | some k =>
    let i := k.sp
    let l := k.lane
    let settled (s : State) : Option State := some (rcvEvalAll s i)
    if s.mem.commits.any (fun c => c.sp == i && c.lanes == laneBit l) then settled (orderedCommit s i l)
    else
      let atExit := (s.lane i l).st == .held .token
      match domainNext s i k.va with
      | .absent s' _ _ => some (waitStep s s'.mem.reqs none)
      | .wait h => some (waitStep s s.mem.reqs h)
      | .bad s' c r =>
        settled (if atExit then atLane (dropToken s' i l) i l (fun s => refuseOrdered s i l c k.va r)
          else if c == 0x10#8 && (s'.teamOf i).rollb then poisonTeam s' (s'.spindle i).team (s'.spindle i).idx (s'.lane i l).pc k.va
          else pendTrap (dropToken s' i l) i l c k.va ((s'.spindle i).wpartOf l) r)
      | .ok s' (next, _) =>
        if next != k.seq then
          if behind k.seq next && atExit then settled (atLane (dropToken s' i l) i l (fun s => refuseOrdered s i l 0x02#8 k.va 0#16))
          else none
        else if atExit then settled (orderedCommit s' i l)
        else
          settled ({ s' with tokens := s'.tokens.map (fun x => if x == k then { k with granted := true } else x) }.modLane i l (fun y =>
            { y with st := .eligible, stamp := s'.clock.cycle }))

/-- `onCommitTokenMessage`, where the state brings it about. -/
def execCommitTokenMessage (easid addr seq : Nat) (s : State) : Host.Outcome State Fault Refusal := happens s (onCommitTokenMessage easid addr seq s)

/-- TOKEN_REGENERATION: a request for NEXT has stood for 16,384 ns without a commit of its domain; the home die sends the token again (R340). -/
def onTokenRegeneration (easid addr : Nat) (s : State) : Option State :=
  let here (k : TokenReq) : Bool := k.ea == easid && k.va.toNat == addr && (servedDomains s).contains (k.ea, k.va)
  match s.tokens.find? (fun k => here k && decide (k.since + 16384 ≤ s.clock.ns)) with
  | none => none
  | some k0 =>
    match domainNext s k0.sp k0.va with
    | .ok s' (next, _) =>
      let due (k : TokenReq) : Bool := here k && k.seq == next && decide (k.since + 16384 ≤ s.clock.ns)
      if s.tokens.any due then some { s' with tokens := s'.tokens.map (fun k => if due k then { k with since := s.clock.ns } else k) }
      else none
    | .absent s' _ _ => some (waitStep s s'.mem.reqs none)
    | .wait h => some (waitStep s s.mem.reqs h)
    | .bad _ _ _ => none

/-- `onTokenRegeneration`, where the state brings it about. -/
def execTokenRegeneration (easid addr : Nat) (s : State) : Host.Outcome State Fault Refusal := happens s (onTokenRegeneration easid addr s)

end Sys2Proof.Machine
end

