-- ==== Sys2Proof/Machine/Spawn.lean ====
section
/-! DEFINITION. Spawned threads: the commands that create them, the bins and the arena they wait in, and the spindles
that bins launch (11 R252-R255; 12 R294, R295; 14 R323, R337). -/

namespace Sys2Proof.Machine

open Sys2Proof

-- New spindles (01 R13; 11 R254; 17 R362)

/-- A lane at dispatch or spawn (01 R13, R26; 02 R54; 11 R260). -/
def freshLane (s : State) (l : Launch) (i n : Nat) (pc : DWord) : Lane :=
  { Lane.blank with
    pc := pc, st := .eligible, stamp := s.clock.cycle, priv := l.priv, rollbk := l.info.rollb, rng := srSeed 0#32 n,
    boff := seedOf ((s.ident i n).setWidth 32) }

/-- The s registers of a new spindle: the argument block of the launch record. -/
def argCells (l : Launch) : Cells 32 := cellSets [] (enumFrom 0 (l.info.args.take 16))

/-- A new spindle of team t takes a slot of a core: `chunks` are its image, its uniform chunk first, `live` its live lanes; every lane's generators
start (02 R54). Its UCHUNK entry is written (17 R370); its vector lines enter the register cache on demand (12 R287). -/
def addSpindle (s : State) (t idx core rank quad slot : Nat) (entry : DWord) (live : LaneMask) (chunks : List Nat) : State :=
  let l := s.launchOf t
  let i := s.spindles.length
  let sp : Spindle :=
    { Spindle.blank with
      team := t, idx := idx, core := core, quad := quad, slot := slot, st := .resident, crank := rank, vcount := l.info.vcount, s := argCells l,
      uchunk := chunks.headD 0, chunks := chunks.tail, entry := entry }
  let s := tookSlot { s with spindles := s.spindles ++ [sp] } i
  let s := s.modSp i (fun sp => { sp with lanes := (enumFrom 0 sp.lanes).map (fun x =>
    let y := freshLane s l i x.1 entry
    if live.getLsbD x.1 then y else { x.2 with rng := y.rng, boff := y.boff }) })
  devPut s (s.teamWho t) ((s.team t).arenaBase + BitVec.ofNat 64 (0x440 + 4 * idx)) 4 (chunks.headD 0)

-- The commands (R252)

/-- The issue of a spawn: the entry is checked, then the domain word, and the command carries one thread for each executing lane. -/
def spawn (i : Instr) (p : Pfx) (s : State) (eoff : BitVec 21) (check : Spindle → Option (BitVec 8 × DWord)) (rec' : Spindle → Nat → DWord → SpawnRec) :
    Host.Outcome State Fault Refusal :=
  issue i p 2 s (fun x s => withFlag s false (fun s f =>
    let sp := s.spindle s.cur.sp
    let e := targetOf s.cur.pc eoff
    match checkTarget s s.cur.sp e with
    | (s, .bad c r) => laneFaults s x c e r
    | (_, .absent ea pg r) => .absent ea pg e r
    | (_, .wait h) => .stall h
    | (s, .good) =>
      match check sp with
      | some (c, a) => .bad c a
      | none =>
        let s := if (s.team sp.team).rollb then s.ineligible sp.team else s
        .done (acceptCmd s { newCmd s i .spawn x with threads := (lanesOf x).map (fun l => rec' sp l e) } f)))

/-- The four argument words of lane l. -/
def argWords (sp : Spindle) (a l : Nat) : List Word := (List.range 4).map (fun j => sp.getV (a + j) l)

/-- `SPAWN` (R252). -/
def execSpawn (p : Pfx) (a : Reg) (eoff : BitVec 21) (s : State) : Host.Outcome State Fault Refusal :=
  spawn (.spawn p a eoff) p s eoff (fun _ => none) (fun sp l e =>
    { entry := e, domain := 0#64, args := argWords sp a.toNat l, seq := 0#32, ordered := false, slot := 0 })

/-- `SPAWNO` (R252). -/
def execSpawno (p : Pfx) (d a b : Reg) (eoff : BitVec 21) (s : State) : Host.Outcome State Fault Refusal :=
  spawn (.spawno p d a b eoff) p s eoff (fun sp => if (sp.getSD b.toNat).toNat % 8 != 0 then some (0x08#8, sp.getSD b.toNat) else none) (fun sp l e =>
    { entry := e, domain := sp.getSD b.toNat, args := argWords sp a.toNat l, seq := sp.getV d.toNat l, ordered := true, slot := 0 })

-- Bins and the arena (R253, R255)

def Bin.holds (b : Bin) (t : Nat) (r : SpawnRec) : Bool := b.team == t && b.entry == r.entry && b.ordered == r.ordered && b.domain == r.domain && !b.saved
/-- Threads that the team's arena can hold. -/
def arenaCap (t : Team) : Nat := let n := bitsOf t.spawnarena.toNat 0 16
  if n = 0 then 0 else (n * 65536 - 64) / 64
def SpawnRec.bytes (r : SpawnRec) : Nat :=
  r.entry.toNat ||| atByte 8 r.domain.toNat ||| atByte 16 (packBytes 4 (r.args.map (·.toNat))) ||| atByte 32 r.seq.toNat

/-- The first slot of the ring from its head on that no waiting thread's record takes. -/
def Team.arenaSlot (t : Team) : Nat :=
  let at' (j : Nat) : Nat := (t.arenaHead + j) % arenaCap t
  at' (((List.range (t.arena.length + 1)).find? (fun j => !t.arena.any (fun r => r.slot == at' j))).getD 0)

/-- The bin becomes ready when it holds 32 threads. -/
def Bin.arm (b : Bin) (now : Nat) : Bin := if b.ready.isNone && 32 ≤ b.threads.length then { b with ready := some now } else b

/-- A bin takes the oldest arena threads of its key while it has room. -/
def refillBin (s : State) (b : Bin) : State :=
  let t := s.team b.team
  let room := Config.binCap - b.threads.length
  let take := ((t.arena.filter (b.holds b.team)).take room)
  if take.isEmpty then s
  else
    let b' := ({ b with threads := b.threads ++ take.map (fun r => { r with slot := 0 }), start := if b.threads.isEmpty then s.clock.cycle else b.start, elapsed := if b.threads.isEmpty then 0 else b.elapsed } : Bin).arm s.clock.cycle
    let s := s.modTeam b.team (fun t => { t with arena := take.foldl (fun l r => l.erase r) t.arena })
    { s with bins := s.bins.map (fun x => if x == b then b' else x) }
/-- Every bin of team t that has room takes the oldest arena threads of its key (R253). DESIGN CHOICE (log entry 98): an older bin takes before a
younger one. -/
def refillBins (s : State) (t : Nat) : State := (s.bins.filter (fun b => b.team == t)).foldl refillBin s

/-- Places one thread: its bin, a free bin, or the arena's tail, under the writer tag of its command. Answers false when the arena is full. -/
def placeThread (s : State) (core rank t : Nat) (tag : Tag) (r : SpawnRec) : Got Bool :=
  let now := s.clock.cycle
  let bins := s.bins.filter (fun b => b.core == core && !b.saved)
  let toArena : Got Bool :=
    let x := s.team t
    if arenaCap x ≤ x.arena.length then .ok s false
    else
      let k := x.arenaSlot
      match devWriteAs s (s.teamWho t) (some (dieOfCore core)) (some tag) ((x.spawnarena &&& ~~~0xFFFF#64) + BitVec.ofNat 64 (64 + 64 * k)) 64 r.bytes with
      | .ok s _ => .ok (s.modTeam t (fun x => { x with arena := x.arena ++ [{ r with slot := k }], arenaHead := k + 1 })) true
      | .bad s c rt => .bad s c rt
      | .absent s ea pg => .absent s ea pg
      | .wait h => .wait h
  match bins.find? (fun b => b.holds t r) with
  | some b =>
    if Config.binCap ≤ b.threads.length then toArena
    else .ok { s with bins := s.bins.map (fun x => if x == b then ({ b with threads := b.threads ++ [r] } : Bin).arm now else x) } true
  | none =>
    match (List.range Config.binCount).find? (fun n => !bins.any (fun b => b.num == n)) with
    | none => toArena
    | some n =>
      .ok { s with bins := s.bins ++ [{ core := core, num := n, rank := rank, team := t, entry := r.entry, domain := r.domain, ordered := r.ordered, threads := [r],
                                        start := now, ready := none, saved := false, elapsed := 0 }] } true

/-- Places the threads of a command in order; answers those that have no room yet. -/
def placeThreads (s : State) (c : Cmd) : List SpawnRec → Got (List SpawnRec)
  | [] => .ok s []
  | r :: rest =>
    match placeThread s c.core c.rank c.team (c.tag s 64) r with
    | .ok s true => placeThreads (if (s.team c.team).arena.isEmpty then s else refillBins s c.team) c rest
    | .ok s false => .ok s (r :: rest)
    | .bad s x y => .bad s x y
    | .absent s ea pg => .absent s ea pg
    | .wait h => .wait h

/-- SPAWN_BIN_TIMER: the bin's timer reaches the current SPAWNTIMER (R253, R294). -/
def onSpawnBinTimer (core bin : Nat) (s : State) : Option State :=
  match s.bins.find? (fun b => b.core == core && b.num == bin && !b.saved) with
  | none => none
  | some b =>
    if b.isDue s then some { s with bins := s.bins.map (fun x => if x == b then { b with ready := some (b.dueAt (s.team b.team)) } else x) }
    else none

/-- `onSpawnBinTimer`, where the state brings it about. -/
def execSpawnBinTimer (core bin : Nat) (s : State) : Host.Outcome State Fault Refusal := happens s (onSpawnBinTimer core bin s)

-- Launching a bin (R253, R254; 12 R295)

/-- The lowest free spindle index of spawned spindles. -/
def freeIndex (s : State) (t : Nat) : Option Nat :=
  ((List.range 512).map (· + 512)).find? (fun n => !s.spindles.any (fun sp => sp.team == t && sp.st != .ended && sp.idx == n))
/-- Chunks of the image, and the checkpoint chunks of an ordered spindle (14 R323). -/
def binChunks (s : State) (b : Bin) : Nat := 1 + (s.launchOf b.team).info.vcount / 16 + (if b.ordered then 8 else 0)
/-- The uniform chunk that an ended spindle of an index still has goes back when the index is used again. Chunk 0 is none. -/
def reclaimIndex (s : State) (t idx : Nat) : State :=
  (List.range s.spindles.length).foldl (fun s i =>
    let sp := s.spindle i
    if sp.team == t && sp.st == .ended && sp.idx == idx && sp.uchunk != 0 then (freeChunks s t [sp.uchunk]).modSp i (fun sp => { sp with uchunk := 0 }) else s) s
def reclaimFree (s : State) (t : Nat) : State := match freeIndex s t with
  | none => s
  | some idx => reclaimIndex s t idx

/-- The team of a bin can give it an index and chunks. -/
def binSupplied (s : State) (b : Bin) : Bool := (freeIndex s b.team).isSome && (takeChunks (reclaimFree s b.team) b.team (binChunks s b)).isSome
/-- b became ready before c. -/
def Bin.before (b c : Bin) : Bool :=
  match b.ready, c.ready with
  | some x, some y => decide (x < y) || (x == y && decide (b.num < c.num))
  | some _, none => true
  | _, _ => false
/-- The bin's turn has come. -/
def binTurn (s : State) (b : Bin) : Bool :=
  b.ready.isSome && (s.team b.team).st == .running && binSupplied s b && !s.bins.any (fun c => c.core == b.core && c.isDue s) &&
  (s.bins.filter (fun c => c.core == b.core && !c.saved && c.before b && (s.team c.team).st == .running)).all (fun c => c.team != b.team && !binSupplied s c)

/-- What the bin holds after a launch, with the arena behind it (R253). -/
def afterLaunch (s : State) (b : Bin) (rest : List SpawnRec) : State :=
  let b' : Bin := { b with threads := rest, ready := none, start := s.clock.cycle, elapsed := 0 }
  let upd (x : Bin) (s : State) : State := { s with bins := s.bins.map (fun y => if y.core == b.core && y.num == b.num && !y.saved then x else y) }
  if !rest.isEmpty then refillBins (upd (b'.arm s.clock.cycle) s) b.team
  else
    match (s.team b.team).arena with
    | [] => { s with bins := s.bins.filter (fun y => !(y.core == b.core && y.num == b.num && !y.saved)) }
    | r :: _ =>
      let b' := { b' with entry := r.entry, domain := r.domain, ordered := r.ordered }
      refillBins (upd b' s) b.team

/-- BIN_LAUNCH: the oldest threads of a ready bin become a spindle (R254). -/
def onBinLaunch (core bin : Nat) (s : State) : Option State :=
  match s.bins.find? (fun b => b.core == core && b.num == bin && !b.saved) with
  | none => none
  | some b =>
    let s := reclaimFree s b.team
    match freePlace s core, freeIndex s b.team, takeChunks s b.team (1 + (s.launchOf b.team).info.vcount / 16) with
    | some (quad, slot), some idx, some (s1, chunks) =>
      if !binTurn s b then none
      else
        let go := b.threads.take 32
        let i := s.spindles.length
        let s := addSpindle s1 b.team idx core b.rank quad slot b.entry (maskBy (fun l => decide (l < go.length))) chunks
        let s := s.modSp i (fun sp =>
          let sp := { sp with domain := b.domain }
          (enumFrom 0 go).foldl (fun sp x =>
            let sp := (enumFrom 0 x.2.args).foldl (fun sp y => sp.setV y.1 x.1 y.2) sp
            sp.modLane x.1 (fun y => { y with spec := b.ordered, seq := x.2.seq })) sp)
        let s := if !b.ordered then s
          else
            let s := (takeTxChunks s i 32).getD s
            (List.range go.length).foldl (fun s l =>
              let s := beginTxn s i l false 0#64 b.entry
              match takeTxChunks s i l with
              | some s => s
              | none => abortTx s i l 3#3 0#7 0#8) s
        some (afterLaunch (vectorsSet s i (List.range (s.spindle i).vcount)) b (b.threads.drop 32))
    | _, _, _ => none

/-- `onBinLaunch`, where the state brings it about. -/
def execBinLaunch (core bin : Nat) (s : State) : Host.Outcome State Fault Refusal := happens s (onBinLaunch core bin s)

end Sys2Proof.Machine
end

