-- ==== Sys2Proof/Machine/Launch.lean ====
section
/-! DEFINITION. Launch records, `LAUNCH`, the room on pavilions, dependence words and the DONE word (11 R267; 17 R354-R361,
R374, R375; 22 R450). -/

namespace Sys2Proof.Machine

open Sys2Proof

-- Room (R361)

/-- What a core can still give. -/
structure CoreRoom where
  core : Nat
  slots : Nat
  rows : Nat
  bytes : Nat
  cursors : Nat
  latches : Nat
  bins : Nat
  deriving DecidableEq, Repr

/-- What a rank of a team needs. -/
structure RankNeed where
  slots : Nat
  rows : Nat
  bytes : Nat
  cursors : Nat
  latches : Nat
  bins : Nat
  deriving DecidableEq, Repr

/-- A core that placement may use: not fenced and not under scan (21 R446, R448). -/
def coreUsable (s : State) (core : Nat) : Bool :=
  let w := core / 64
  let f := if w = 0 then s.adeol.cfence0 else if w = 1 then s.adeol.cfence1 else s.adeol.cfence2
  !f.getLsbD (core % 64) && s.scan.core != some core && !fencedDie s (dieOfCore core)

def emptyRoom (core : Nat) : CoreRoom :=
  { core := core, slots := Config.quadrants * Config.slotsPerQuad, rows := Config.faceRows, bytes := Config.scratchBytes, cursors := Config.cursorCount,
    latches := Config.latchCount, bins := Config.binCount }

/-- What a core has free now. -/
def roomOf (s : State) (core : Nat) : CoreRoom :=
  let ts := s.teams.filter (fun t => t.st.holds && t.ranks.contains core)
  let e := emptyRoom core
  { e with
    slots := e.slots - (s.spindles.filter (fun sp => sp.st == .resident && sp.core == core)).length,
    rows := e.rows - (ts.map (·.tiles)).sum,
    bytes := e.bytes - (ts.map (·.share)).sum,
    cursors := e.cursors - (s.cursors.filter (fun c => c.core == core && !c.saved)).length,
    latches := e.latches - (s.latches.filter (fun c => c.core == core && !c.saved)).length,
    bins := e.bins - (s.bins.filter (fun c => c.core == core && !c.saved)).length }

def CoreRoom.fits (r : CoreRoom) (n : RankNeed) : Bool :=
  n.slots ≤ r.slots && n.rows ≤ r.rows && n.bytes ≤ r.bytes && n.cursors ≤ r.cursors && n.latches ≤ r.latches && n.bins ≤ r.bins
def CoreRoom.less (r : CoreRoom) (n : RankNeed) : CoreRoom :=
  { r with slots := r.slots - n.slots, rows := r.rows - n.rows, bytes := r.bytes - n.bytes, cursors := r.cursors - n.cursors, latches := r.latches - n.latches,
           bins := r.bins - n.bins }

/-- The cores of a pavilion that take ranks 0 to C − 1, in ascending order. -/
def fitRanks : List CoreRoom → List RankNeed → Option (List Nat)
  | _, [] => some []
  | [], _ :: _ => none
  | r :: rs, n :: ns => if r.fits n then (fitRanks rs ns).map (fun l => r.core :: l) else fitRanks rs (n :: ns)

/-- The needs of a team at its first dispatch on c cores. -/
def LaunchRec.needs (r : LaunchRec) (c : Nat) : List RankNeed :=
  List.replicate c { slots := (r.spindles + c - 1) / c, rows := r.tiles, bytes := shareOfCores r.scratch c, cursors := 0, latches := 0, bins := 0 }
/-- The core counts that a team may take at its first dispatch. -/
def LaunchRec.counts (r : LaunchRec) : List Nat :=
  if r.cores != 0 then [r.cores]
  else ((List.range 8).map (· + 1)).filter (fun c => (r.spindles + 63) / 64 ≤ c && shareOfCores r.scratch c ≤ Config.scratchBytes)
/-- The needs of a suspended team. -/
def resumeNeeds (s : State) (t : Nat) : List RankNeed :=
  let x := s.team t
  (List.range x.cores).map (fun k =>
    { slots := (s.spindles.filter (fun sp => sp.team == t && sp.crank == k && sp.st == .suspended)).length, rows := x.tiles, bytes := x.share,
      cursors := (s.cursors.filter (fun c => c.team == t && c.rank == k)).length, latches := (s.latches.filter (fun c => c.team == t && c.rank == k)).length,
      bins := (s.bins.filter (fun c => c.team == t && c.rank == k)).length })

/-- Cores of a pavilion with what they have free. -/
def pavRoom (s : State) (pav : Nat) : List CoreRoom :=
  ((List.range Config.coresPerPav).map (fun k => Config.coresPerPav * pav + k)).filter (coreUsable s) |>.map (roomOf s)
/-- The order in which pavilions are tried: those of one's own die first. -/
def pavOrder (p : Partition) (die : Nat) : List Nat :=
  let l := p.pavs.foldl insertNat []
  l.filter (fun v => dieOfPav v == die) ++ l.filter (fun v => dieOfPav v != die)

/-- The teams of a fresh launch placed one after another on rooms given by pavilion. -/
def placeFresh (r : LaunchRec) (order : List Nat) (rooms : List (Nat × List CoreRoom)) : Option (Nat × List Nat) :=
  order.findSome? (fun v =>
    match rooms.find? (fun x => x.1 == v) with
    | none => none
    | some x => r.counts.findSome? (fun c => (fitRanks x.2 (r.needs c)).map (fun l => (v, l))))
/-- The rooms less what a team placed on these cores takes. -/
def takeRoom (rooms : List (Nat × List CoreRoom)) (cores : List Nat) (needs : List RankNeed) : List (Nat × List CoreRoom) :=
  (cores.zip needs).foldl (fun rooms x => rooms.map (fun p => (p.1, p.2.map (fun c => if c.core == x.1 then c.less x.2 else c)))) rooms
/-- n teams of a launch fit together (R355). -/
def placeAll (r : LaunchRec) (order : List Nat) : Nat → List (Nat × List CoreRoom) → Bool
  | 0, _ => true
  | n + 1, rooms =>
    match placeFresh r order rooms with
    | none => false
    | some x => placeAll r order n (takeRoom rooms x.2 (r.needs x.2.length))

-- The record (R354, R355)

def recordOf (v : Nat) : LaunchRec :=
  let f (o n : Nat) : Nat := bitsOf v (8 * o) (8 * n)
  { entry := BitVec.ofNat 64 (f 0 8), teams := f 8 4, spindles := f 12 2, vcount := f 14 1, cores := f 15 1, prio := f 16 1 % 16, coop := v.testBit 136,
    priv := v.testBit 137, rollb := v.testBit 138, ndep := f 18 1, scratch := f 20 4, tiles := f 24 2, grouptab := BitVec.ofNat 64 (f 32 8),
    rabase := BitVec.ofNat 64 (f 40 8), rasize := f 48 4, sasize := f 52 4, dlcontrib := f 64 8, energy := f 72 8, done := BitVec.ofNat 64 (f 80 8),
    deps := (List.range (min 4 (f 18 1))).map (fun i => (BitVec.ofNat 64 (f (128 + 16 * i) 8), f (136 + 16 * i) 8)),
    args := (List.range 16).map (fun i => BitVec.ofNat 32 (f (192 + 4 * i) 4)) }

/-- A field out of range, misaligned or reserved and not zero (R355, R356). -/
def recordBad (v : Nat) : Bool :=
  let r := recordOf v
  let f (o n : Nat) : Nat := bitsOf v (8 * o) (8 * n)
  r.teams == 0 || decide (2 ^ 24 < r.teams) || r.spindles == 0 || decide (512 < r.spindles) || r.vcount % 16 != 0 || decide (r.vcount < 16) || decide (128 < r.vcount) ||
  decide (8 < r.cores) || (r.cores != 0 && decide (64 * r.cores < r.spindles)) || decide (16 ≤ f 16 1) || decide (8 ≤ f 17 1) || decide (4 < r.ndep) || f 19 1 != 0 ||
  r.scratch % 128 != 0 || decide (2097152 < r.scratch) || decide (512 < r.tiles) || f 26 6 != 0 || r.grouptab.toNat % 4096 != 0 || !canonical r.grouptab ||
  r.rabase.toNat % 65536 != 0 || !canonical r.rabase || r.rasize == 0 || decide (0xFFFF < r.rasize) || decide (0xFFFF < r.sasize) || f 56 8 != 0 || r.done.toNat % 8 != 0 ||
  f 88 40 != 0 || r.deps.any (fun d => d.1.toNat % 8 != 0) || f (128 + 16 * min 4 r.ndep) (64 - 16 * min 4 r.ndep) != 0 ||
  (r.cores != 0 && decide (Config.scratchBytes < shareOfCores r.scratch r.cores)) ||
  decide (r.chunkEnd < r.chunkFirst + r.spindles * (1 + r.vcount / 16))

/-- The class of the page of an address in a context, none without a leaf. -/
def classIn (s : State) (ea : Nat) (va : DWord) : Option Nat :=
  match agentLeaf s ea (lnOf va) with
  | (.leaf e _, _) => some (leafClass e)
  | _ => none

/-- The word at an address of a context is a clause header in slot 0; a marked sector is consumed (21 R432, R433). -/
def headerAt (s : State) (asid : BitVec 14) (va : DWord) : Got Bool :=
  if va.toNat % 12 != 0 || !canonical va then .ok s false
  else
    let ea := eaOf asid va
    match homeGet s none ea (lnOf va) 4 false with
    | .ok s h =>
      if byteMask (offOf va) 4 &&& ~~~h.line.valid != 0#128 then .absent (postReq s ea (pageOf va) 4) ea (pageOf va)
      else if marksHit h.line (byteMask (offOf va) 4) != 0#4 then .bad s 0x10#8 0#16
      else .ok s (isHeader (BitVec.ofNat 32 (lineBytesGet h.line.data (offOf va) 4)))
    | .bad s _ _ => .ok s false
    | .absent s ea pg => .absent s ea pg
    | .wait h => .wait h

/-- The checks of R355 for partition p, in the order of their list. -/
def recordCheck (s : State) (p die v : Nat) : Got (Option (BitVec 8)) :=
  let r := recordOf v
  let pt := s.part p
  match headerAt s pt.asid r.entry with
  | .ok s ok =>
    let words := r.deps.map (·.1) ++ (if r.done == 0#64 then [] else [r.done])
    .ok s (
      if !ok then some 0x04#8
      else if words.any (fun a => classIn s (eaOf pt.asid a) a == some 0) then some 0x0A#8
      else if recordBad v then some 0x02#8
      else if r.coop && !placeAll r (pavOrder pt die) r.teams (pt.pavs.map (fun v =>
          (v, ((List.range Config.coresPerPav).map (fun k => Config.coresPerPav * v + k)).filter (coreUsable s) |>.map emptyRoom))) then some 0x02#8
      else none)
  | .bad s c x => .bad s c x
  | .absent s ea pg => .absent s ea pg
  | .wait h => .wait h

/-- `LAUNCH` (R267). -/
def execLaunch (p : Pfx) (d a : Reg) (t : CmdTail) (s : State) : Host.Outcome State Fault Refusal :=
  let i : Instr := .launch p d a t
  issue i p 2 s (fun x s => withFlag s false (fun s f =>
    let sp := s.spindle s.cur.sp
    let va := sp.getSD a.toNat
    match firstCause (barChecks s sp.team t) with
    | some c => .bad c 0#64
    | none =>
      if va.toNat % 64 != 0 then .bad 0x08#8 va
      else
        let s := if t.rel && t.scope != 0#3 then coreRelease s sp.core else s
        let s := if (s.team sp.team).rollb then s.ineligible sp.team else s
        .done (acceptCmd s (newCmd s i .distributor x) f)))

/-- The record, read field by field at its home and checked. -/
def runLaunch (r : Run) (a : Reg) : RunAns Unit :=
  let va := r.cmd.sd a.toNat
  match runRead r va 256 0 true with
  | .fault r c x => .fault r (if c == 0x0B#8 then 0x09#8 else c) x
  | .absent s ea pg => .absent s ea pg
  | .wait h => .wait h
  | .poison r va => .poison r va
  | .ok r v =>
    match recordCheck r.s r.team.part (dieOfCore r.cmd.core) v with
    | .ok s none =>
      let i := recordOf v
      .ok { r with s := s, cmd := { r.cmd with launch := some { i with prio := if r.cmd.priv then i.prio else min i.prio r.team.prio.toNat } } } ()
    | .ok s (some c) => .fault { r with s := s } c va.toNat
    | .bad s c _ => .fault { r with s := s } c va.toNat
    | .absent s ea pg => .absent s ea pg
    | .wait h => .wait h

-- The DONE word and the end of a launch (R374, R375)

/-- An unusable word of launch n is reported as a command fault of its `LAUNCH`, unless the issuing team has ended; the root launch keeps the first
cause for the completion of its start command (R375). -/
def launchReport (s : State) (n : Nat) (cause : BitVec 8) (addr : DWord) : State :=
  match (s.launch n).issuer with
  | none => s.modLaunch n (fun l => if l.cause == 0#8 then { l with cause := cause } else l)
  | some (i, snap) => { s with reports := s.reports ++ [{ commandReport s (s.spindle i).team i snap cause addr.toNat [] [] with mayKill := false }] }

/-- The module answers. -/
def State.reply (s : State) (r : Reply) : State := { s with hostReplies := s.hostReplies ++ [r] }

/-- Launch n is COMPLETE. The start command of a root launch completes with it, as its completion carries the cause of an unusable word of the launch
(R357, R375; DEDUCED, log entry 99). -/
def launchEnds (s : State) (n : Nat) : State :=
  let l := s.launch n
  let s := s.modLaunch n (fun l => { l with st := .complete })
  if l.root then s.reply (.start (s.part l.part).pnum.toNat l.cause.toNat) else s

/-- A word that the distributor reads or writes for a context. -/
inductive WordAns where
  | usable
  | bad (cause : BitVec 8)
  | absent (ea page : Nat)
  deriving DecidableEq, Repr

def wordAccess (s : State) (p : Nat) (va : DWord) (write : Bool) : WordAns :=
  let ea := eaOf (s.part p).asid va
  if !canonical va then .bad 0x09#8
  else
    match agentLeaf s ea (lnOf va) with
    | (.leaf e _, pa) =>
      if (if write then !leafW e || sealedPage s.mem ea (pageOf va) else !leafR e) then .bad 0x09#8
      else if leafClass e = 0 then .bad 0x0A#8
      else if !leafP e then .absent ea (pageOf va)
      else
        match rmapGet s pa with
        | some m => if m == (ea, pageOf va) then .usable else .bad 0x09#8
        | none => .usable
    | _ => .bad 0x09#8

/-- Ends a launch: its DONE word is written once as a release, when it can be used; an absent page makes it wait. -/
def finishLaunch (s : State) (n : Nat) : State :=
  let l := s.launch n
  let fin (s : State) : State := launchEnds s n
  if l.st == .complete then s
  else if l.info.done == 0#64 then fin s
  else
    match wordAccess s l.part l.info.done true with
    | .bad c => fin (launchReport s n c l.info.done)
    | .absent ea pg => postReq s ea pg 5
    | .usable =>
      let cores := (s.teams.filter (fun t => t.launch == n)).flatMap (·.ranks)
      let s := cores.foldl coreRelease s
      let va := l.info.done
      let ea := eaOf (s.part l.part).asid va
      let killed := s.teams.any (fun t => t.launch == n && t.st == .killed)
      let v := l.num % 2 ^ 48 ||| boolNat (l.anyKilled || killed || l.abandoned || l.discarded) <<< 63 ||| boolNat l.abandoned <<< 62
      let s := (s.mem.l1.filter (fun x => x.ea == ea && x.ln == lnOf va && !x.owned)).foldl (fun s x => l1End s x.core x.ea x.ln) s
      match homeWrite s none ea (lnOf va) (incOf (offOf va) 8 v 0#4 none) with
      | .ok s _ => fin s
      | .bad s _ _ => fin (launchReport s n 0x09#8 va)
      | .absent s _ _ => s
      | .wait h => s.askBack h

/-- A launch whose last team has ended, be it before its dispatch, or that was abandoned, and whose DONE word is still due (R374); that of a launch which
a halt discards is due at the halt's fifth step (22 R452). -/
def launchDue (s : State) (n : Nat) : Bool :=
  let l := s.launch n
  let ts := s.teamsOf n
  l.st != .complete && (l.abandoned || (l.discarded && (s.part l.part).halted) || (!l.discarded && (l.st == .running || l.st == .admitted) && l.info.teams ≤ ts.length && ts.all (fun t => (s.team t).st.over)))

/-- What the distributor queues: WAITING with dependences, else READY; in a halted partition it is discarded (R358; 22
R450, R452). -/
def queueLaunch (s : State) (p : Nat) (r : LaunchRec) (va : DWord) (die : Nat) (priv root : Bool) (issuer : Option (Nat × Snap)) : State × Nat :=
  let pt := s.part p
  let l : Launch :=
    { num := pt.nextLaunch, part := p, recva := va, die := die, st := if r.ndep = 0 then .ready else .waiting, info := r, prio := r.prio, priv := priv && r.priv,
      root := root, sat := List.replicate r.ndep false, step := 0, next := 0, grouptab := r.grouptab, issuer := issuer, anyKilled := false, abandoned := false, discarded := pt.haltReason != 0, cause := 0#8 }
  let s := { s with launches := s.launches ++ [l] }
  let s := s.modPart p (fun x =>
    { x with nextLaunch := x.nextLaunch + 1, deadline := if x.deadline == 0#64 then 0#64 else BitVec.ofNat 64 (min (x.deadline.toNat + r.dlcontrib) (2 ^ 64 - 1)) })
  (if pt.halted then finishLaunch s (s.launches.length - 1) else s, pt.nextLaunch)

/-- DEPENDENCE_SATISFIED: the word has reached its value, or can never be read, which abandons the launch (R359, R375). -/
def onDependenceSatisfied (launch dep : Nat) (s : State) : Option State :=
  let l := s.launch launch
  let no : Option State := none
  if l.st != .waiting || l.sat.getD dep true || l.abandoned || (s.part l.part).haltReason != 0 then no
  else
    let d := l.info.deps.getD dep (0#64, 0)
    let abandon (s : State) (c : BitVec 8) : Option State :=
      some (finishLaunch ((launchReport s launch c d.1).modLaunch launch (fun l => { l with abandoned := true })) launch)
    match wordAccess s l.part d.1 false with
    | .bad c => abandon s c
    | .absent ea pg => some (waitStep s (postReq s ea pg 5).mem.reqs none)
    | .usable =>
      match homeGet s none (eaOf (s.part l.part).asid d.1) (lnOf d.1) 5 false with
      | .ok s h =>
        if marksHit h.line (byteMask (offOf d.1) 8) != 0#4 then abandon s 0x10#8
        else if lineBytesGet h.line.data (offOf d.1) 8 < d.2 then no
        else
          some (s.modLaunch launch (fun l =>
            let sat := l.sat.set dep true
            { l with sat := sat, st := if sat.all id then .ready else l.st }))
      | .bad s _ _ => abandon s 0x09#8
      | .absent s' _ _ => some (waitStep s s'.mem.reqs none)
      | .wait h => some (waitStep s s.mem.reqs h)

/-- `onDependenceSatisfied`, where the state brings it about. -/
def execDependenceSatisfied (launch dep : Nat) (s : State) : Host.Outcome State Fault Refusal := happens s (onDependenceSatisfied launch dep s)

end Sys2Proof.Machine
end

