-- ==== Sys2Proof/Machine/Matrix.lean ====
section
/-! DEFINITION. The matrix array's product, tile loads and stores, and copies (02 R60-R63; 08 R197-R203). -/

namespace Sys2Proof.Machine

open Sys2Proof

-- Product sums (02 R60-R62)

/-- The exact sum of finite values. -/
def exactSum (l : List Num) : Num :=
  let q := l.foldl (fun q x => min q x.exp) 0
  let v := l.foldl (fun v x => v + x.scaled q) (0 : Int)
  .fin (decide (v < 0)) v.natAbs q

/-- A group of at most 32 products, scaled and rounded once to FP32 (R60, R61). `bad`: a scale is NaN. -/
def groupSum (a b : List Num) (scale : Int) (bad : Bool) : Num :=
  let ps := a.zip b
  let pr := ps.map (fun x => x.1.mul x.2)
  let infs := pr.filter Num.isInf
  if bad || a.any Num.isNan || b.any Num.isNan || ps.any (fun x => mulInvalid x.1 x.2) || (infs.any Num.neg && infs.any (fun x => !x.neg)) then .nan false
  else if !infs.isEmpty then .inf (infs.any Num.neg)
  else
    match (exactSum pr).shift scale with
    | .fin n m e => if m = 0 then .fin false 0 0 else fmt32.read false (fmt32.fin false .rne n m e false).1
    | x => x

/-- An MX block: selector, scale and element field (02 R45). -/
structure Block where
  sel : Nat
  scale : Nat
  field : Nat
  deriving DecidableEq, Repr

def Block.elems (b : Block) : List Num := (List.range 32).map (fun i => elemRead b.sel (bitsOf b.field (elemBits b.sel * i) (elemBits b.sel)))
/-- The check of R47. -/
def Block.bad (b : Block) (fmt : Nat) : Bool := !selAssigned b.sel || b.sel / 16 != fmt - 8
def blockOfBytes (v : Nat) (fmt : Nat) : Block := { sel := bitsOf v 0 8, scale := bitsOf v 8 8, field := bitsOf v 16 (8 * (unitBytes fmt - 2)) }

/-- K of a format (R197), the A region's columns and the C region's columns for g members. -/
def mmaK (fmt : Nat) : Nat := match fmt with
  | 0 => 8
  | 1 => 2
  | 2 => 32
  | 3 => 32
  | 10 => 128
  | _ => 64
def mmaACols (fmt : Nat) : Nat := match fmt with
  | 0 => 8
  | 1 => 4
  | 2 => 16
  | 3 => 16
  | 8 => 17
  | 9 => 13
  | _ => 18
def mmaCCols (fmt g : Nat) : Nat := if fmt = 1 then 64 * g else 32 * g

/-- The values of a wide row or column of K elements. -/
def wideElems (fmt v : Nat) : List Num :=
  let f := fmtOf (BitVec.ofNat 2 fmt)
  (List.range (mmaK fmt)).map (fun k => f.read false (bitsOf v (f.w * k) f.w))

/-- The blocks of an A row. -/
def rowBlocks (fmt v : Nat) : List Block :=
  (List.range (mmaK fmt / 32)).map (fun b => blockOfBytes (v >>> (8 * unitBytes fmt * b)) fmt)
/-- The bytes of a lane's B registers. -/
def Share.column (sh : Share) (fmt j : Nat) : Nat :=
  (List.range (mmaRegs (BitVec.ofNat 4 fmt))).foldl (fun a r => a ||| (cellGet sh.b (32 * r + j)).toNat <<< (32 * r)) 0
/-- The blocks of a B column (R197): the headers, then the element fields. -/
def columnBlocks (fmt v : Nat) : List Block :=
  let h := if fmt = 10 then 2 else 1
  let e := if fmt = 8 then 8 else if fmt = 9 then 6 else 4
  (List.range (mmaK fmt / 32)).map (fun b =>
    { sel := bitsOf v (16 * b) 8, scale := bitsOf v (16 * b + 8) 8, field := bitsOf v (32 * (h + b * e)) (32 * e) })

/-- `product_sum` over a row and a column (R60-R62), from accumulator bits c. -/
def productSum (fmt a b c : Nat) : Nat :=
  if fmt = 0 || fmt = 1 then
    let f := fmtOf (BitVec.ofNat 2 fmt)
    ((wideElems fmt a).zip (wideElems fmt b)).foldl (fun acc x => (f.fma false .rne x.1 x.2 (f.read false acc)).1) c
  else
    let groups : List Num :=
      if isMx fmt then
        ((rowBlocks fmt a).zip (columnBlocks fmt b)).map (fun x =>
          groupSum x.1.elems x.2.elems ((x.1.scale : Int) + x.2.scale - 254) (x.1.scale == 255 || x.2.scale == 255))
      else [groupSum (wideElems fmt a) (wideElems fmt b) 0 false]
    groups.foldl (fun acc g => (fmt32.add false .rne (fmt32.read false acc) g).1) c

-- Tiles (R201)

/-- Moves a two-dimensional window of a tile: into the region, or out of it under `store`. -/
def runWindow (r : Run) (rc : Rect) (ref : Nat) (t : Tile) (store : Bool) : RunAns Unit :=
  let u := unitBytes t.fmt
  let c (d : Nat) : Nat := r.cmd.coord ref d
  let h := boolNat t.hdr
  if rc.width % u != 0 || (isMx t.fmt && c 0 % 32 != 0) then .fault r 0x02#8 0
  else
    runLoop (rc.rows - h) r () (fun row r _ =>
      runLoop (rc.width / u) r () (fun x r _ =>
        let va := t.addr (c 0 + (if isMx t.fmt then 32 * x else x)) (c 1 + row) (c 2) (c 3)
        let b := 4 * rc.col0 + x * u
        if store then
          match va with
          | none => .ok r ()
          | some va => (faceRead r (rc.row0 + h + row) b u).andThen (fun r v => runWrite r va u v)
        else
          match va with
          | none => faceWrite r (rc.row0 + h + row) b u (if isMx t.fmt then emptyBlock t.fmt else 0)
          | some va => (runRead r va u t.lease false).andThen (fun r v => faceWrite r (rc.row0 + h + row) b u v)))

def runTld (r : Run) (d a : Reg) (store : Bool) : RunAns Unit :=
  (runTile r a.toNat).andThen (fun r t =>
    let rc := r.cmd.region d
    let r := { r with cmd := { r.cmd with bytes := (rc.rows - boolNat t.hdr) * rc.width } }
    runWindow r rc a.toNat t store)

-- MMA (R200)

/-- The first failing block in the order of R200: its index, and whether it stands in A. -/
def badBlock (fmt : Nat) (rows : List Nat) (cols : List (Nat × Nat)) : Option Nat :=
  let nbk := mmaK fmt / 32
  let find (l : List Block) (base : Nat) : Option Nat := ((enumFrom 0 l).find? (fun x => x.2.bad fmt)).map (fun x => base + x.1)
  match (enumFrom 0 rows).findSome? (fun x => find (rowBlocks fmt x.2) (x.1 * nbk)) with
  | some i => some i
  | none => cols.findSome? (fun x => find (columnBlocks fmt x.2) (128 * nbk + x.1 * nbk))

/-- The columns of B: column 32 m + j of member m, none for a lane that was not live. -/
def mmaColumns (c : Cmd) (fmt : Nat) : List (Option Nat) :=
  c.shares.flatMap (fun sh => (List.range 32).map (fun j => if sh.live.getLsbD j then some (sh.column fmt j) else none))
/-- The column that a lane that is not live contributes (R197). -/
def zeroColumn (fmt : Nat) : Nat :=
  if isMx fmt then (List.range (mmaK fmt / 32)).foldl (fun a b => a ||| emptyBlock fmt <<< (16 * b)) 0 else 0

/-- What the report of a failing block names (R200): the tile handle for A under AMODE = 1, else the spindle index of the member whose share holds
the block, or of member M0 for A in its region. DESIGN CHOICE (log entry 95): a tile handle is told by bit 31. -/
def mmaOperand (c : Cmd) (fmt : Nat) (amode : Bool) (tr i : Nat) : Nat :=
  let nbk := mmaK fmt / 32
  let member (m : Nat) : Nat := ((c.shares[m]?).map (·.spidx)).getD 0
  if i < 128 * nbk then (if amode then 2 ^ 31 ||| bitsOf (c.s tr).toNat 0 16 else member 0) else member ((i - 128 * nbk) / nbk / 32)

def runMma (r : Run) (d a : Reg) (fmt : Nat) (amode zc : Bool) (tr : Nat) : RunAns Unit :=
  let rc := r.cmd.region d
  let ra := r.cmd.region a
  let w := if fmt = 1 then 8 else 4
  let r := { r with cmd := { r.cmd with bytes := rc.rows * rc.width } }
  (if amode then (runTile r tr).andThen (fun r t => runWindow r ra tr t false) else .ok r ()).andThen (fun r _ =>
    if r.cmd.shares.any (fun sh => sh.poison) then runPoison r 0
    else
      (runLoop 128 r [] (fun row r acc => (faceRead r (ra.row0 + row) (4 * ra.col0) ra.width).andThen (fun r v => .ok r (acc ++ [v])))).andThen (fun r rows =>
        let cols := mmaColumns r.cmd fmt
        let live := (enumFrom 0 cols).filterMap (fun x => x.2.map (fun v => (x.1, v)))
        match (if isMx fmt then badBlock fmt rows live else none) with
        | some i => .fault r 0x11#8 (blockField (mmaOperand r.cmd fmt amode tr i) i)
        | none =>
          runList (enumFrom 0 rows) r () (fun row r _ =>
            runList (enumFrom 0 cols) r () (fun col r _ =>
              let b := 4 * rc.col0 + w * col.1
              (if zc then .ok r 0 else faceRead r (rc.row0 + row.1) b w).andThen (fun r c =>
                faceWrite r (rc.row0 + row.1) b w (productSum fmt row.2 (col.2.getD (zeroColumn fmt)) c))))))

/-- The members that GANG names (01 R22): none for a solo `MMA`. -/
def gangMembers (g : DWord) : List Nat :=
  let n := (g.extractLsb' 60 3).toNat
  (List.range n).map (fun m => bitsOf g.toNat (10 * m) 10)

/-- The B share of the issuing spindle (R197, R199): its live lanes' registers. A poisoned line of an error-tolerant page
reads as zero (12 R291). -/
def shareOf (s : State) (b : Reg) (fmt : BitVec 4) : State × Share :=
  let sp := s.spindle s.cur.sp
  let live := sp.live
  let regs := (List.range (mmaRegs fmt)).map (fun j => b.toNat + j)
  let hits := regs.flatMap (fun r => (List.range 4).filterMap (fun k =>
    if (cellGet sp.vpoison r).getLsbD k && live.extractLsb' (8 * k) 8 != 0#8 then some (r, k) else none))
  let et := hits.filter (fun h => imageET s s.cur.sp h.1)
  let cells := regs.flatMap (fun r => (lanesOf live).map (fun l =>
    (32 * (r - b.toNat) + l, if et.contains (r, l / 8) then 0#32 else sp.getV r l)))
  (countSubst s sp.team et.length,
   { spidx := sp.idx, live := live, b := cellSets [] cells, poison := decide (et.length < hits.length) })

/-- The checks of an `MMA` at issue (R185, R198). -/
def mmaChecks (s : State) (sp : Spindle) (t : Team) (d a : Reg) (fmt : BitVec 4) (amode : Bool) (tr : BitVec 6) (ct : CmdTail) : List (Bool × BitVec 8) :=
  let ra := regionOf (sp.getSD a.toNat)
  let rc := regionOf (sp.getSD d.toNat)
  let g := max 1 (gangMembers sp.gang).length
  regionChecks t (sp.getSD a.toNat) ++ regionChecks t (sp.getSD d.toNat) ++ (if amode then tileChecks (s.part t.part) (sp.getS tr.toNat) else []) ++
    barChecks s sp.team ct ++
    [(ra.rows != 128 || ra.cols != mmaACols fmt.toNat || rc.rows != 128 || rc.cols != mmaCCols fmt.toNat g || ra.overlaps rc ||
      (fmt == 1#4 && decide (4 < g)), 0x02#8)]

/-- The words of a gang member agree with a latch (R199). -/
def latchAgrees (l : Latch) (gang : DWord) (w0 w1 : Word) : Bool :=
  l.gang == gang && fld l.w0 0 28 == fld w0 0 28 && l.w1 == w1

/-- The latch that waits for a member: of its team and core, naming the spindle's index, which has not yet arrived. DESIGN CHOICE (log entry 96):
a member with another GANG arrives at a latch only where its own list names a member that stands in it, and a solo `MMA` at none. -/
def latchFor (s : State) (i : Nat) : Option Latch :=
  let sp := s.spindle i
  s.latches.find? (fun l => l.team == sp.team && l.core == sp.core && !l.saved && (gangMembers l.gang).contains sp.idx && !l.members.any (fun m => m.sp == i) &&
    (l.gang == sp.gang || l.members.any (fun m => (gangMembers sp.gang).contains m.share.spidx)))

/-- The spindle's earlier `MMA` of the same list still stands in a latch. -/
def latchHolds (s : State) (i : Nat) : Bool :=
  s.latches.any (fun l => l.team == (s.spindle i).team && l.gang == (s.spindle i).gang && l.members.any (fun m => m.sp == i))

/-- GANG_MISMATCH in every member of a latch: a deferred report, and its count falls. -/
def mismatchMembers (s : State) (l : Latch) : State :=
  l.members.foldl (fun s m =>
    if m.lanes == 0#32 then s else discharge { s with reports := s.reports ++ [commandReport s l.team m.sp m.snap 0x16#8 0 [] []] } m.sp m.flag) s

/-- Puts a latch in place of its earlier form; a bad latch all of whose members have arrived is freed. -/
def putLatch (s : State) (old new : Latch) : State :=
  if new.bad && new.members.length == (gangMembers new.gang).length then { s with latches := s.latches.erase old }
  else { s with latches := s.latches.map (fun l => if l == old then new else l) }

/-- The gang's command: members in the order of the list, region words and tile reference of member M0 (R199), accepted now for each of them
(R183; 11 R464). -/
def gangCmd (s : State) (i : Instr) (l : Latch) (ms : List LatchMember) : Cmd :=
  let idx (m : LatchMember) : Nat := (gangMembers l.gang).findIdx (fun x => x == m.share.spidx)
  let ord := (sortBy idx ms).map (fun m => { m with snap := { m.snap with tacc := s.clock.ns } })
  let c := newCmd s i .matrix 0#32
  match ord with
  | [] => c
  | m0 :: rest =>
    { c with sp := m0.sp, snap := m0.snap, sregs := m0.sregs, lanes := m0.lanes, charges := ord.map (fun m => (m.sp, m.flag)), shares := ord.map (·.share),
             others := rest.map (fun m => (m.sp, m.snap)) }

/-- Accepts a gang's command (R183): its members' counts stand already. -/
def acceptGang (s : State) (c : Cmd) : State := { s with cmds := s.cmds ++ [{ c with id := s.nextId }], nextId := s.nextId + 1 }

/-- A listed index whose spindle the team holds stands on another rank (R199). -/
def rankClash (s : State) (i : Nat) : Bool :=
  let sp := s.spindle i
  s.spindles.any (fun x => x.team == sp.team && x.st != .ended && (gangMembers sp.gang).contains x.idx && x.crank != sp.crank)

/-- The issue of a gang member (R199). Every member waits for room in the queue, as 12 R281 asks of every E-pipe word. -/
def gangIssue (i : Instr) (b : Reg) (fmt : BitVec 4) (x : LaneMask) (f : Nat) (s : State) : Eff :=
  let me := s.cur.sp
  let sp := s.spindle me
  let ms := gangMembers sp.gang
  let member (s : State) (share : Share) : LatchMember :=
    { sp := me, lanes := x, flag := f, snap := snapOf s i, sregs := sp.s, share := share }
  if !ms.contains sp.idx || rankClash s me then .bad 0x16#8 0#64
  else if latchHolds s me then .stall none
  else
    match latchFor s me with
    | none =>
      if Config.latchCount ≤ (s.latches.filter (fun l => l.core == sp.core && !l.saved)).length then .stall none
      else
        let (s, share) := shareOf s b fmt
        let l : Latch := { core := sp.core, rank := sp.crank, team := sp.team, gang := sp.gang, w0 := s.cur.w0, w1 := s.cur.w1, instr := i,
                           members := [member s share], bad := false, saved := false }
        .done { charge s me f with latches := s.latches ++ [l] }
    | some l =>
      if l.bad || !latchAgrees l sp.gang s.cur.w0 s.cur.w1 then
        let ghost : LatchMember := { sp := me, lanes := 0#32, flag := f, snap := snapOf s i, sregs := [], share := { spidx := sp.idx, live := 0#32, b := [], poison := false } }
        let s := if l.bad then s else mismatchMembers s l
        let ms' := if l.bad then l.members else l.members.map (fun m => { m with lanes := 0#32 })
        .done (faultLanes (putLatch s l { l with bad := true, members := ms' ++ [ghost] }) x 0x16#8 0#64)
      else if l.members.length + 1 < ms.length then
        let (s, share) := shareOf s b fmt
        .done (putLatch (charge s me f) l { l with members := l.members ++ [member s share] })
      else
        let (s, share) := shareOf s b fmt
        let all := l.members ++ [member s share]
        .done (acceptGang { charge s me f with latches := s.latches.erase l } (gangCmd s i l all))

/-- `MMA` (R197-R200). -/
def execMma (p : Pfx) (d a b : Reg) (fmt : BitVec 4) (amode zc : Bool) (tr : BitVec 6) (t : CmdTail) (s : State) : Host.Outcome State Fault Refusal :=
  let i : Instr := .mma p d a b fmt amode zc tr t
  command i p 2 .matrix s (fun s sp tm => mmaChecks s sp tm d a fmt amode tr t) (fun x f s =>
    if (gangMembers (s.spindle s.cur.sp).gang).isEmpty then
      let (s, share) := shareOf s b fmt
      .done (acceptCmd s { newCmd s i .matrix x with shares := [share] } f)
    else gangIssue i b fmt x f s)

/-- The checks of `TLD` and `TST` at issue. -/
def tileMoveChecks (d a : Reg) (ct : CmdTail) (s : State) (sp : Spindle) (t : Team) : List (Bool × BitVec 8) :=
  regionChecks t (sp.getSD d.toNat) ++ tileChecks (s.part t.part) (sp.getS a.toNat) ++ barChecks s sp.team ct

/-- `TLD` (R201). -/
def execTld (p : Pfx) (d a : Reg) (t : CmdTail) (s : State) : Host.Outcome State Fault Refusal :=
  plainCommand (.tld p d a t) p .copy s (tileMoveChecks d a t)

/-- `TST` (R201). -/
def execTst (p : Pfx) (d a : Reg) (t : CmdTail) (s : State) : Host.Outcome State Fault Refusal :=
  plainCommand (.tst p d a t) p .copy s (tileMoveChecks d a t)

-- CPY (R202, R203)

/-- N0, N1 and N2 of a shape pair. -/
def shapeOf (x : DWord) : Nat × Nat × Nat := (bitsOf x.toNat 0 16, bitsOf x.toNat 16 16, bitsOf x.toNat 32 16)

/-- The checks of one endpoint at issue. -/
def endChecks (s : State) (sp : Spindle) (t : Team) (kind : BitVec 2) (reg : Reg) (e : Nat) (n : Nat × Nat × Nat) : List (Bool × BitVec 8) :=
  match kind.toNat with
  | 0 => tileChecks (s.part t.part) (sp.getS reg.toNat)
  | 1 => layoutChecks (layoutWord (sp.getS reg.toNat) (sp.getS (reg.toNat + 1)) (sp.getS (reg.toNat + 2))) e t.share n.1 n.2.1 n.2.2
  | _ =>
    let rc := regionOf (sp.getSD reg.toNat)
    regionChecks t (sp.getSD reg.toNat) ++ [(n.2.2 != 1 || decide (rc.width < n.1 * e) || decide (rc.rows < n.2.1), 0x02#8)]

/-- `CPY` (R202). -/
def execCpy (p : Pfx) (d a b : Reg) (dk sk : BitVec 2) (esz : BitVec 3) (t : CmdTail) (s : State) : Host.Outcome State Fault Refusal :=
  plainCommand (.cpy p d a b dk sk esz t) p .copy s (fun s sp tm =>
    let x := sp.getSD b.toNat
    let n := shapeOf x
    let e := 2 ^ esz.toNat
    [(bitsOf x.toNat 48 16 != 0 || n.1 == 0 || n.2.1 == 0 || n.2.2 == 0, 0x02#8)] ++ endChecks s sp tm dk d e n ++ endChecks s sp tm sk a e n ++ barChecks s sp.team t)

/-- An endpoint at work: the register that names it, and the tile of a global one. -/
structure End where
  kind : Nat
  reg : Nat
  tile : Option Tile

/-- Reads an endpoint's tile handle and checks its format (R202). -/
def runEnd (r : Run) (kind : BitVec 2) (reg : Reg) (e : Nat) : RunAns End :=
  if kind != 0#2 then .ok r { kind := kind.toNat, reg := reg.toNat, tile := none }
  else
    (runTile r reg.toNat).andThen (fun r t =>
      if isMx t.fmt || unitBytes t.fmt != e then .fault r 0x02#8 0 else .ok r { kind := 0, reg := reg.toNat, tile := some t })

/-- Element (i, j, k) of an endpoint, read or written. -/
def runElemRead (r : Run) (x : End) (e i j k : Nat) : RunAns Nat :=
  match x.kind, x.tile with
  | 0, some t =>
    match t.addr (r.cmd.coord x.reg 0 + i) (r.cmd.coord x.reg 1 + j) (r.cmd.coord x.reg 2 + k) (r.cmd.coord x.reg 3) with
    | none => .ok r 0
    | some va => runRead r va e t.lease false
  | 1, _ => scratchRead r ((r.cmd.layout (BitVec.ofNat 7 x.reg)).at e i j k) e
  | _, _ =>
    let rc := r.cmd.region (BitVec.ofNat 7 x.reg)
    faceRead r (rc.row0 + j) (4 * rc.col0 + i * e) e
def runElemWrite (r : Run) (x : End) (e i j k v : Nat) : RunAns Unit :=
  match x.kind, x.tile with
  | 0, some t =>
    match t.addr (r.cmd.coord x.reg 0 + i) (r.cmd.coord x.reg 1 + j) (r.cmd.coord x.reg 2 + k) (r.cmd.coord x.reg 3) with
    | none => .ok r ()
    | some va => runWrite r va e v
  | 1, _ => scratchWrite r ((r.cmd.layout (BitVec.ofNat 7 x.reg)).at e i j k) e v
  | _, _ =>
    let rc := r.cmd.region (BitVec.ofNat 7 x.reg)
    faceWrite r (rc.row0 + j) (4 * rc.col0 + i * e) e v

/-- BANKCONF of the issuing spindle counts the extra cycles of one run of an endpoint. -/
def countRun (r : Run) (x : End) (e n j k : Nat) : Run :=
  if x.kind != 1 then r
  else
    let l := r.cmd.layout (BitVec.ofNat 7 x.reg)
    r.countRun e ((List.range n).map (fun i => l.at e i j k))

def runCpy (r : Run) (d a b : Reg) (dk sk : BitVec 2) (esz : BitVec 3) : RunAns Unit :=
  let n := shapeOf (r.cmd.sd b.toNat)
  let e := 2 ^ esz.toNat
  let r := { r with cmd := { r.cmd with bytes := n.1 * n.2.1 * n.2.2 * e } }
  (runEnd r dk d e).andThen (fun r dst =>
    (runEnd r sk a e).andThen (fun r src =>
      runLoop n.2.2 r () (fun k r _ =>
        runLoop n.2.1 r () (fun j r _ =>
          (runLoop n.1 r () (fun i r _ => (runElemRead r src e i j k).andThen (fun r v => runElemWrite r dst e i j k v))).andThen (fun r _ =>
            .ok (countRun (countRun r src e n.1 j k) dst e n.1 j k) ())))))

end Sys2Proof.Machine
end

