-- ==== Sys2Proof/Machine/Streams.lean ====
section
/-! DEFINITION. The posting-list engine: cursors over posting lists, joins, fused streams and top-k heaps (10 R226-R250;
01 R20). -/

namespace Sys2Proof.Machine

open Sys2Proof

-- Blocks (R226-R229)

def hdrFirst (h : BitVec 128) : Nat := (h.extractLsb' 0 40).toNat
def hdrDw (h : BitVec 128) : Nat := (h.extractLsb' 40 6).toNat
def hdrIw (h : BitVec 128) : Nat := (h.extractLsb' 46 5).toNat
def hdrCount (h : BitVec 128) : Nat := (h.extractLsb' 56 8).toNat
def hdrSpan (h : BitVec 128) : Nat := (h.extractLsb' 64 32).toNat
def hdrMax (h : BitVec 128) : Nat := (h.extractLsb' 96 16).toNat
def hdrLast (h : BitVec 128) : Nat := hdrFirst h + hdrSpan h
/-- The checks of a block header (R229). -/
def hdrBad (h : BitVec 128) (prev : Option Nat) : Bool :=
  h.extractLsb' 51 5 != 0#5 || h.extractLsb' 112 16 != 0#16 || decide (32 < hdrDw h) || decide (16 < hdrIw h) || hdrCount h == 0 || decide (128 < hdrCount h) ||
  decide (0xFF_FFFF_FFFF ≤ hdrLast h) || prev.any (fun d => decide (hdrFirst h ≤ d))

-- Cursors (R230, R231)

def cursorFind (s : State) (core n : Nat) : Option Cursor := s.cursors.find? (fun c => c.core == core && c.num == n && !c.saved)
def putCursor (s : State) (c : Cursor) : State :=
  { s with cursors := s.cursors.map (fun x => if x.core == c.core && x.num == c.num && !x.saved then c else x) }
def dropCursor (s : State) (core n : Nat) : State := { s with cursors := s.cursors.filter (fun x => !(x.core == core && x.num == n && !x.saved)) }
/-- The lowest free cursor of a core. -/
def freeCursor (s : State) (core : Nat) : Option Nat := (List.range Config.cursorCount).find? (fun n => (cursorFind s core n).isNone)
/-- The cursor that a stream register named at issue. -/
def Cmd.cursorNum (c : Cmd) (k : Nat) : Nat := bitsOf (cellGet c.kregs k).toNat 0 6

/-- The stream registers that a command's operands name, as a mask. -/
def streamMask : Instr → BitVec 8
  | .sopen _ d _ _ _ => BitVec.ofNat 8 (2 ^ d.toNat)
  | .sadv _ _ a => BitVec.ofNat 8 (2 ^ a.toNat)
  | .sseek _ _ a _ => BitVec.ofNat 8 (2 ^ a.toNat)
  | .sjoin _ _ _ kmask _ _ => kmask
  | _ => 0#8
/-- The stream register by which a command names a cursor. -/
def Cmd.streamReg (c : Cmd) (num : Nat) : Nat :=
  ((List.range 8).find? (fun k => (streamMask c.instr).getLsbD k && (cellGet c.kregs k).getLsbD 7 && c.cursorNum k == num)).getD 0

def Run.put (r : Run) (c : Cursor) : Run := { r with s := putCursor r.s c }
/-- A command fault that a cursor met: the cursor is FAILED (R230, R235). -/
def cursorFault {α : Type} (r : Run) (c : Cursor) (cause : BitVec 8) (addr : Nat) : RunAns α := .fault (r.put { c with st := .failed }) cause addr
/-- STREAM_META at the cursor's block, with the stream register that names it (R229). -/
def streamMeta {α : Type} (r : Run) (c : Cursor) : RunAns α := cursorFault r c 0x15#8 (blockField (r.cmd.streamReg c.num) c.b)
/-- A fault of a read leaves the cursor FAILED. -/
def guardCursor {α : Type} (c : Cursor) (x : RunAns α) : RunAns α :=
  match x with
  | .fault r cause addr => cursorFault r c cause addr
  | x => x

/-- Reads list metadata: none when it lies in a marked sector of an error-tolerant page, so that the block is skipped
(R235). -/
def runMeta (r : Run) (c : Cursor) (va : DWord) (n : Nat) : RunAns (Option Nat) :=
  (guardCursor c (runPieces r va n c.lc.toNat r.cmd.acq)).andThen (fun r ps =>
    let hits := ps.filter (fun p => marksHit p.2.2.2.1 (byteMask (offOf p.1) p.2.2.1) != 0#4)
    if hits.any (fun p => !leafET p.2.2.2.2) then streamMeta r c
    else if !hits.isEmpty then .ok r none
    else .ok r (some (ps.foldl (fun a p => a ||| lineBytesGet p.2.2.2.1.data (offOf p.1) p.2.2.1 <<< (8 * p.2.1)) 0)))

/-- METASKIP counts a block that is skipped (R235). -/
def countSkip (r : Run) : Run := { r with s := r.s.modTeam r.cmd.team (fun t => { t with metaskip := satAdd t.metaskip 1 }) }

/-- `enter(b)` (R234, R235, R240): END after the last block; blocks of poisoned metadata on error-tolerant pages are skipped. DESIGN CHOICE (log
entry 110): the list header is read once, by `SOPEN`, and the cursor's NB serves the blocks after it (R230). -/
def enterBlock : Nat → Run → Cursor → Nat → RunAns Cursor
  | 0, r, c, _ => .ok r { c with st := .atEnd }
  | fuel + 1, r, c, b =>
    let c := { c with b := b, i := 0, packed := false, docs := [], impacts := 0, impBad := [] }
    if c.nb ≤ b then .ok r { c with st := .atEnd }
    else
      (runMeta r c (c.base + BitVec.ofNat 64 (16 + 8 * b)) 8).andThen (fun r d =>
        match d with
        | none => enterBlock fuel (countSkip r) c (b + 1)
        | some d =>
          let off := bitsOf d 0 48
          if bitsOf d 48 16 != 0 || off % 16 != 0 then streamMeta r c
          else
            (runMeta r c (c.base + BitVec.ofNat 64 off) 16).andThen (fun r h =>
              match h with
              | none => enterBlock fuel (countSkip r) c (b + 1)
              | some h =>
                let h := BitVec.ofNat 128 h
                if hdrBad h c.lastDoc then streamMeta r c else .ok r { c with off := off, hdr := h, st := .ready }))

/-- Leaves a block that was processed for the next one. -/
def nextBlock (r : Run) (c : Cursor) : RunAns Cursor := enterBlock (c.nb - c.b + 1) r { c with lastDoc := some (hdrLast c.hdr) } (c.b + 1)

/-- The documents of a block (R228). -/
def decodeDocs (h : BitVec 128) (delta : Nat) : List Nat :=
  (List.range (hdrCount h - 1)).foldl (fun l i => l ++ [l.getLastD 0 + 1 + bitsOf delta (hdrDw h * (i + 1)) (hdrDw h)]) [hdrFirst h]

/-- The packed areas of the cursor's block are read, once per visit (R234); a poisoned delta area on an error-tolerant page
skips the block (R235). -/
def packBlock : Nat → Run → Cursor → RunAns Cursor
  | 0, r, c => .ok r { c with st := .atEnd }
  | fuel + 1, r, c =>
    if c.packed || c.st != .ready then .ok r c
    else
      let a := c.base + BitVec.ofNat 64 (c.off + 16)
      let h := c.hdr
      (if hdrDw h = 0 then .ok r (some 0) else runMeta r c a (16 * hdrDw h)).andThen (fun r delta =>
        match delta with
        | none => (enterBlock (c.nb - c.b + 1) (countSkip r) c (c.b + 1)).andThen (fun r c => packBlock fuel r c)
        | some delta =>
          let docs := decodeDocs h delta
          (if hdrIw h = 0 then .ok r [] else guardCursor c (runPieces r (a + BitVec.ofNat 64 (16 * hdrDw h)) (16 * hdrIw h) c.lc.toNat r.cmd.acq)).andThen (fun r ps =>
            let bad := ps.flatMap (fun p => (List.range 4).filterMap (fun k =>
              if (marksHit p.2.2.2.1 (byteMask (offOf p.1) p.2.2.1)).getLsbD k then some (p.1.toNat / 128 * 4 + k, leafET p.2.2.2.2) else none))
            let imp := ps.foldl (fun a p => a ||| lineBytesGet p.2.2.2.1.data (offOf p.1) p.2.2.1 <<< (8 * p.2.1)) 0
            if docs.getLastD 0 != hdrLast h then streamMeta r c
            else .ok r { c with packed := true, docs := docs, impacts := imp, impBad := bad }))
def packCursor (r : Run) (c : Cursor) : RunAns Cursor := packBlock (c.nb - c.b + 1) r c

/-- The cursor's document: posting 0 needs no packed area (R234). -/
def curDoc (r : Run) (c : Cursor) : RunAns (Cursor × Nat) :=
  if c.st != .ready || c.i = 0 then .ok r (c, hdrFirst c.hdr)
  else (packCursor r c).andThen (fun r c => .ok r (c, if c.i = 0 then hdrFirst c.hdr else c.docs.getD c.i 0))

/-- The impact of the cursor's posting, its packed areas read: its poison is consumed and BMAX checked (R229, R235). -/
def useImpact (r : Run) (c : Cursor) : RunAns Nat :=
  let w := hdrIw c.hdr
  if w = 0 then .ok r (hdrMax c.hdr)
  else
    let a := c.base.toNat + c.off + 16 + 16 * hdrDw c.hdr
    let secs := (List.range ((a + (w * c.i + w - 1) / 8) / 32 - (a + w * c.i / 8) / 32 + 1)).map (fun j => (a + w * c.i / 8) / 32 + j)
    let hits := c.impBad.filter (fun x => secs.contains x.1)
    let addr := (((hits.filter (fun x => !x.2)).map (·.1)).headD 0) * 32
    if hits.any (fun x => !x.2) then (if r.team.rollb then .poison r (BitVec.ofNat 64 addr) else cursorFault r c 0x10#8 addr)
    else
      let r := { r with subst := hits.foldl (fun l x => addSubst l (eaOf r.who.asid c.base) (x.1 / 4 % 2 ^ 50) (BitVec.ofNat 4 (2 ^ (x.1 % 4)))) r.subst }
      let v := if hits.isEmpty then bitsOf c.impacts (w * c.i) w else 0
      if hdrMax c.hdr < v then streamMeta r c else .ok r v

/-- step() of R240. -/
def stepCursor (r : Run) (c : Cursor) : RunAns Cursor :=
  if c.st != .ready then .ok r c
  else if c.i + 1 < hdrCount c.hdr then .ok r { c with i := c.i + 1 }
  else nextBlock r c

/-- The loop of `SSEEK` (R240): forward to the first document at or above x. -/
def seekCursor (x : Nat) : Nat → Run → Cursor → RunAns Cursor
  | 0, r, c => .ok r c
  | fuel + 1, r, c =>
    if c.st != .ready then .ok r c
    else
      (curDoc r c).andThen (fun r y =>
        let c := y.1
        if c.st != .ready || x ≤ y.2 then .ok r c
        else (if hdrLast c.hdr < x then nextBlock r c else stepCursor r c).andThen (fun r c => seekCursor x fuel r c))
/-- Passes that a cursor has left at most. -/
def cursorFuel (c : Cursor) : Nat := (c.nb - c.b + 1) * 129

/-- The posting value at the cursor (R237). -/
def postingAt (r : Run) (c : Cursor) : RunAns (Cursor × Nat) :=
  (packCursor r c).andThen (fun r c =>
    if c.st == .atEnd then .ok r (c, 0xFFFF_FFFF_FFFF_FFFF)
    else (useImpact r c).andThen (fun r v => .ok r (c, v <<< 40 ||| c.docs.getD c.i 0)))

-- SOPEN, SCLOSE, SADV, SSEEK, STEND (R236-R241)

/-- The stream register is not VALID (01 R20). -/
def kInvalid (sp : Spindle) (k : Nat) : Bool := !(sp.getK k).getLsbD 7

/-- `SOPEN` (R238). -/
def execSopen (p : Pfx) (d a : Reg) (lc sp : BitVec 3) (s : State) : Host.Outcome State Fault Refusal :=
  let i : Instr := .sopen p d a lc sp
  issue i p 1 s (fun x s => withFlag s false (fun s f =>
    let me := s.spindle s.cur.sp
    let base := me.getSD a.toNat
    if queueFull s me.core .ple then .stall none
    else if !kInvalid me d.toNat then .bad 0x02#8 0#64
    else if base.toNat % 16 != 0 then .bad 0x08#8 base
    else
      match freeCursor s me.core with
      | none => .done (s.modSp s.cur.sp (fun y => y.setPred sp.toNat x 0#32))
      | some n =>
        let c : Cursor := { core := me.core, num := n, rank := me.crank, team := me.team, sp := s.cur.sp, base := base, nb := 0, lc := lc, b := 0, i := 0, off := 0,
                            hdr := 0#128, packed := false, docs := [], impacts := 0, impBad := [], lastDoc := none, st := .ready, closing := false, saved := false }
        let cmd := newCmd s i .ple x
        let k := BitVec.ofNat 8 (128 + n)
        let s := { s.modSp s.cur.sp (fun y => (y.setPred sp.toNat x (BitVec.allOnes 32)).setK d.toNat k) with cursors := s.cursors ++ [c] }
        .done (acceptCmd s { cmd with kregs := cellSet cmd.kregs d.toNat k } f)))

/-- A command on the cursor of kA. -/
def cursorCommand (i : Instr) (p : Pfx) (a : Reg) (s : State) (edit : State → State) : Host.Outcome State Fault Refusal :=
  command i p 1 .ple s (fun _ sp _ => [(kInvalid sp a.toNat, 0x02#8)]) (fun x f s => .done (edit (acceptCmd s (newCmd s i .ple x) f)))

/-- `SCLOSE` (R239): VALID clears at issue. -/
def execSclose (p : Pfx) (a : Reg) (s : State) : Host.Outcome State Fault Refusal :=
  cursorCommand (.sclose p a) p a s (fun s =>
    let n := bitsOf ((s.spindle s.cur.sp).getK a.toNat).toNat 0 6
    let s := { s with cursors := s.cursors.map (fun (c : Cursor) => if c.core == (s.spindle s.cur.sp).core && c.num == n && !c.saved then { c with closing := true } else c) }
    s.modSp s.cur.sp (fun sp => sp.setK a.toNat (sp.getK a.toNat &&& 0x7F#8)))

/-- `SADV` (R240). -/
def execSadv (p : Pfx) (d a : Reg) (s : State) : Host.Outcome State Fault Refusal := cursorCommand (.sadv p d a) p a s id

/-- `SSEEK` (R240). -/
def execSseek (p : Pfx) (d a : Reg) (x : BitVec 6) (s : State) : Host.Outcome State Fault Refusal := cursorCommand (.sseek p d a x) p a s id

/-- `STEND` (R241). -/
def execStend (p : Pfx) (d a : Reg) (s : State) : Host.Outcome State Fault Refusal := cursorCommand (.stend p d a) p a s id

/-- Runs k on the cursor that a stream register named; a command on a cursor that is gone does nothing. -/
def onCursor (r : Run) (k : Nat) (f : Run → Cursor → RunAns Unit) : RunAns Unit :=
  match cursorFind r.s r.cmd.core (r.cmd.cursorNum k) with
  | none => .ok r ()
  | some c => f r c

/-- `SOPEN`'s command (R238). A marked list header is STREAM_META on every page (R235). -/
def runSopen (r : Run) (k : Nat) : RunAns Unit :=
  onCursor r k (fun r c =>
    if c.base == 0#64 then .ok (r.put { c with st := .atEnd }) ()
    else
      (runMeta r c c.base 16).andThen (fun r v =>
        match v with
        | none => streamMeta r c
        | some v =>
          if bitsOf v 32 96 != 0 then streamMeta r c
          else
            let c := { c with nb := bitsOf v 0 32 }
            (enterBlock (c.nb + 1) r c 0).andThen (fun r c => .ok (r.put c) ())))

/-- `SADV` and `SSEEK` (R240): the move, then the posting value into sdD at completion. -/
def runMove (r : Run) (d : Reg) (k : Nat) (x : Option Nat) : RunAns Unit :=
  onCursor r k (fun r c =>
    if c.st == .failed then streamMeta r c
    else
      (match x with
        | none => stepCursor r c
        | some x => seekCursor x (cursorFuel c) r c).andThen (fun r c =>
        (postingAt r c).andThen (fun r y =>
          let r := r.put y.1
          .ok { r with cmd := { r.cmd with swrites := [(d.toNat, BitVec.ofNat 32 y.2), (d.toNat + 1, BitVec.ofNat 32 (y.2 >>> 32))] } } ())))

/-- `STEND` (R241). -/
def runStend (r : Run) (d : Reg) (k : Nat) : RunAns Unit :=
  onCursor r k (fun r c => .ok { r with cmd := { r.cmd with pwrite := some (d.toNat, c.st != .ready) } } ())

-- Streams in scratchpad (R242, R243)

/-- The checks of a stream operand at issue: a window of 16 + capacity × size bytes. -/
def streamChecks (sp : Spindle) (t : Team) (r : Reg) (size : Nat) : List (Bool × BitVec 8) :=
  genericChecks t (sp.getS r.toNat) 16 (16 + (sp.getS (r.toNat + 1)).toNat * size)
/-- The checks of a dense stream (R243). -/
def denseChecks (sp : Spindle) (t : Team) (r : Reg) : List (Bool × BitVec 8) :=
  let n := (sp.getS (r.toNat + 2)).toNat
  genericChecks t (sp.getS r.toNat) 8 (8 * n) ++ genericChecks t (sp.getS (r.toNat + 1)) 4 (4 * n)
/-- The header of an input stream: its COUNT, or RESERVED_FIELD. -/
def runStreamHead (r : Run) (reg : Reg) : RunAns Nat :=
  let o := (r.cmd.s reg.toNat).toNat
  (scratchRead r o 16).andThen (fun r v =>
    if (r.cmd.s (reg.toNat + 1)).toNat < bitsOf v 0 32 || bitsOf v 33 95 != 0 then .fault r 0x02#8 o else .ok r (bitsOf v 0 32))

/-- `SJOIN` (R244). -/
def execSjoin (p : Pfx) (d a : Reg) (kmask : BitVec 8) (mode : Bool) (t : CmdTail) (s : State) : Host.Outcome State Fault Refusal :=
  plainCommand (.sjoin p d a kmask mode t) p .ple s (fun s sp tm =>
    [(kmask == 0#8 || t.rel || (List.range 8).any (fun k => kmask.getLsbD k && kInvalid sp k), 0x02#8)] ++ streamChecks sp tm d 8 ++ barChecks s sp.team t)

/-- Replaces cursor j of a list. -/
def putAt (l : List Cursor) (j : Nat) (c : Cursor) : List Cursor := l.set j c

/-- Moves the chosen cursors to their first posting with a document at or above x. -/
def seekAll (r : Run) (cs : List Cursor) (x : Nat) (f : Cursor → Nat → Bool) (docs : List Nat) : RunAns (List Cursor) :=
  runList (enumFrom 0 cs) r cs (fun y r acc =>
    if y.2.st == .ready && f y.2 (docs.getD y.1 0) then (seekCursor x (cursorFuel y.2) r y.2).andThen (fun r c => .ok (r.put c) (putAt acc y.1 c)) else .ok r acc)

/-- A pass of the join loop of R245: the cursors, the entries written and TRUNC; the flag says that the loop goes on. DESIGN CHOICE (log entry 111):
where a matching cursor's block is skipped while its impact is fetched (R235), the pass starts again. -/
def joinPass (r : Run) (all : Bool) (theta o cap : Nat) (cs : List Cursor) (n : Nat) : RunAns (List Cursor × Nat × Bool × Bool) :=
  (runList (enumFrom 0 cs) r (cs, []) (fun y r acc => (curDoc r y.2).andThen (fun r z => .ok (r.put z.1) (putAt acc.1 y.1 z.1, acc.2 ++ [z.2])))).andThen (fun r x =>
    let cs := x.1
    let docs := x.2
    let live := (enumFrom 0 cs).filter (fun y => y.2.st == .ready)
    let cur (j : Nat) : Nat := docs.getD j 0
    if live.isEmpty || (all && live.length != cs.length) then .ok r (cs, n, false, false)
    else
      let e := live.foldl (fun a y => min a (hdrLast y.2.hdr)) (2 ^ 41)
      let u := live.foldl (fun a y => if cur y.1 ≤ e then a + hdrMax y.2.hdr else a) 0
      if theta != 0 && u < theta then (seekAll r cs (e + 1) (fun _ _ => true) docs).andThen (fun r cs => .ok r (cs, n, false, true))
      else
        let d := if all then live.foldl (fun a y => max a (cur y.1)) 0 else live.foldl (fun a y => min a (cur y.1)) (2 ^ 41)
        if all && live.any (fun y => decide (cur y.1 < d)) then (seekAll r cs d (fun _ c => decide (c < d)) docs).andThen (fun r cs => .ok r (cs, n, false, true))
        else
          let at' := live.filter (fun y => cur y.1 == d)
          (runList at' r (cs, false) (fun y r acc => (packCursor r y.2).andThen (fun r c => .ok (r.put c) (putAt acc.1 y.1 c, acc.2 || c.b != y.2.b || c.st != .ready)))).andThen (fun r z =>
            let cs := z.1
            if z.2 then .ok r (cs, n, false, true)
            else
              (runList at' r 0 (fun y r sc => (useImpact r (cs.getD y.1 y.2)).andThen (fun r v => .ok r (sc + v)))).andThen (fun r sc =>
                (runList at' r cs (fun y r acc => (stepCursor r (acc.getD y.1 y.2)).andThen (fun r c => .ok (r.put c) (putAt acc y.1 c)))).andThen (fun r cs =>
                  if sc < theta then .ok r (cs, n, false, true)
                  else if n = cap then .ok r (cs, n, true, false)
                  else (scratchWrite r (o + 16 + 8 * n) 8 (d ||| sc <<< 40)).andThen (fun r _ => .ok r (cs, n + 1, false, true))))))

/-- The join loop. -/
def joinLoop (all : Bool) (theta o cap : Nat) : Nat → Run → List Cursor → Nat → RunAns (List Cursor × Nat × Bool)
  | 0, r, cs, n => .ok r (cs, n, false)
  | fuel + 1, r, cs, n =>
    (joinPass r all theta o cap cs n).andThen (fun r x =>
      if x.2.2.2 then joinLoop all theta o cap fuel r x.1 x.2.1 else .ok r (x.1, x.2.1, x.2.2.1))

/-- `SJOIN`'s command (R245): the header is written last, and every named cursor stands at END. -/
def runSjoin (r : Run) (d a : Reg) (kmask : BitVec 8) (mode : Bool) : RunAns Unit :=
  let o := (r.cmd.s d.toNat).toNat
  let cap := (r.cmd.s (d.toNat + 1)).toNat
  let theta := (r.cmd.s a.toNat).toNat
  let cs := ((List.range 8).filter (fun k => kmask.getLsbD k)).filterMap (fun k => cursorFind r.s r.cmd.core (r.cmd.cursorNum k))
  let r := { r with cmd := { r.cmd with bytes := 16 + 8 * cap } }
  match cs.find? (fun c => c.st == .failed) with
  | some c => streamMeta r c
  | none =>
    (joinLoop (!mode) theta o cap (cs.foldl (fun a c => a + 2 * cursorFuel c) 1) r cs 0).andThen (fun r x =>
      let r := x.1.foldl (fun (r : Run) c => r.put { c with st := .atEnd }) r
      scratchWrite r o 16 (x.2.1 ||| boolNat x.2.2 <<< 32))

-- SFUSE and STOPK (R246-R249)

/-- `SFUSE` (R246). -/
def execSfuse (p : Pfx) (d a b : Reg) (al be : BitVec 6) (t : CmdTail) (s : State) : Host.Outcome State Fault Refusal :=
  plainCommand (.sfuse p d a b al be t) p .ple s (fun s sp tm => streamChecks sp tm d 16 ++ streamChecks sp tm a 8 ++ denseChecks sp tm b ++ barChecks s sp.team t)

/-- The FP32 value of a lexical score: exact (R247). -/
def lexScore (v : Nat) : Nat := (fmt32.ofInt false .rne v).1

/-- One output entry of the fused stream at a time (R247): `i`, `j` count the inputs, `pl`, `pd` are the documents before. -/
def fuseLoop (al be o cap la nl da sa nd : Nat) : Nat → Run → Nat → Nat → Nat → Option Nat → Option Nat → RunAns (Nat × Bool)
  | 0, r, _, _, n, _, _ => .ok r (n, false)
  | fuel + 1, r, i, j, n, pl, pd =>
    if nl ≤ i && nd ≤ j then .ok r (n, false)
    else
      (if i < nl then (scratchRead r (la + 16 + 8 * i) 8).andThen (fun r v => .ok r (some v)) else .ok r none).andThen (fun r l =>
        (if j < nd then (scratchRead r (da + 8 * j) 8).andThen (fun r v => .ok r (some v)) else .ok r none).andThen (fun r x =>
          if x.any (fun v => bitsOf v 40 24 != 0) then .fault r 0x02#8 (da + 8 * j)
          else
            let dl := l.map (fun v => bitsOf v 0 40)
            if (match dl, pl with
              | some d, some q => decide (d ≤ q)
              | _, _ => false) then .fault r 0x15#8 (la + 16 + 8 * i)
            else if (match x, pd with
              | some d, some q => decide (d ≤ q)
              | _, _ => false) then .fault r 0x15#8 (da + 8 * j)
            else
              let d := min (dl.getD (2 ^ 41)) (x.getD (2 ^ 41))
              let tl := dl == some d
              let tx := x == some d
              (if tx then scratchRead r (sa + 4 * j) 4 else .ok r 0).andThen (fun r sc =>
                let ls := if tl then lexScore (bitsOf (l.getD 0) 40 24) else 0
                let pr := (fmt32.mul false .rne (fmt32.read false al) (fmt32.read false ls)).1
                let v := (fmt32.fma false .rne (fmt32.read false be) (fmt32.read false sc) (fmt32.read false pr)).1
                if n = cap then .ok r (n, true)
                else
                  (scratchWrite r (o + 16 + 16 * n) 16 (d ||| v <<< 64)).andThen (fun r _ =>
                    fuseLoop al be o cap la nl da sa nd fuel r (if tl then i + 1 else i) (if tx then j + 1 else j) (n + 1) (if tl then dl else pl) (if tx then x else pd)))))

/-- `SFUSE`'s command (R247). -/
def runSfuse (r : Run) (d a b : Reg) (al be : BitVec 6) : RunAns Unit :=
  let v (g : Nat) : Nat := (r.cmd.s g).toNat
  let cap := v (d.toNat + 1)
  let r := { r with cmd := { r.cmd with bytes := 16 + 16 * cap } }
  (runStreamHead r a).andThen (fun r nl =>
    let nd := v (b.toNat + 2)
    (fuseLoop (v al.toNat) (v be.toNat) (v d.toNat) cap (v a.toNat) nl (v b.toNat) (v (b.toNat + 1)) nd (nl + nd + 1) r 0 0 0 none none).andThen (fun r x =>
      scratchWrite r (v d.toNat) 16 (x.1 ||| boolNat x.2 <<< 32)))

/-- `STOPK` (R246, R249). -/
def execStopk (p : Pfx) (d a : Reg) (kind final : Bool) (t : CmdTail) (s : State) : Host.Outcome State Fault Refusal :=
  plainCommand (.stopk p d a kind final t) p .ple s (fun s sp tm =>
    let k := (sp.getS (d.toNat + 1)).toNat
    [(k == 0 || decide (1024 < k), 0x02#8)] ++ genericChecks tm (sp.getS d.toNat) 16 (16 + 16 * k) ++ streamChecks sp tm a (if kind then 16 else 8) ++ barChecks s sp.team t)

/-- The place of a score in the order of R248. -/
def scoreKey (v : Nat) : Nat :=
  if (fmt32.read false v).isNan then 0 else if v.testBit 31 then 2 ^ 31 - bitsOf v 0 31 else 2 ^ 31 + 1 + bitsOf v 0 31
/-- x ranks above y (R248). -/
def ranksAbove (x y : Nat × Nat) : Bool := decide (scoreKey y.2 < scoreKey x.2) || (scoreKey x.2 == scoreKey y.2 && decide (x.1 < y.1))

/-- Entry i of the heap at o: document and score. -/
def heapGet (r : Run) (o i : Nat) : RunAns (Nat × Nat) := (scratchRead r (o + 16 + 16 * i) 16).andThen (fun r v => .ok r (bitsOf v 0 40, bitsOf v 64 32))
def heapSet (r : Run) (o i : Nat) (x : Nat × Nat) : RunAns Unit := scratchWrite r (o + 16 + 16 * i) 16 (x.1 ||| x.2 <<< 64)

/-- up(i) (R249). -/
def heapUp (o : Nat) : Nat → Run → Nat → RunAns Unit
  | 0, r, _ => .ok r ()
  | fuel + 1, r, i =>
    if i = 0 then .ok r ()
    else
      let q := (i - 1) / 2
      (heapGet r o q).andThen (fun r a => (heapGet r o i).andThen (fun r b =>
        if ranksAbove a b then (heapSet r o q b).andThen (fun r _ => (heapSet r o i a).andThen (fun r _ => heapUp o fuel r q)) else .ok r ()))

/-- down(i) (R249). -/
def heapDown (o n : Nat) : Nat → Run → Nat → RunAns Unit
  | 0, r, _ => .ok r ()
  | fuel + 1, r, i =>
    let c := 2 * i + 1
    if n ≤ c then .ok r ()
    else
      (heapGet r o c).andThen (fun r a =>
        (if c + 1 < n then (heapGet r o (c + 1)).andThen (fun r b => .ok r (if ranksAbove a b then (c + 1, b) else (c, a))) else .ok r (c, a)).andThen (fun r y =>
          (heapGet r o i).andThen (fun r h =>
            if ranksAbove h y.2 then (heapSet r o i y.2).andThen (fun r _ => (heapSet r o y.1 h).andThen (fun r _ => heapDown o n fuel r y.1)) else .ok r ())))

/-- Inserts before the first entry that it ranks above. -/
def insertRank (x : Nat × Nat) (l : List (Nat × Nat)) : List (Nat × Nat) :=
  match l with
  | [] => [x]
  | a :: rest => if ranksAbove x a then x :: a :: rest else a :: insertRank x rest

/-- `STOPK`'s command (R249). DESIGN CHOICE (log entry 112): the reserved field that faults is the header's alone. -/
def runStopk (r : Run) (d a : Reg) (kind final : Bool) : RunAns Unit :=
  let o := (r.cmd.s d.toNat).toNat
  let k := (r.cmd.s (d.toNat + 1)).toNat
  let r := { r with cmd := { r.cmd with bytes := 16 + 16 * k } }
  (scratchRead r o 16).andThen (fun r h =>
    if bitsOf h 32 96 != 0 || k < bitsOf h 0 32 then .fault r 0x02#8 o
    else
      (runStreamHead r a).andThen (fun r n =>
        (runLoop n r (bitsOf h 0 32) (fun e r count =>
          (scratchRead r ((r.cmd.s a.toNat).toNat + 16 + (if kind then 16 else 8) * e) (if kind then 16 else 8)).andThen (fun r v =>
            let sc := bitsOf v 64 32
            let x : Nat × Nat := (bitsOf v 0 40, if kind then (if (fmt32.read false sc).isNan then fmt32.nan else sc) else lexScore (bitsOf v 40 24))
            if count < k then (heapSet r o count x).andThen (fun r _ => (heapUp o 32 r count).andThen (fun r _ => .ok r (count + 1)))
            else (heapGet r o 0).andThen (fun r h0 =>
              if ranksAbove x h0 then (heapSet r o 0 x).andThen (fun r _ => (heapDown o count 32 r 0).andThen (fun r _ => .ok r count)) else .ok r count)))).andThen (fun r count =>
          (if final then
            (runLoop count r [] (fun i r acc => (heapGet r o i).andThen (fun r x => .ok r (insertRank x acc)))).andThen (fun r l =>
              runList (enumFrom 0 l) r () (fun y r _ => heapSet r o y.1 y.2))
           else .ok r ()).andThen (fun r _ => scratchWrite r o 16 (count ||| boolNat final <<< 32)))))

end Sys2Proof.Machine
end

