-- ==== Sys2Proof/Machine/Commands.lean ====
section
/-! DEFINITION. The start and the completion of engine commands: the ranges that make two commands conflict, the run of
each command, what it comes to, and its results (08 R183-R192; 09 R223, R225; 10 R232; 11 R252, R267). -/

namespace Sys2Proof.Machine

open Sys2Proof

-- The ranges of R190

/-- A scratchpad window at the address in a register. -/
def Cmd.window (c : Cmd) (r : Reg) (n : Nat) (w : Bool) : CRange := .scr (c.s r.toNat).toNat ((c.s r.toNat).toNat + n) w
/-- A stream operand's window (10 R242). -/
def Cmd.stream (c : Cmd) (r : Reg) (size : Nat) (w : Bool) : CRange := c.window r (16 + (c.s (r.toNat + 1)).toNat * size) w

/-- An endpoint of `CPY`. -/
def Cmd.endRange (c : Cmd) (kind : BitVec 2) (r : Reg) (e : Nat) (n : Nat × Nat × Nat) (w : Bool) : List CRange :=
  match kind.toNat with
  | 0 => []
  | 1 => let x := (c.layout r).span e n.1 n.2.1 n.2.2
    [.scr x.1 x.2 w]
  | _ => [.face (c.region r) w]

/-- The lowest and the highest byte that n rows can touch in the scratchpad, of 8,192 bytes at most each (08 R204): under a permutation, which stays
within 4 × 2^MODE bytes (R196), the words near a row's ends decide. -/
def rowsSpan (l : Layout) (n : Nat) : Nat × Nat :=
  let near := 2 ^ l.mode
  let xs := List.range near ++ (List.range near).map (fun x => 2047 - x)
  (List.range n).foldl (fun (a : Nat × Nat) p => xs.foldl (fun a x => (min a.1 (rowWord l p x), max a.2 (rowWord l p x + 4))) a)
    (rowWord l 0 0, rowWord l 0 0 + 4)

/-- The local rows and the index list of a gather or scatter. -/
def Cmd.gatherRanges (c : Cmd) (loc list : Reg) (face w : Bool) : List CRange :=
  let n := (c.s (list.toNat + 1)).toNat
  let lst : CRange := c.window list (8 * n) false
  if face then [.face (c.region loc) w, lst]
  else if n = 0 then []
  else
    let x := rowsSpan (c.layout loc) n
    [.scr x.1 x.2 w, lst]

/-- The regions and the area of a factorisation (09 R225). -/
def Cmd.facRanges (c : Cmd) : List CRange :=
  match facOf c.instr c.s with
  | none => []
  | some f =>
    [.face f.rc true] ++ (if f.solves || f.opk == 5 then [.face f.x true] else []) ++ (if f.area = 0 then [] else [.scr f.o (f.o + f.area) true])

/-- The cursor that a stream register named. -/
def Cmd.cursorRange (c : Cmd) (k : Reg) (w : Bool) : CRange := .cursor (c.cursorNum k.toNat) w

/-- What a command reads and writes of its core (R190, 10 R232). -/
def cmdRanges (c : Cmd) : List CRange :=
  match c.instr with
  | .mma _ d a _ _ amode _ _ _ => [.face (c.region a) amode, .face (c.region d) true]
  | .tld _ d _ _ => [.face (c.region d) true]
  | .tst _ d _ _ => [.face (c.region d) false]
  | .cpy _ d a b dk sk esz _ =>
    let n := shapeOf (c.sd b.toNat)
    c.endRange dk d (2 ^ esz.toNat) n true ++ c.endRange sk a (2 ^ esz.toNat) n false
  | .gathf _ d _ b lk _ => c.gatherRanges d b lk true
  | .scatf _ d _ b lk _ _ => c.gatherRanges d b lk false
  | .sopen _ d _ _ _ => [c.cursorRange d true]
  | .sclose _ a => [c.cursorRange a true]
  | .sadv _ _ a => [c.cursorRange a true]
  | .sseek _ _ a _ => [c.cursorRange a true]
  | .stend _ _ a => [c.cursorRange a false]
  | .sjoin _ d _ kmask _ _ =>
    c.stream d 8 true :: ((List.range 8).filter (fun k => kmask.getLsbD k)).map (fun k => .cursor (c.cursorNum k) true)
  | .sfuse _ d a b _ _ _ =>
    let n := (c.s (b.toNat + 2)).toNat
    let o (r : Nat) : Nat := (c.s r).toNat
    [c.stream d 16 true, c.stream a 8 false, .scr (o b.toNat) (o b.toNat + 8 * n) false, .scr (o (b.toNat + 1)) (o (b.toNat + 1) + 4 * n) false]
  | .stopk _ d a kind _ _ => [c.stream d 16 true, c.stream a (if kind then 16 else 8) false]
  | _ => c.facRanges

-- Starting (R190, R192, 10 R232)

/-- Commands earlier in the core's order that still stand. -/
def earlierCmds (s : State) (c : Cmd) : List Cmd :=
  (s.cmds.takeWhile (fun d => d.id != c.id)).filter (fun d => d.core == c.core && d.team == c.team && !d.saved)

/-- The state of the team lets the command go on: one that has started runs to completion before a context save (R192). -/
def teamLets (s : State) (c : Cmd) : Bool :=
  match (s.team c.team).st with
  | .running => true
  | .suspending => c.st != .queued
  | _ => false

/-- The engines that run one command of a core at a time. -/
def Engine.single : Engine → Bool
  | .ple => true
  | .matrix => true
  | _ => false

/-- The command's conflicts are clear (R190), and it has an access to make. -/
def cmdClear (s : State) (c : Cmd) : Bool :=
  c.st != .ran && !c.saved &&
    !(earlierCmds s c).any (fun d => rangesMeet (cmdRanges c) (cmdRanges d) || (c.engine == .spawn && d.engine == .spawn))

/-- The command can start, or be tried again after a wait: an engine that runs one command at a time takes the earliest whose conflicts are clear
(09 R207; 10 R232). -/
def startable (s : State) (c : Cmd) : Bool :=
  let same (d : Cmd) : Bool := d.core == c.core && d.engine == c.engine && d.id != c.id && !d.saved
  cmdClear s c && c.page.isNone &&
    !(c.engine.single && (s.cmds.any (fun d => same d && d.st != .queued) ||
      (c.st == .queued && (s.cmds.takeWhile (fun d => d.id != c.id)).any (fun d => same d && teamLets s d && cmdClear s d))))

/-- A factorisation command, which a context save stops between steps (09 R223). -/
def isFactor : Instr → Bool
  | .flu .. => true
  | .fchol .. => true
  | .fqr .. => true
  | .ftrs .. => true
  | .fupd .. => true
  | _ => false

/-- The spawn engine places the command's threads; those without room stay with the command (11 R253). -/
def runSpawn (r : Run) : RunAns Bool :=
  match placeThreads r.s r.cmd r.cmd.threads with
  | .ok s rest => .ok { r with s := s, cmd := { r.cmd with threads := rest } } rest.isEmpty
  | .bad s c _ => .fault { r with s := s } c 0
  | .absent s ea pg => .absent s ea pg
  | .wait h => .wait h

/-- The work of a command. Answers whether it has ended. -/
def runCmd (r : Run) (steps : Nat) : RunAns Bool :=
  let whole (x : RunAns Unit) : RunAns Bool := x.andThen (fun r _ => .ok r true)
  match r.cmd.instr with
  | .mma _ d a _ fmt amode zc tr _ => whole (runMma r d a fmt.toNat amode zc tr.toNat)
  | .tld _ d a _ => whole (runTld r d a false)
  | .tst _ d a _ => whole (runTld r d a true)
  | .cpy _ d a b dk sk esz _ => whole (runCpy r d a b dk sk esz)
  | .gathf _ d a b lk _ => whole (runGathf r d a b lk)
  | .scatf _ d a b lk rop _ => whole (runScatf r d a b lk rop)
  | .sopen _ d _ _ _ => whole (runSopen r d.toNat)
  | .sadv _ d a => whole (runMove r d a.toNat none)
  | .sseek _ d a x => whole (runMove r d a.toNat (some ((r.cmd.sd x.toNat).toNat % 2 ^ 40)))
  | .stend _ d a => whole (runStend r d a.toNat)
  | .sjoin _ d a kmask mode _ => whole (runSjoin r d a kmask mode)
  | .sfuse _ d a b al be _ => whole (runSfuse r d a b al be)
  | .stopk _ d a kind final _ => whole (runStopk r d a kind final)
  | .launch _ _ a _ => whole (runLaunch r a)
  | .spawn .. => runSpawn r
  | .spawno .. => runSpawn r
  | i => if isFactor i then runFactor r steps else .ok r true

/-- Puts a command in place of its earlier form. -/
def putCmd (s : State) (c : Cmd) : State := { s with cmds := s.cmds.map (fun d => if d.id == c.id then c else d) }

/-- A mark stands that the command could meet. -/
def marksStand (s : State) (t : Nat) : Bool :=
  !(s.team t).facePoison.isEmpty || !(s.team t).scratchPoison.isEmpty || !s.mem.marks.isEmpty || s.mem.home.any (fun h => h.line.poison != 0#4) ||
    s.mem.l1.any (fun x => x.line.poison != 0#4) || s.mem.buf.any (fun b => b.line.poison != 0#4)
/-- The state without those marks. -/
def withoutMarks (s : State) (t : Nat) : State :=
  let clean (x : Line) : Line := { x with poison := 0#4 }
  (s.modTeam t (fun x => { x with facePoison := [], scratchPoison := [] })).modMem (fun m => { m with
    marks := [], home := m.home.map (fun h => { h with line := clean h.line }), l1 := m.l1.map (fun x => { x with line := clean x.line }),
    buf := m.buf.map (fun b => { b with line := clean b.line }) })
/-- Cursors that a command names are FAILED after a fault that its own run did not find: an error in the engine's state, or a page that cannot be made
resident (10 R230, R235). DESIGN CHOICE (log entry 62): every cursor of a join fails then. -/
def failCursors (s : State) (c : Cmd) : State :=
  let ns := (cmdRanges c).filterMap (fun x => match x with
    | .cursor n true => some n
    | _ => none)
  { s with cursors := s.cursors.map (fun x => if x.core == c.core && !x.saved && ns.contains x.num then { x with st := .failed } else x) }

/-- A factorisation whose fault its own run did not find leaves neither ACTIVE nor SACTIVE set for a run that could resume (09 R224). -/
def endActive (s : State) (c : Cmd) : State :=
  match facOf c.instr c.s with
  | none => s
  | some f =>
    let k := faceKey c.rank f.rc.row0 (4 * f.rc.col0)
    let fl := bytesGet (s.team c.team).face k 1
    match f.resumeAt { Run.init s c with s := withoutMarks s c.team } with
    | .ok _ (some _) => s.modTeam c.team (fun t => { t with face := bytesSet t.face k 1 (fl &&& (if f.solves then 1 else 2)) })
    | _ => s

/-- A command fault that the command's own run did not find (08 R186). -/
def failCommand (s : State) (c : Cmd) (cause : BitVec 8) (addr : Nat) : State := commandFault (endActive (failCursors s c) c) c cause addr

/-- The elements of a tile that a window of a region takes: address and length. -/
def tileWindow (r : Run) (ref : Nat) (rc : Rect) : List (DWord × Nat) :=
  match runTile r ref with
  | .ok r t =>
    let u := unitBytes t.fmt
    let c (d : Nat) : Nat := r.cmd.coord ref d
    (List.range (rc.rows - boolNat t.hdr)).flatMap (fun row => (List.range (rc.width / u)).filterMap (fun x =>
      (t.addr (c 0 + (if isMx t.fmt then 32 * x else x)) (c 1 + row) (c 2) (c 3)).map (fun va => (va, u))))
  | _ => []

/-- The global source window of a command that reads it through the L1 (R189). -/
def sourceWindow (r : Run) : List (DWord × Nat) :=
  match r.cmd.instr with
  | .mma _ _ a _ _ true _ tr _ => tileWindow r tr.toNat (r.cmd.region a)
  | .tld _ d a _ => tileWindow r a.toNat (r.cmd.region d)
  | .cpy _ _ a b _ sk esz _ =>
    let n := shapeOf (r.cmd.sd b.toNat)
    (match runEnd r sk a (2 ^ esz.toNat) with
      | .ok r { kind := 0, reg := ref, tile := some t } =>
        (List.range n.1).flatMap (fun i => (List.range n.2.1).flatMap (fun j => (List.range n.2.2).filterMap (fun k =>
          (t.addr (r.cmd.coord ref 0 + i) (r.cmd.coord ref 1 + j) (r.cmd.coord ref 2 + k) (r.cmd.coord ref 3)).map (fun va => (va, 2 ^ esz.toNat)))))
      | _ => [])
  | .gathf _ d a b lk _ =>
    (match (runGather r d a b lk).andThen (fun r g => (runIndices r b).andThen (fun r xs => .ok r (g, xs))) with
      | .ok r (g, xs) => xs.filterMap (fun x => (g.place x).bind (fun y => if y.1 = r.s.devnum.toNat then some (y.2, g.rowBytes) else none))
      | _ => [])
  | _ => []

/-- ACQ (R189): before its first read a command ends the issuing core's unowned copies of every line in its source window. A run that starts again
after a wait has read nothing yet. -/
def acquireStart (s : State) (c : Cmd) : State :=
  if !c.acq then s
  else
    let asid := (s.teamWho c.team).asid
    let lines := ((sourceWindow (Run.init s c)).flatMap (fun x => (linePieces x.1 x.2).map (fun p => (eaOf asid p.1, lnOf p.1))))
    invLines s (fun x => x.core == c.core && lines.contains (x.ea, x.ln))

/-- A command's run begins: where marks stand, the writes that it will make tell its last write to each sector (21 R434). -/
def startRun (s : State) (c : Cmd) (steps : Nat) : Run :=
  let r := Run.init s c
  if !marksStand s c.team then r
  else
    match runCmd { r with s := withoutMarks r.s c.team } steps with
    | .ok x _ => { r with plan := x.done }
    | .fault x _ _ => { r with plan := x.done }
    | _ => r

/-- COMMAND_START: the engine performs the command's reads and writes (R190). A page that is absent undoes the run, which
starts again once the page is served. `steps`: a factorisation stops after that many steps, in time for a context save that reaches it; one that a
context save has reached completes one step at most, and counts as not started (09 R223). -/
def onCommandStart (id steps : Nat) (s : State) : Option State :=
  match s.cmds.find? (fun c => c.id == id) with
  | none => none
  | some c =>
    let s := acquireStart s c
    if !startable s c || !teamLets s c || (steps != 0 && !isFactor c.instr) then none
    else
      let steps := if (s.team c.team).st == .suspending && isFactor c.instr then 1 else steps
      match runCmd (startRun s c steps) steps with
      | .ok r true =>
        let r := r.settle
        some (putCmd (runRelease r) { r.cmd with st := .ran, written := if r.cmd.remote.isEmpty then [] else r.done })
      | .ok r false =>
        let r := r.settle
        if isFactor c.instr then
          some (putCmd r.s { r.cmd with st := if (s.team c.team).st == .suspending then .queued else .started, parts := c.parts ++ r.cmd.parts, written := r.done })
        else some (tickState (putCmd r.s { r.cmd with st := .started, parts := [] }))
      | .fault r cause addr =>
        let r := r.settle
        some (commandFault r.s { r.cmd with parts := c.parts ++ r.cmd.parts } cause addr)
      | .absent s' ea pg => some (putCmd (s.withReqs s'.mem.reqs) { c with st := .started, page := some (ea, pg) })
      | .wait h => some (waitStep (putCmd s { c with st := .started }) s.mem.reqs h)
      | .poison r va => some (poisonTeam r.settle.s c.team c.snap.spidx c.snap.pc va)

/-- `onCommandStart`, where the state brings it about. -/
def execCommandStart (id steps : Nat) (s : State) : Host.Outcome State Fault Refusal := happens s (onCommandStart id steps s)

-- Completion (R188)

/-- The command has made its last access and nothing is owed to it. -/
def completable (s : State) (c : Cmd) : Bool :=
  (match c.st with
    | .ran => true
    | _ => false) && !c.saved && c.page.isNone && c.remote.isEmpty && (s.team c.team).st.holds

/-- The distributor queues a `LAUNCH`'s record; the launch number goes to its sd pair (11 R267). -/
def completeLaunch (s : State) (c : Cmd) : State × Cmd :=
  match c.instr, c.launch with
  | .launch _ d a _, some r =>
    let q := queueLaunch s (s.team c.team).part r (c.sd a.toNat) (dieOfCore c.core) c.priv false (some (c.sp, c.snap))
    (q.1, { c with swrites := [(d.toNat, BitVec.ofNat 32 q.2), (d.toNat + 1, BitVec.ofNat 32 (q.2 >>> 32))] })
  | _, _ => (s, c)

/-- COMMAND_COMPLETION: results, the arrival at the barrier, and the fall of the flag counts (R188). -/
def onCommandCompletion (id : Nat) (s : State) : Option State :=
  match s.cmds.find? (fun c => c.id == id) with
  | none => none
  | some c =>
    if !completable s c then none
    else
      let (s, c) := completeLaunch s c
      let s := if (s.spindle c.sp).st == .ended then s else s.modSp c.sp (c.results (fun _ => true))
      let s := match c.instr with
        | .sclose _ a => dropCursor s c.core (c.cursorNum a.toNat)
        | _ => s
      let s := match c.bar with
        | none => s
        | some n => nbarArrive s c.team n c.bytes
      some (evalBarriers (dropCmd s c) c.team)

/-- `onCommandCompletion`, where the state brings it about. -/
def execCommandCompletion (id : Nat) (s : State) : Host.Outcome State Fault Refusal := happens s (onCommandCompletion id s)

end Sys2Proof.Machine
end

