-- ==== Sys2Proof/Machine/Lanes.lean ====
section
/-! DEFINITION. The device's own steps for lanes, spindles and the caches of a core: header waits, completions, fetches,
trap delivery, the end of a spindle, dormancy, monitors, leases and home requests (01 R38; 03 R74-R76, R463; 05 R123;
07 R151, R170, R171; 11 R269; 12 R288-R291; 13 R303-R306; 18 R389). -/

namespace Sys2Proof.Machine

open Sys2Proof

/-- The spindle holds a slot and its team runs. -/
def State.active (s : State) (i : Nat) : Bool := (s.spindle i).st == .resident && (s.teamOf i).st == .running

/-- What a device access answers an event: the next state, or a wait. -/
def Got.event {α : Type} (x : Got α) (s0 : State) (bad : State → State) (k : State → α → State) : Option State :=
  match x with
  | .ok s a => some (k s a)
  | .bad s _ _ => some (bad s)
  | .absent s _ _ => some (waitStep s0 s.mem.reqs none)
  | .wait h => some (waitStep s0 s0.mem.reqs h)

-- Headers and completions (03 R74-R76; 07 R151)

/-- The flags that a header word waits on. -/
def waitOf (h : Word) : BitVec 12 := fld h 9 12

/-- Lanes of a spindle stopped at a header whose flags read clear. -/
def waitOver (s : State) (i : Nat) : LaneMask :=
  let sp := s.spindle i
  maskBy (fun l => (match (sp.lane l).st with
    | .header => true
    | _ => false) && (match (fetchWord s i (sp.lane l).pc).2 with
    | .word h => waitClear sp (waitOf h)
    | _ => true))

/-- CLAUSE_WAIT_RELEASE: fragments stopped at a header become able to issue (R74). -/
def onClauseWaitRelease (sp : Nat) (s : State) : Option State :=
  let m := waitOver s sp
  if m == 0#32 || !s.active sp then none
  else some (s.modLanes sp m (fun _ y => { y with st := .eligible }))

/-- `onClauseWaitRelease`, where the state brings it about. -/
def execClauseWaitRelease (sp : Nat) (s : State) : Host.Outcome State Fault Refusal := happens s (onClauseWaitRelease sp s)

/-- A flag-A operation ends: its results are written, but not those of lanes that have exited, and its count falls (R75,
R76; 05 R122). -/
def completeOp (s : State) (o : PendingOp) : State :=
  let s := { s with ops := s.ops.filter (fun x => x.id != o.id) }
  let s := s.modSp o.sp (fun sp => clearRegPoison (o.results (fun _ => true) sp) ((o.writes.map (fun x => x.1 / 32)).foldl insertNat []) (o.lanes &&& sp.live))
  discharge s o.sp o.flag

/-- OPERATION_COMPLETION (R75, R76). -/
def onOperationCompletion (id : Nat) (s : State) : Option State :=
  match s.ops.find? (fun o => o.id == id) with
  | none => none
  | some o => some (completeOp s o)

/-- `onOperationCompletion`, where the state brings it about. -/
def execOperationCompletion (id : Nat) (s : State) : Host.Outcome State Fault Refusal := happens s (onOperationCompletion id s)

/-- HOLDING_INSTRUCTION_COMPLETION: the lanes held with this one go on at the word after theirs (R151); a `REGSHRINK` gives its
chunks back once f0-f11 read clear (11 R263). -/
def onHoldingInstructionCompletion (sp lane : Nat) (s : State) : Option State :=
  let x := s.spindle sp
  let y := x.lane lane
  let same (h : Hold) : LaneMask := maskBy (fun l => (x.lane l).st == .held h && (x.lane l).pc == y.pc)
  if !s.active sp then none
  else
    match y.st with
    | .held (.completing len) =>
      some (s.modLanes sp (same (.completing len)) (fun _ y => { y with st := .eligible, pc := y.pc + BitVec.ofNat 64 len * 4#64, stamp := s.clock.cycle }))
    | .held (.regshrink k id) =>
      if x.flagsClear then some (freeLanes (shrinkBy s sp k) sp (same (.regshrink k id)))
      else none
    | _ => none

/-- `onHoldingInstructionCompletion`, where the state brings it about. -/
def execHoldingInstructionCompletion (sp lane : Nat) (s : State) : Host.Outcome State Fault Refusal := happens s (onHoldingInstructionCompletion sp lane s)

-- Fetches (03 R463; 18 R389; 12 R288-R291)

/-- INSTRUCTION_FETCH: the words of the chain of a lane's fragment are fetched; an absent page parks the lanes, and a fetch
that cannot succeed raises its cause (R463). -/
def onInstructionFetch (sp lane : Nat) (s : State) : Option State :=
  let x := s.spindle sp
  if !s.active sp || !(x.lane lane).st.canIssue then none
  else
    let el := x.lanesIn LaneSt.canIssue
    let pc := (x.lane lane).pc
    let here : Issue := { sp := sp, lanes := (fragmentOf x el lane).1, pc := pc, w0 := 0#32, w1 := 0#32, chained := false, more := false, rest := [], clear := false }
    let back (t : State) : State := { t with cur := s.cur }
    match fetchChain { s with cur := here } sp 3 pc with
    | (s, .words _) => some (back s)
    | (s, .bad c a r) => some (back (fetchFault s c a r))
    | (s, .absent ea pg a r) => some (back (absentFragment s ea pg a r))
    | (_, .wait h) => some (waitStep s s.mem.reqs h)

/-- `onInstructionFetch`, where the state brings it about. -/
def execInstructionFetch (sp lane : Nat) (s : State) : Host.Outcome State Fault Refusal := happens s (onInstructionFetch sp lane s)

/-- The partition that runs a context on a core; easid 0 is global. -/
def partFor (s : State) (core ea : Nat) : Option Partition :=
  s.parts.find? (fun p => p.started && p.pavs.contains (pavOfCore core) && (ea == 0 || p.asid.toNat == ea))

/-- RIGHTS_MISS_RETURN: the walk of a page answers a core's rights cache (R389). -/
def onRightsMissReturn (core easid va : Nat) (s : State) : Option State :=
  let page := va % 2 ^ 57 / 4096
  match partFor s core easid with
  | none => none
  | some p =>
    if (rightsFind s.mem core easid page).isSome then none
    else some (rightsMiss s core p.pnum easid page).1

/-- `onRightsMissReturn`, where the state brings it about. -/
def execRightsMissReturn (core easid va : Nat) (s : State) : Host.Outcome State Fault Refusal := happens s (onRightsMissReturn core easid va s)

/-- A vector line arrives in the register cache with its marks, held for the chain that waits for it. What an open transaction would restore of a
register that it has not written is what memory held (14 R322). -/
def putVectorLine (s : State) (sp reg v : Nat) (marks : BitVec 4) : State :=
  let w (l : Nat) : Word := BitVec.ofNat 32 (unpack v 4 l)
  let s := s.modSp sp (fun y =>
    { y with
      v := cellSets (cellDrop y.v (32 * reg) 32) ((List.range 32).map (fun l => (32 * reg + l, w l))),
      vpoison := cellSet y.vpoison reg marks,
      want := y.want.filter (· != reg),
      lanes := (enumFrom 0 y.lanes).map (fun x =>
        { x.2 with txn := x.2.txn.map (fun (k : Txn) => if k.chkRegs.contains reg then k else { k with chkV := cellSet k.chkV reg (w x.1) }) }) })
  let s := rcUse s sp [reg] false
  { s with rcache := s.rcache.map (fun x => if x.sp == sp && x.reg == reg then { x with gathered := some (s.spindle sp).wantPc } else x) }

/-- REGISTER_LINE_FETCH: an absent line that the spindle's next chain waits for is fetched, once there is room for it (R288, R290, R291). -/
def onRegisterLineFetch (sp reg : Nat) (s : State) : Option State :=
  let x := s.spindle sp
  if !s.active sp || !x.want.contains reg || x.vcount ≤ reg || rcHas s sp reg then none
  else
    let wait (t : State) : State := waitStep s t.mem.reqs none
    ((rcRoom s x.core 1).andThen (fun s _ => devReadLine s (s.who sp) (s.vectorVa sp reg))).event s wait (fun s v => putVectorLine s sp reg v.1 v.2)

/-- `onRegisterLineFetch`, where the state brings it about. -/
def execRegisterLineFetch (sp reg : Nat) (s : State) : Host.Outcome State Fault Refusal := happens s (onRegisterLineFetch sp reg s)

-- Traps (11 R269)

/-- TRAP_DELIVERY: the spindle stops issuing until its flags read clear; then the handler starts, or the team is killed; a frame that cannot be
reached yet makes it wait (R269). -/
def onTrapDelivery (sp : Nat) (s : State) : Option State :=
  if !trapBegins s sp then none
  else if !(s.spindle sp).flagsClear then
    if (s.spindle sp).stopped then none else some (s.modSp sp (fun x => { x with stopped := true }))
  else
    let t := takeTrap s sp
    some (if (t.spindle sp).inHandler || (t.spindle sp).st == .ended || (t.spindle sp).pendMask == 0#32 then t else tickState t)

/-- `onTrapDelivery`, where the state brings it about. -/
def execTrapDelivery (sp : Nat) (s : State) : Host.Outcome State Fault Refusal := happens s (onTrapDelivery sp s)

-- The end of a spindle (05 R123)

/-- Cursors of spindle i close (10 R230). -/
def closeCursors (s : State) (i : Nat) : State := { s with cursors := s.cursors.filter (fun c => c.sp != i) }

/-- SPINDLE_END: a spindle without live lanes and with clear flags ends (R123). -/
def onSpindleEnd (sp : Nat) (s : State) : Option State :=
  let x := s.spindle sp
  if x.st != .resident || x.inHandler || x.live != 0#32 || !x.flagsClear || !(s.team x.team).st.holds then none
  else
    let fin (s : State) : State :=
      let s := s.modSp sp (fun y => y.finish)
      evalBarriers (if (s.team x.team).rollb then s else freeEnded s x.team) x.team
    (writeImage (closeCursors s sp) sp).event s fin (fun s _ => fin s)

/-- `onSpindleEnd`, where the state brings it about. -/
def execSpindleEnd (sp : Nat) (s : State) : Host.Outcome State Fault Refusal := happens s (onSpindleEnd sp s)

-- Dormancy and monitors (07 R170, R171)

/-- SPINDLE_DORMANT: every live lane waits at `WAITC` and the flags are clear; the image goes to memory and the slot is free
(R171). -/
def onSpindleDormant (sp : Nat) (s : State) : Option State :=
  let x := s.spindle sp
  let ok := s.active sp && !x.inHandler && x.live != 0#32 && x.live == x.lanesIn LaneSt.isWaiting && x.flagsClear && x.pendMask == 0#32
  if !ok then none
  else
    let fin (s : State) : State := s.modSp sp (fun y => { y with st := .dormant })
    (writeImage s sp).event s fin (fun s _ => fin s)

/-- `onSpindleDormant`, where the state brings it about. -/
def execSpindleDormant (sp : Nat) (s : State) : Host.Outcome State Fault Refusal := happens s (onSpindleDormant sp s)

/-- The monitor of a lane of the program, while a handler runs or not. -/
def progLane (s : State) (i l : Nat) : Lane := (s.spindle i).progLanes.getD l Lane.blank

/-- A waiting lane goes on with value v: at once in a slot, or as a recorded release (R171; 11 R272). -/
def releaseWaiter (s : State) (i l : Nat) (m : Monitor) (v : Nat) : State :=
  let s := modProg s i l (fun y => { y with rel := some { pc := y.pc + 8#64, val := some (BitVec.ofNat 64 v) }, monitor := some m })
  let sp := s.spindle i
  if sp.inHandler || sp.st != .resident then s else applyRelease s i l

/-- Poison under the watched word: the waiting lane faults at its `WAITC` (21 R433). -/
def faultWaiter (s : State) (i l : Nat) (m : Monitor) (rights : BitVec 16) : State :=
  let sp := s.spindle i
  let y := progLane s i l
  let prog : Spindle := match sp.trapped with
    | some t => { sp with wpart := t.wpart }
    | none => sp
  let r : LaneRec := { cause := 0x10#8, defer := false, pending := true, chained := y.chained, acc := accField (if m.w64 then 3 else 2) false false,
                       wpart := prog.wpartOf l, rights := rights, pc := y.pc, addr := m.va, tissue := m.tissue, tdetect := s.clock.ns }
  let s := modProg s i l (fun y => { y with st := .parked, monitor := none, record := some r, pendingTrap := true, tcause := 0x10#9, tcode := 0#7 })
  if sp.inHandler then rcvEvalProg s i else rcvEvalAll s i

/-- The marked sector of a waiting lane's word reads as zero: SUBSTCNT counts it once for the lanes of one `WAITC` (21 R435). -/
def noteSubst (s : State) (i : Nat) (y : Lane) (m : Monitor) : State :=
  let same (z : Lane) : Bool := z.pc == y.pc && z.stamp == y.stamp && z.monitor.any (fun k => k.ea == m.ea && k.va.toNat / 32 == m.va.toNat / 32)
  if m.counted then s
  else
    (List.range 32).foldl (fun s l => modProg s i l (fun z => if same z then { z with monitor := z.monitor.map (fun (k : Monitor) => { k with counted := true }) } else z))
      (countSubst s (s.spindle i).team 1)

/-- The watched word of a waiting lane is read at its home; none when its compare does not hold and nothing is to count (R170). What the binding
table's state does to the acquire of the release is log entry 108. -/
def tryMonitor (s : State) (i l : Nat) : Got (Option State) :=
  let y := progLane s i l
  match y.st, y.monitor, y.rel with
  | .waiting, some m, none =>
    let w := s.who i
    let n := if m.w64 then 8 else 4
    let need := byteMask (offOf m.va) n
    match homeRead s w m.ea (lnOf m.va) need 1 with
    | .ok s h =>
      let hit := marksHit h.line need
      let leaf := match rightsOf s w.core w.pn m.ea (pageOf m.va) with
        | (_, .leaf e) => some e
        | _ => none
      let et := leaf.any leafET
      if hit != 0#4 && !et then
        .ok s (some (if (s.teamOf i).rollb then poisonTeam s w.team (s.spindle i).idx y.pc m.va else faultWaiter s i l m (rightsField leaf { r := true, w := false, x := false } false false)))
      else
        let v := lineBytesGet (zeroMarked h.line hit) (offOf m.va) n
        let fresh := hit != 0#4 && !m.counted
        let s := if fresh then noteSubst s i y m else s
        if !monitorHolds m v then .ok s (if fresh then some s else none)
        else
          match (if m.acq then acquireBound s i m.va m.scope else .ok s ()) with
          | .ok s _ => .ok s (some (releaseWaiter s i l m v))
          | .bad s c _ =>
            .ok s (some (if c == 0x10#8 && (s.teamOf i).rollb then poisonTeam s w.team (s.spindle i).idx y.pc m.va else releaseWaiter s i l m v))
          | .absent s ea pg => .absent s ea pg
          | .wait h => .wait h
    | .bad s c r => .bad s c r
    | .absent s ea pg => .absent s ea pg
    | .wait h => .wait h
  | _, _, _ => .ok s none

/-- Monitors of a suspended team are not registered. -/
def watches (s : State) (i : Nat) : Bool := (s.spindle i).st != .suspended && (s.spindle i).st != .ended && (s.teamOf i).st.holds

/-- MONITOR_RELEASE: a waiting lane whose word satisfies its compare goes on (R170). -/
def onMonitorRelease (sp lane : Nat) (s : State) : Option State :=
  if !watches s sp then none
  else
    match tryMonitor s sp lane with
    | .ok _ (some t) => some t
    | .ok _ none => none
    | .bad t _ _ => some (waitStep s t.mem.reqs none)
    | .absent t _ _ => some (waitStep s t.mem.reqs none)
    | .wait h => some (waitStep s s.mem.reqs h)

/-- `onMonitorRelease`, where the state brings it about. -/
def execMonitorRelease (sp lane : Nat) (s : State) : Host.Outcome State Fault Refusal := happens s (onMonitorRelease sp lane s)

/-- The (spindle, lane) pairs that watch lines of a slice. -/
def watchers (s : State) (die slice : Nat) : List (Nat × Nat) :=
  (List.range s.spindles.length).flatMap (fun i =>
    if !watches s i then []
    else (enumFrom 0 (s.spindle i).progLanes).filterMap (fun x => match x.2.monitor with
      | some m => if x.2.st.isWaiting && x.2.rel.isNone && homeDie s m.ea (lnOf m.va) == die && sliceOf m.ea (lnOf m.va) == slice then some (i, x.1) else none
      | none => none))
/-- Distinct (spindle, line) pairs among them. -/
def monitorsUsed (s : State) (ws : List (Nat × Nat)) : Nat :=
  (ws.foldl (fun (acc : List (Nat × Nat)) w => match (progLane s w.1 w.2).monitor with
    | some m => if acc.contains (w.1, m.ea * 2 ^ 50 + lnOf m.va) then acc else (w.1, m.ea * 2 ^ 50 + lnOf m.va) :: acc
    | none => acc) []).length
/-- A lane watches a line of host memory. -/
def watchesHost (s : State) (w : Nat × Nat) : Bool :=
  match (progLane s w.1 w.2).monitor with
  | some m => (linePa s m.ea (lnOf m.va)).any (fun pa => decide (Config.hostBase ≤ pa))
  | none => false

/-- MONITOR_RECHECK: every 2,048 ns a slice whose table is full, or that watches host memory, reads the watched words again
(R170). -/
def onMonitorRecheck (die slice : Nat) (s : State) : Option State :=
  let ws := watchers s die slice
  if s.clock.ns % 2048 != 0 || !(Config.monitorCount ≤ monitorsUsed s ws || ws.any (watchesHost s)) then none
  else
    some (tickState (ws.foldl (fun s w =>
      match tryMonitor s w.1 w.2 with
      | .ok _ (some t) => t
      | .ok t none => t
      | .bad t _ _ => t
      | .absent t _ _ => s.withReqs t.mem.reqs
      | .wait h => s.askBack h) s))

/-- `onMonitorRecheck`, where the state brings it about. -/
def execMonitorRecheck (die slice : Nat) (s : State) : Host.Outcome State Fault Refusal := happens s (onMonitorRecheck die slice s)

/-- A dormant spindle has something to run or to deliver. -/
def wakes (sp : Spindle) : Bool := sp.lanes.any (fun y => y.rel.isSome || y.pendingTrap || !(y.st == .exited || y.st == .waiting))

/-- DORMANT_RETURN: the spindle takes a slot on the core of its rank; its image comes back with its edits, but for the PCs,
and the recorded releases take effect (R171). A marked uniform chunk is the team's (12 R291; 21 R441): the PC is its lowest live lane's (log entry 118). -/
def onDormantReturn (sp : Nat) (s : State) : Option State :=
  let x := s.spindle sp
  match freePlace s x.core with
  | none => none
  | some (quad, slot) =>
    if x.st != .dormant || !wakes x || (s.team x.team).st != .running then none
    else
      let pc := (x.lane (lowestLane x.live)).pc
      (readImage s sp).event s (fun s => poisonTeam s x.team x.idx pc (s.imageVa sp)) (fun s (u, v) =>
        match markedSector (s.imageVa sp) u with
        | some va => poisonTeam s x.team x.idx pc va
        | none =>
          let s := s.modSp sp (fun y =>
            let z := applyImage y (u.map (·.1)) v
            { z with st := .resident, quad := quad, slot := slot,
                     lanes := (enumFrom 0 z.lanes).map (fun l => { l.2 with pc := (y.lane l.1).pc }) })
          rcvEvalAll ((List.range 32).foldl (fun s l => applyRelease s sp l) (tookSlot s sp)) sp)

/-- `onDormantReturn`, where the state brings it about. -/
def execDormantReturn (sp : Nat) (s : State) : Host.Outcome State Fault Refusal := happens s (onDormantReturn sp s)

-- Copies and homes (13 R303-R306)

/-- LEASE_EXPIRY: the lease of an unowned copy has ended; dirty bytes of the core's own stay (R306). -/
def onLeaseExpiry (core easid line : Nat) (s : State) : Option State :=
  match l1Find s.mem core easid line with
  | none => none
  | some x =>
    if x.owned || x.serves s.clock.ns || (x.line.dirty != 0#128 && x == x.ownOnly) then none
    else if x.line.dirty == 0#128 then some (s.modMem (fun m => l1Del m core easid line))
    else some (s.modMem (fun m => l1Put m x.ownOnly))

/-- `onLeaseExpiry`, where the state brings it about. -/
def execLeaseExpiry (core easid line : Nat) (s : State) : Host.Outcome State Fault Refusal := happens s (onLeaseExpiry core easid line s)

/-- A team whose requests a core sends under a context. -/
def teamOn (s : State) (core ea : Nat) : Option Nat :=
  (List.range s.teams.length).find? (fun t => (s.team t).st.holds && (s.team t).ranks.contains core && (ea == 0 || (s.part (s.team t).part).asid.toNat == ea))

/-- HOME_OWNERSHIP_REQUEST: a home serves a core's read of a whole line, or its request for ownership, for an access that
the rights allow (R304). -/
def onHomeOwnershipRequest (core easid line : Nat) (own : Bool) (s : State) : Option State :=
  match teamOn s core easid with
  | none => none
  | some t =>
    let w : Who := { s.teamWho t with core := core }
    match checkPage s w easid (pageOfLn line) { r := !own, w := own, x := false } false with
    | .ok s1 e =>
      if own && leafClass e = 0 then none
      else
        (if own then (match l1Own s1 w easid line with
            | .ok s _ => (.ok s () : Got Unit)
            | .bad s c r => .bad s c r
            | .absent s ea pg => .absent s ea pg
            | .wait h => .wait h)
         else (match l1Read s1 w easid line (BitVec.allOnes 128) (min 3 (leafLcap e)) 1 with
            | .ok s _ => .ok s ()
            | .bad s c r => .bad s c r
            | .absent s ea pg => .absent s ea pg
            | .wait h => .wait h)).event s id (fun s _ => s)
    | _ => none

/-- `onHomeOwnershipRequest`, where the state brings it about. -/
def execHomeOwnershipRequest (core easid line : Nat) (own : Bool) (s : State) : Host.Outcome State Fault Refusal := happens s (onHomeOwnershipRequest core easid line own s)

/-- HOME_WRITEBACK: the dirty bytes of a core's line merge into its home (R303). -/
def onHomeWriteback (core easid line : Nat) (s : State) : Option State :=
  match l1Find s.mem core easid line with
  | none => none
  | some x => if x.line.dirty == 0#128 then none else some (writeBack s core easid line)

/-- `onHomeWriteback`, where the state brings it about. -/
def execHomeWriteback (core easid line : Nat) (s : State) : Host.Outcome State Fault Refusal := happens s (onHomeWriteback core easid line s)

end Sys2Proof.Machine
end

