-- ==== Sys2Proof/Machine/Suspend.lean ====
section
/-! DEFINITION. The context of a team in memory: the context record, the save areas, suspension and resumption, the end of
a team and the halt of a partition (12 R294, R300; 14 R334; 17 R367-R379; 22 R452, R453). -/

namespace Sys2Proof.Machine

open Sys2Proof

/-- A device write that its page refuses is lost; the device goes on. -/
def Got.lossy (x : Got Unit) : Got Unit :=
  match x with
  | .bad s _ _ => .ok s ()
  | r => r

/-- A device action over a list, one after another. -/
def overList {α : Type} (l : List α) (s : State) (f : State → α → Got Unit) : Got Unit :=
  l.foldl (fun r a => r.andThen (fun s _ => f s a)) (.ok s ())

/-- Positions of a team's spindles, by rising spindle index. -/
def State.teamSpindles (s : State) (t : Nat) : List Nat :=
  sortBy (fun i => (s.spindle i).idx) ((List.range s.spindles.length).filter (fun i => (s.spindle i).team == t && (s.spindle i).st != .ended))

-- The context record (R370)

/-- A named barrier's field. -/
def NBar.bytes16 (b : NBar) : Nat :=
  (if b.init then b.expected else 0) ||| atByte 2 b.arrived ||| atByte 4 (b.bytes.toNat % 2 ^ 48) ||| atByte 10 (boolNat b.phase)

/-- Members of group n that have arrived. -/
def groupArrived (s : State) (t n : Nat) : Nat :=
  match groupMask s t n with
  | .ok s m => ((s.liveSpindles t).filter (fun i => m.testBit (s.spindle i).idx && (s.spindle i).hasArrived (.gbar n))).length
  | _ => 0

/-- Bytes 0 to 0x33F of the record, with a STATE code. -/
def contextHead (s : State) (t code : Nat) : Nat :=
  let x := s.team t
  (0x0100_0000 ||| code) ||| atByte 4 (x.idx % 2 ^ 24) ||| atByte 8 (s.launchOf t).num ||| atByte 16 x.cores ||| atByte 17 x.prio.toNat |||
    atByte 18 x.nspin ||| atByte 20 x.share ||| atByte 24 x.tiles ||| atByte 26 (dieOfPav x.pav) ||| atByte 27 x.pav ||| atByte 32 x.tsusp |||
    atByte 40 x.tres ||| atByte 48 x.spawntimer.toNat ||| atByte 52 x.substcnt.toNat ||| atByte 56 x.metaskip.toNat ||| atByte 60 x.tbcount |||
    atByte 0x40 (packBytes 16 (x.nbars.map NBar.bytes16)) |||
    (heldGroups s t).foldl (fun acc n => acc ||| atByte (0x140 + 2 * n) (groupArrived s t n)) 0

/-- A fresh record, 64 KiB: no kill, no spindle index in use, and the reserved bytes zero. -/
def contextFresh (s : State) (t : Nat) : Nat := contextHead s t 1 ||| atByte 0x440 (2 ^ 32768 - 1)

-- The save areas (R356)

/-- A 128-byte unit of a share or of a faceplate row: its address in the save area and its first key. -/
structure SaveUnit where
  va : DWord
  face : Bool
  key : Nat
  deriving DecidableEq, Repr

def saveUnits (s : State) (t : Nat) : List SaveUnit :=
  let x := s.team t
  let areas := (s.launchRec t).areas
  let sbase := x.arenaBase + 65536#64
  let fbase := x.arenaBase + BitVec.ofNat 64 (65536 * (1 + areas.getD 1 0))
  (List.range x.cores).flatMap (fun r => (List.range (x.share / 128)).map (fun k =>
    { va := sbase + BitVec.ofNat 64 (r * x.share + 128 * k), face := false, key := scratchKeyOf r (128 * k) })) ++
  (List.range x.cores).flatMap (fun r => (List.range (8 * x.tiles)).map (fun k =>
    { va := fbase + BitVec.ofNat 64 (r * x.tiles * 1024 + 128 * k), face := true, key := faceKey r 0 0 + 128 * k }))

def marksAt (l : List Nat) (key : Nat) : BitVec 4 :=
  BitVec.ofNat 4 ((List.range 4).foldl (fun acc i => if l.contains (key / 32 + i) then acc ||| 2 ^ i else acc) 0)

/-- Shares and rows go to the save areas with their marks. -/
def writeShares (s : State) (t : Nat) : Got Unit :=
  let x := s.team t
  overList (saveUnits s t) s (fun s u =>
    (if u.face then devWriteLine s (s.teamWho t) u.va (bytesGet x.face u.key 128) (marksAt x.facePoison u.key)
     else devWriteLine s (s.teamWho t) u.va (bytesGet x.scratch u.key 128) (marksAt x.scratchPoison u.key)).lossy)

/-- Cells of a line that comes back. -/
def lineCells (key v : Nat) : List (Nat × Byte) := (List.range 128).map (fun i => (key + i, BitVec.ofNat 8 (v >>> (8 * i))))
def lineMarks (key : Nat) (m : BitVec 4) : List Nat := ((List.range 4).filter (fun i => m.getLsbD i)).map (fun i => key / 32 + i)

/-- Shares and rows come back from the save areas (R371 step 1). -/
def readShares (s : State) (t : Nat) : Got Unit :=
  overList (saveUnits s t) s (fun s u =>
    match devReadLine s (s.teamWho t) u.va with
    | .ok s v =>
      .ok (s.modTeam t (fun x =>
        if u.face then { x with face := cellSets x.face (lineCells u.key v.1), facePoison := (lineMarks u.key v.2).foldl insertNat x.facePoison }
        else { x with scratch := cellSets x.scratch (lineCells u.key v.1), scratchPoison := (lineMarks u.key v.2).foldl insertNat x.scratchPoison })) ()
    | .bad s _ _ => .ok s ()
    | .absent s ea pg => .absent s ea pg
    | .wait h => .wait h)

-- Suspension (R368)

/-- An open transaction of lane l ends for a context save: with FAULT where a trap is pending, else with PREEMPT, and a
park on an absent page is lost (14 R334). -/
def preemptTx (s : State) (i l : Nat) : State :=
  let y := s.lane i l
  if y.txn.isNone then s
  else if y.pendingTrap then (abortTx s i l 5#3 0#7 (y.tcause.setWidth 8)).modLane i l (fun z => { z with st := .parked })
  else (abortTx s i l 6#3 0#7 0#8).modLane i l (fun z => { z with page := none, record := none })

def preemptAll (s : State) (i : Nat) : State := (List.range 32).foldl (fun s l => preemptTx s i l) s

/-- Transactions of lanes outside LMASK end in the trapped image, which is in memory. -/
def preemptTrapped (s : State) (i : Nat) : Got Unit :=
  match (s.spindle i).trapped with
  | none => .ok s ()
  | some r =>
    if r.lanes.all (fun y => y.txn.isNone) then .ok s ()
    else
      let h := s.spindle i
      let s := s.modSp i (fun sp => shownTrapped sp r)
      (readImage s i).andThen (fun s x =>
        let s := preemptAll (s.modSp i (fun sp => applyImage sp (x.1.map (·.1)) x.2)) i
        (if x.1.any (fun y => y.2 != 0#4) then .ok s () else writeImage s i).andThen (fun s _ =>
          .ok (s.modSp i (fun sp => { h with trapped := some { r with lanes := sp.lanes } })) ()))

/-- Delays end: sleeps, back-offs and tries that were put off (05 R126; 12 R300). -/
def Lane.awake (y : Lane) : Lane :=
  match y.st with
  | .sleeping _ => { y with st := .eligible }
  | .backoff _ => { y with st := .eligible }
  | .stalled => { y with st := .eligible }
  | _ => y
def awakeTeam (s : State) (t : Nat) : State :=
  { s with spindles := s.spindles.map (fun (sp : Spindle) =>
      if sp.team == t then
        { sp with lanes := sp.lanes.map Lane.awake, trapped := sp.trapped.map (fun (r : Trapped) => { r with lanes := r.lanes.map Lane.awake }) }
      else sp) }

/-- Checkpoint and log chunks return to the arena (14 R323, R334). -/
def returnTxChunks (s : State) (t : Nat) : State :=
  let l := (s.spindles.filter (fun sp => sp.team == t)).flatMap (fun sp => sp.txchunks.map (·.2))
  let s := freeChunks s t l
  { s with spindles := s.spindles.map (fun (sp : Spindle) => if sp.team == t then { sp with txchunks := [] } else sp) }

/-- The image of a dormant spindle takes its edits and its recorded releases before its PCs go back into it (07 R171). -/
def settleDormant (s : State) (i : Nat) : Got Unit :=
  (readImage s i).andThen (fun s x =>
    let s := s.modSp i (fun sp =>
      let z := applyImage sp (x.1.map (·.1)) x.2
      { z with lanes := (enumFrom 0 z.lanes).map (fun l => { l.2 with pc := (sp.lane l.1).pc }) })
    let s := (List.range 32).foldl (fun s l => applyRelease s i l) s
    if x.1.any (fun y => y.2 != 0#4) then .ok s () else writeImage s i)

/-- The image of a spindle of a team that stops goes to memory: a handler's into its frame slot (11 R270). -/
def stopImage (s : State) (i : Nat) : Got Unit :=
  let sp := s.spindle i
  (match sp.st, sp.trapped with
  | .resident, some r => putLines s (s.who i) (handlerLines s i r.frame)
  | .resident, none => writeImage s i
  | .dormant, _ => settleDormant s i
  | _, _ => .ok s ()).lossy

/-- What the device keeps for the team in its machine save area, and frees on the cores (R368 step 6). -/
def setAside (s : State) (t : Nat) : State :=
  let now := s.clock.cycle
  { s with
    cmds := s.cmds.map (fun (c : Cmd) => if c.team == t then { c with saved := true } else c),
    cursors := s.cursors.map (fun (c : Cursor) => if c.team == t then { c with saved := true } else c),
    latches := s.latches.map (fun (c : Latch) => if c.team == t then { c with saved := true } else c),
    bins := s.bins.map (fun (b : Bin) => if b.team == t && !b.saved then { b with saved := true, elapsed := b.elapsed + (now - b.start) } else b),
    spindles := s.spindles.map (fun (sp : Spindle) => if sp.team == t && sp.st == .resident then { sp with st := .suspended } else sp) }

/-- Commands that have started and not ended keep a context save waiting (08 R192), and so do commits that have passed their first step (14 R334). -/
def stopsLate (s : State) (t : Nat) : Bool :=
  s.mem.commits.any (fun c => s.isOf t c.sp) ||
  s.cmds.any (fun c => c.team == t && !c.saved && (match c.st with
    | .queued => false
    | _ => true))

/-- SUSPENSION: the steps of R368. In a halt the record keeps its STATE (22 R452). -/
def suspendTeam (s : State) (t : Nat) : Got Unit :=
  let sps := s.teamSpindles t
  (overList sps s preemptTrapped).andThen (fun s _ =>
    let s := sps.foldl preemptAll s
    let s := returnTxChunks (awakeTeam s t) t
    let s := (s.ops.filter (fun o => s.isOf t o.sp)).foldl completeOp s
    (overList sps s stopImage).andThen (fun s _ =>
      (writeShares s t).andThen (fun s _ =>
        let head := contextHead s t 2
        let ranks := (s.team t).ranks
        let s := ranks.foldl coreRelease (leaveCores (setAside s t) t)
        let s := s.modTeam t (fun x => { x with st := .suspended, tsusp := s.clock.ns, since := s.clock.ns, suspSeq := s.nextId, scratch := [], scratchPoison := [], face := [],
                                                facePoison := [] })
        let s := { s with nextId := s.nextId + 1 }
        (devWrite s (s.teamWho t) (s.team t).arenaBase 0x340 head).lossy.andThen (fun s _ =>
          .ok (if (s.part (s.team t).part).haltReason != 0 then s
               else devPut (putTeamState s t 3) (s.teamWho t) ((s.team t).arenaBase + 32#64) 8 s.clock.ns) ()))))

/-- A running team begins to stop (R368 step 1; R370 STATE 2). -/
def beginSuspend (s : State) (t : Nat) : State :=
  if (s.team t).st == .running then putTeamState (s.modTeam t (fun x => { x with st := .suspending })) t 2 else s

/-- A team and, in a cooperative launch, its siblings (R365). -/
def suspendGroup (s : State) (t : Nat) : State :=
  if (s.launchOf t).info.coop then (s.teamsOf (s.team t).launch).foldl beginSuspend s else beginSuspend s t

-- Resumption (R371)

/-- The handler's image comes back from its frame slot (11 R270). -/
def readHandler (s : State) (i : Nat) (frame : DWord) : Got (List (Nat × BitVec 4) × List (Nat × BitVec 4)) :=
  (getLines s (s.who i) ((List.range 14).map (fun k => frame + BitVec.ofNat 64 (0x800 + 128 * k)))).andThen (fun s u =>
    (getLines s (s.who i) ((List.range 16).map (fun r => frame + BitVec.ofNat 64 (0x1000 + 128 * r)))).andThen (fun s v => .ok s (u, v)))

def shownImage (s : State) (i : Nat) : Got (List (Nat × BitVec 4) × List (Nat × BitVec 4)) :=
  match (s.spindle i).trapped with
  | some r => readHandler s i r.frame
  | none => readImage s i

/-- A suspended or dormant spindle takes its image back with its edits (01 R38); its vector lines enter the register cache on demand (12 R287).
Answers the first marked sector of its uniform chunk. -/
def resumeImage (s : State) (i : Nat) : Got (Option DWord) :=
  (shownImage s i).andThen (fun s x =>
    .ok (rcDrop (s.modSp i (fun sp =>
      let z := applyImage sp (x.1.map (fun (u : Nat × BitVec 4) => u.1)) x.2
      { z with lanes := z.lanes.map (fun (y : Lane) => { y with stamp := s.clock.cycle }) })) i)
      (markedSector (match (s.spindle i).trapped with
        | some r => r.frame + 0x800#64
        | none => s.imageVa i) x.1))

/-- A spindle takes the lowest free slot of its core. -/
def takeSlot (s : State) (i : Nat) : State :=
  match freePlace s (s.spindle i).core with
  | none => s
  | some (q, k) => tookSlot (s.modSp i (fun sp => { sp with st := .resident, quad := q, slot := k })) i

/-- Bins of the team take free bins of the cores of their ranks (12 R294). -/
def reseatBins (s : State) (t : Nat) : State :=
  let ranks := (s.team t).ranks
  (s.bins.filter (fun b => b.team == t && b.saved)).foldl (fun s b =>
    let core := ranks.getD b.rank 0
    let n := ((List.range Config.binCount).find? (fun n => !s.bins.any (fun x => x.core == core && x.num == n && !x.saved))).getD b.num
    { s with bins := s.bins.erase b ++ [{ b with core := core, num := n, saved := false, start := s.clock.cycle }] }) s

/-- Chunks for the implicit transactions that begin again (14 R323, R337). -/
def retakeTxChunks (s : State) (i : Nat) : State :=
  (lanesOf (maskBy (fun l => (s.lane i l).txn.isSome))).foldl (fun s l =>
    match txChunks s i l with
    | some s => s
    | none => abortTx s i l 3#3 0#7 0#8) s

/-- Waiting lanes are registered again and each watched word is read at once (07 R171). -/
def recheckTeam (s : State) (t : Nat) : State :=
  (s.teamSpindles t).foldl (fun s i => (List.range 32).foldl (fun s l =>
    match tryMonitor s i l with
    | .ok _ (some u) => u
    | .ok u none => u
    | .bad u _ _ => u
    | .absent u _ _ => s.withReqs u.mem.reqs
    | .wait h => s.askBack h) s) s

/-- The lines of the context record that the device reads back: the first marked sector (21 R441). -/
def recordMarked (s : State) (t : Nat) : Got (Option DWord) :=
  (getLines s (s.teamWho t) ((List.range 41).map (fun k => (s.team t).arenaBase + BitVec.ofNat 64 (128 * k)))).andThen (fun s l =>
    .ok s (markedSector (s.team t).arenaBase l))

/-- What a resumption finds marked: the spindle, by its index, the PC of its lowest live lane, and the sector's address. The context record is no
spindle's (21 R441; log entry 118). -/
structure Found where
  idx : Nat
  pc : DWord
  addr : DWord

/-- Spindles take their images back in order; the first marked sector goes on. -/
def resumeImages (s : State) (sps : List Nat) (bad : Option Found) : Got (Option Found) :=
  sps.foldl (fun (r : Got (Option Found)) i => r.andThen (fun s b => (resumeImage s i).andThen (fun s c =>
    .ok s (b <|> c.map (fun va => { idx := (s.spindle i).idx, pc := (s.lane i (lowestLane (s.spindle i).live)).pc, addr := va }))))) (.ok s bad)

/-- RESUMPTION on a pavilion's cores: the steps of R371. -/
def resumeTeam (s : State) (t pav : Nat) (cores : List Nat) : Got Unit :=
  let s := s.modTeam t (fun x => { x with ranks := cores, pav := pav, reserve := none })
  let s := { s with spindles := s.spindles.map (fun (sp : Spindle) => if sp.team == t && sp.st != .ended then { sp with core := cores.getD sp.crank 0 } else sp) }
  (recordMarked s t).andThen (fun s bad =>
    (readShares s t).andThen (fun s _ =>
      let s := cores.foldl coreAcquire s
      let sps := s.teamSpindles t
      (resumeImages s sps (bad.map (fun va => { idx := 0, pc := 0#64, addr := va }))).andThen (fun s bad =>
        let s := (sps.filter (fun i => (s.spindle i).st == .suspended)).foldl takeSlot s
        let mine := s.cursors.filter (fun (c : Cursor) => c.team == t && c.saved)
        let s := { s with cursors := s.cursors.filter (fun (c : Cursor) => !(c.team == t && c.saved)) }
        let s := reseatCursors s t (mine.map (fun (c : Cursor) => { c with core := cores.getD c.rank 0 }))
        let s := reseatBins s t
        let s := { s with
          cmds := s.cmds.map (fun (c : Cmd) => if c.team == t then { c with saved := false, core := cores.getD c.rank 0 } else c),
          latches := s.latches.map (fun (c : Latch) => if c.team == t then { c with saved := false, core := cores.getD c.rank 0 } else c) }
        let s := sps.foldl retakeTxChunks s
        let s := s.modTeam t (fun x => { x with st := .running, tres := s.clock.ns, dispatched := s.nextId })
        let s := { s with nextId := s.nextId + 1 }
        (devWrite s (s.teamWho t) (s.team t).arenaBase 0x340 (contextHead s t 1)).lossy.andThen (fun s _ =>
          .ok (match bad with
            | some f => poisonTeam s t f.idx f.pc f.addr
            | none => sps.foldl rcvEvalAll (evalBarriers (recheckTeam s t) t)) ()))))

-- The end of a team (R373)

/-- The last spindle has ended and no thread is left in bins or arena. -/
def teamDone (s : State) (t : Nat) : Bool :=
  (s.team t).st == .running && (s.teamSpindles t).isEmpty && s.spindles.any (fun sp => sp.team == t) &&
    !s.bins.any (fun b => b.team == t && !b.threads.isEmpty) && (s.team t).arena.isEmpty && !s.cmds.any (fun c => c.team == t)

/-- TEAM_END: write-back, release of all that the team holds, STATE 4, and the launch's DONE word when it was the last (R373,
R374). -/
def onTeamEnd (team : Nat) (s : State) : Option State :=
  if !teamDone s team then none
  else
    let n := (s.team team).launch
    let s := (s.team team).ranks.foldl coreRelease s
    let s := dropUndo (dropTeam (leaveCores s team) team) team
    let s := putTeamState (s.modTeam team (fun x => { x with st := .ended })) team 4
    some (if launchDue s n then finishLaunch s n else s)

/-- `onTeamEnd`, where the state brings it about. -/
def execTeamEnd (team : Nat) (s : State) : Host.Outcome State Fault Refusal := happens s (onTeamEnd team s)

-- The halt of a partition (22 R452, R453)

/-- An entry of the lifetime counters rises; they saturate (22 R459). -/
def lifeAdd (s : State) (id n : Nat) : State :=
  let v := min ((cellGet s.nvm.life id).toNat + (cellGet s.nvm.pend id).toNat + n) (2 ^ 64 - 1) - (cellGet s.nvm.life id).toNat
  { s with nvm := { s.nvm with pend := cellSet s.nvm.pend id (BitVec.ofNat 64 v) } }

def TeamSt.code : TeamSt → Nat
  | .running => 1
  | .suspending => 2
  | .suspended => 3
  | .ended => 4
  | .killed => 5
  | _ => 0

/-- The arenas of team k of a launch: REGARENA and SPAWNARENA (R356). -/
def arenaOf (r : LaunchRec) (k : Nat) : DWord × DWord :=
  let base := r.rabase.toNat + k * (r.rasize + r.sasize) * 65536
  (BitVec.ofNat 64 (base ||| r.rasize), BitVec.ofNat 64 (base + r.rasize * 65536 ||| r.sasize))

/-- An entry of a dump slot. -/
structure DumpEntry where
  launch : Nat
  team : Nat
  prev : Nat
  prio : Nat
  ctx : Nat
  used : Nat
  deriving DecidableEq, Repr

def DumpEntry.bytes (e : DumpEntry) : Nat :=
  e.launch ||| atByte 8 e.team ||| atByte 12 e.prev ||| atByte 13 e.prio ||| atByte 16 e.ctx ||| atByte 24 e.used

/-- The entries of a launch that is not COMPLETE: one for itself when it is discarded, else one for each team that the halt
kills. -/
def dumpOf (s : State) (n : Nat) : List DumpEntry :=
  let l := s.launch n
  if l.discarded then [{ launch := l.num, team := 0xFF_FFFF, prev := 0, prio := l.prio, ctx := l.recva.toNat, used := 0 }]
  else
    (sortBy (·.idx) (s.teams.filter (fun x => x.launch == n && !x.st.over))).map (fun x =>
      { launch := l.num, team := x.idx, prev := x.prev, prio := x.prio.toNat, ctx := (arenaOf l.info x.idx).1.toNat / 65536 * 65536, used := x.energyused })

/-- Launches of a partition that are not COMPLETE, in the order of their numbers. -/
def openLaunches (s : State) (p : Nat) : List Nat :=
  (List.range s.launches.length).filter (fun n => (s.launch n).part == p && (s.launch n).st != .complete)

/-- Index of the partition's lowest pavilion. -/
def lowPav (pt : Partition) : Nat := (pt.pavs.foldl insertNat []).headD 0

/-- The dump slot is written, while DUMPBASE.EN is 1 (R453). -/
def writeDump (s : State) (p : Nat) : State :=
  let pt := s.part p
  if !s.adeol.dumpbase.getLsbD 0 then s
  else
    let slot := bitsOf s.adeol.dumpbase.toNat 16 36 * 65536 + 0x100_0000 + 0x10_0000 * lowPav pt
    let all := (openLaunches s p).flatMap (dumpOf s)
    let es := all.take 32760
    let s := (enumFrom 0 es).foldl (fun s e => paWrites s (slot + 256 + 32 * e.1) 32 e.2.bytes) s
    paWrites s slot 256 (pt.haltReason ||| atByte 1 pt.haltDie ||| atByte 2 pt.pnum.toNat ||| atByte 8 pt.haltTime ||| atByte 16 s.clock.ns |||
      atByte 24 pt.deadline.toNat ||| atByte 32 pt.used ||| atByte 40 (wrapTo 64 pt.energyres).toNat ||| atByte 48 es.length |||
      atByte 52 (boolNat (decide (32760 < all.length))))

/-- The end of a halt once no team of the partition runs or stops: dump, kills with SOURCE 8, DONE words and the
partition's HALTSTAT bit. -/
def finishHalt (s : State) (p : Nat) : State :=
  let s := writeDump s p
  let ls := openLaunches s p
  let s := ls.foldl (fun s n => (s.teamsOf n).foldl (fun s t => killOne s t (KillRep.plain 0#8 8)) s) s
  let s := ls.foldl (fun s n => finishLaunch (s.modLaunch n (fun l => { l with st := if l.discarded then l.st else .running, anyKilled := true })) n) s
  let s := lifeAdd (s.modPart p (fun x => { x with halted := true })) 3 1
  { s with adeol := { s.adeol with haltstat := s.adeol.haltstat ||| BitVec.ofNat 64 (2 ^ lowPav (s.part p)) } }

def haltStep (s : State) (p : Nat) : State :=
  let pt := s.part p
  if pt.haltReason = 0 || pt.halted || s.teams.any (fun t => t.part == p && t.st.holds) then s else finishHalt s p

/-- A halt begins, or merges into one that is under way (R452). -/
def startHalt (s : State) (p reason die : Nat) : State :=
  let pt := s.part p
  if !pt.started || pt.haltReason != 0 then s
  else
    let s := s.modPart p (fun x => { x with haltReason := reason, haltTime := s.clock.ns, haltDie := die })
    let s := { s with
      teams := s.teams.map (fun (t : Team) => if t.part == p then { t with prev := t.st.code, reserve := none, st := if t.st == .reserved then .pending else t.st } else t),
      launches := (enumFrom 0 s.launches).map (fun (x : Nat × Launch) =>
        if x.2.part == p && x.2.st != .complete && !(s.teamsOf x.1).any (fun t => (s.team t).st.placed || (s.team t).st.over) then { x.2 with discarded := true }
        else x.2) }
    haltStep ((List.range s.teams.length).foldl (fun s t => if (s.team t).part == p then beginSuspend s t else s) s) p

/-- TEAM_SUSPEND: the steps of R368 end in one; the last team of a partition that halts completes the halt. -/
def onTeamSuspend (team : Nat) (s : State) : Option State :=
  if (s.team team).st != .suspending || stopsLate s team then none
  else (suspendTeam s team).event s id (fun s _ => haltStep s (s.team team).part)

/-- `onTeamSuspend`, where the state brings it about. -/
def execTeamSuspend (team : Nat) (s : State) : Host.Outcome State Fault Refusal := happens s (onTeamSuspend team s)

end Sys2Proof.Machine
end

