-- ==== Sys2Proof/Machine/Translate.lean ====
section
/-! DEFINITION. Translation commands, the service of absent pages, page moves and placement (18 R393-R408). -/

namespace Sys2Proof.Machine

open Sys2Proof

/-- A range of 4 KiB pages of an EASID. -/
structure PageRange where
  ea : Nat
  first : Nat
  count : Nat
  deriving DecidableEq, Repr

def PageRange.has (r : PageRange) (ea page : Nat) : Bool := ea == r.ea && r.first ≤ page && page < r.first + r.count
def PageRange.hasLine (r : PageRange) (ea ln : Nat) : Bool := r.has ea (pageOfLn ln)
def PageRange.meets (r : PageRange) (ea first count : Nat) : Bool := ea == r.ea && first < r.first + r.count && r.first < first + count

-- Shoot-downs (R399-R401)

/-- The rights and translation cache entries of a range go. -/
def dropEntries (s : State) (r : PageRange) : State :=
  s.modMem (fun m => { m with rights := m.rights.filter (fun x => !r.meets x.ea x.page x.span), tlb := m.tlb.filter (fun x => !r.meets x.ea x.page x.span) })

/-- Every core writes its dirty lines of a range back (WB). -/
def writeBackRange (s : State) (r : PageRange) : State := wbLines s (fun x => r.hasLine x.ea x.ln)

/-- The instruction caches drop the lines of a range (ICACHE). -/
def dropCode (s : State) (r : PageRange) : State :=
  s.modMem (fun m => { m with icache := m.icache.filter (fun x => !r.hasLine x.ea x.ln) })

/-- Bytes that are thrown away with a report. -/
def dropBytes (s : State) (die ea ln : Nat) (x : Line) : State :=
  if x.dirty == 0#128 then s else s.modMem (fun m => { m with drops := m.drops ++ [{ agent := agentOf die ea ln, ea := ea, ln := ln, line := x }] })

/-- The entries of the reverse map that are not zero. -/
def rmapUsed (s : State) : List Nat :=
  let base := baseOf s.adeol.rmapbase
  if base = 0 then []
  else (cellRange s.mem.phys base (8 * (Config.hbmTop / 4096 + s.adeol.hostframes.toNat))).foldl (fun l c => insertNat l ((c.1 - base) / 8)) []

/-- Entry i of the reverse map, and the frame that it is of (18 R391). -/
def rmapEntry (s : State) (i : Nat) : Nat := physGet s (baseOf s.adeol.rmapbase + 8 * i) 8
def rmapFrame (i : Nat) : Nat := if i < Config.hbmTop / 4096 then 4096 * i else Config.hostBase + 4096 * (i - Config.hbmTop / 4096)

/-- The frames that the reverse map records for a page. -/
def recordedFrames (s : State) (ea page : Nat) : List Nat :=
  ((rmapUsed s).filter (fun i => (rmapEntry s i).testBit 14 && bitsOf (rmapEntry s i) 0 14 == ea && bitsOf (rmapEntry s i) 15 45 == page)).map rmapFrame

/-- The frame that a FLUSH writes a line's page to: that of the old translation, which the agent or the reverse map still holds, whatever the leaf says
now (R399; DEDUCED, log entry 120). None where there is none. -/
def flushFrame (s : State) (ea ln : Nat) : State × Option Nat :=
  let page := pageOfLn ln
  let now : Option Nat := match walk s none ea page with
    | .leaf e lv => if leafP e then some (leafPa e lv page) else none
    | _ => none
  let old := recordedFrames s ea page
  match tlbFind s.mem ea ln, old.find? (fun f => some f == now), old with
  | some x, _, _ => (s, some (baseOf x.leaf + (page - x.page) * 4096))
  | none, some f, _ => (s, some f)
  | none, none, f :: _ => (s, some f)
  | none, none, [] =>
    match translate s ea ln 3 with
    | (s, .present _ pa) => (s, some pa)
    | (s, _) => (s, none)

/-- A line's dirty bytes and marks go to its frame. -/
def flushTo (s : State) (pa ea ln : Nat) (x : Line) : State :=
  if fencedPa s (homeDie s ea ln) pa then s else s.modMem (fun m => physStore m (pa + ln % 32 * 128) x x.dirty)

/-- A home line goes to memory through the old translation, or its written bytes are discarded (FLUSH); its version goes to the
slice's eviction floor (14 R327). -/
def flushHome (s : State) (h0 : HomeLine) : State :=
  let (s, h) := recallLine s h0
  let s := tagsLost s h
  let die := homeDie s h.ea h.ln
  let (s, f) := flushFrame s h.ea h.ln
  let s := match f with
    | some pa => flushTo s pa h.ea h.ln h.line
    | none => dropBytes s die h.ea h.ln h.line
  (raiseFloor s die h).modMem (fun m => homeDel m h.ea h.ln)

/-- A core's copy of a line ends for a FLUSH: dirty bytes go to the line's home, or to memory where no home holds it. -/
def flushCopy (s : State) (x : L1Line) : State :=
  if x.line.dirty == 0#128 || (homeFind s.mem x.ea x.ln).isSome then l1End s x.core x.ea x.ln
  else
    match flushFrame s x.ea x.ln with
    | (s, some pa) => (floorNow (flushTo s pa x.ea x.ln x.line) x.ea x.ln).modMem (fun m => l1Del m x.core x.ea x.ln)
    | (s, none) => (dropBytes s (homeDie s x.ea x.ln) x.ea x.ln x.line).modMem (fun m => l1Del m x.core x.ea x.ln)

/-- The reverse map entries of a range are cleared. -/
def clearRmap (s : State) (r : PageRange) : State :=
  (rmapUsed s).foldl (fun s i =>
    let e := rmapEntry s i
    if e.testBit 14 && r.has (bitsOf e 0 14) (bitsOf e 15 45) then s.modMem (fun m => physPut m (baseOf s.adeol.rmapbase + 8 * i) 8 0) else s) s

/-- FLUSH of a range: L1 and L2 copies, deferred entries and reverse map entries. A request that the ring already holds no longer takes later
ones in (log entry 100); one that still waits in its agent stays (R392). -/
def flushRange (s : State) (r : PageRange) : State :=
  let s := (s.mem.l1.filter (fun x => r.hasLine x.ea x.ln)).foldl flushCopy s
  let s := (s.mem.home.filter (fun h => r.hasLine h.ea h.ln)).foldl flushHome s
  let s := (s.mem.buf.filter (fun b => r.hasLine b.ea b.ln)).foldl (fun s b =>
    (s.modMem (fun m => { m with drops := m.drops ++ [b] }))) s
  clearRmap (s.modMem (fun m => { m with buf := m.buf.filter (fun b => !r.hasLine b.ea b.ln), reqs := m.reqs.filter (fun q => !q.queued || !r.has q.ea q.page) })) r

-- Serving a page (R395)

/-- Lanes parked on pages of a range, in every list of a spindle. -/
def mapParked (s : State) (r : PageRange) (f : Lane → Lane) : State :=
  let one (y : Lane) : Lane := if y.page.any (fun p => r.has p.1 p.2) && !y.pendingTrap then f y else y
  { s with spindles := s.spindles.map (fun (sp : Spindle) =>
      { sp with lanes := sp.lanes.map one, trapped := sp.trapped.map (fun t => { t with lanes := t.lanes.map one }) }) }

/-- A page of a range has a present leaf. -/
def pagePresent (s : State) (ea page : Nat) : Bool :=
  match walk s none ea page with
  | .leaf e _ => leafP e
  | _ => false

/-- A page of a range is mapped and not resident (R388, R392). -/
def pageAbsent (s : State) (ea page : Nat) : Bool :=
  match walk s none ea page with
  | .leaf e _ => !leafP e
  | _ => false

/-- The written bytes of a home line are discarded with a report (R395). -/
def loseFill (s : State) (h0 : HomeLine) : State :=
  let (s, h) := recallLine s h0
  let die := homeDie s h.ea h.ln
  (raiseFloor (dropBytes s die h.ea h.ln h.line) die h).modMem (fun m => homeDel m h.ea h.ln)

/-- Pending fills of a range are filled from their frames under the byte mask (R395). A fill whose page proves malformed, refused or without a
mapping fails as FAIL does (R388, R391). -/
def fillPending (s : State) (r : PageRange) : State :=
  (s.mem.home.filter (fun h => h.pend && r.hasLine h.ea h.ln && (moveOf s.mem h.ea (pageOfLn h.ln) 1).isNone)).foldl (fun s h0 =>
    match translate s h0.ea h0.ln 2 with
    | (s, .present e pa0) =>
      let pa := pa0 + h0.ln % 32 * 128
      let marks := if fencedPa s (leafHome e) pa then 0xF#4 else physMarks s.mem pa
      s.modMem (fun m => homePut m { h0 with line := h0.line.under (physLine s.mem pa) marks, pend := false })
    | (s, .fail) => loseFill s h0
    | (s, .absent _) => s) s

/-- Deferred entries of a range are replayed, each as one write of memory (R395); those that a page under move holds back stay (R406). -/
def replayBuffer (s : State) (r : PageRange) : State :=
  (s.mem.buf.filter (fun b => r.hasLine b.ea b.ln && (moveOf s.mem b.ea (pageOfLn b.ln) 1).isNone)).foldl (fun s b =>
    match translate s b.ea b.ln 3 with
    | (s, .present _ pa0) =>
      s.modMem (fun m => bufDel (physStore m (pa0 + b.ln % 32 * 128) b.line b.line.dirty) b.ea b.ln)
    | (s, .fail) => s.modMem (fun m => { bufDel m b.ea b.ln with drops := m.drops ++ [b] })
    | (s, .absent _) => s) s

/-- The pages that something waits for, each with the KIND of a request for it (R392): parked lanes, pending fills, buffer entries and engines. -/
def waitedPages (s : State) : List (Nat × Nat × Nat) :=
  let lane (y : Lane) : Option (Nat × Nat × Nat) :=
    if y.pendingTrap then none else y.page.map (fun p => (p.1, p.2, if y.record.any (fun r => r.acc == 0#5) then 4 else 1))
  s.spindles.flatMap (fun sp => (sp.lanes ++ (sp.trapped.map (·.lanes)).getD []).filterMap lane) ++
    (s.mem.home.filter (·.pend)).map (fun h => (h.ea, pageOfLn h.ln, 2)) ++ s.mem.buf.map (fun b => (b.ea, pageOfLn b.ln, 3)) ++
    s.cmds.filterMap (fun c => c.page.map (fun p => (p.1, p.2, 5)))

/-- RESUME (R395): what waits for the pages goes on; a page that is still absent is asked for again. An access whose page proves malformed,
refused or without a mapping meets that when it goes on (R388, R391). -/
def resumePages (s : State) (r : PageRange) : State :=
  let old := (s.mem.reqs.map (fun q => (q.ea, q.page, q.kind)) ++ waitedPages s).filter (fun q => r.has q.1 q.2.1)
  let s := s.modMem (fun m => { m with reqs := m.reqs.filter (fun q => !r.has q.ea q.page) })
  let s := fillPending s r
  let s := replayBuffer s r
  let here (s : State) (p : Nat × Nat) : Bool := r.has p.1 p.2 && !pageAbsent s p.1 p.2
  let free (y : Lane) : Lane := if y.page.any (here s) then { y with st := .eligible, page := none, record := none, stamp := s.clock.cycle } else y
  let s := mapParked s r free
  let s := { s with cmds := s.cmds.map (fun (c : Cmd) => if c.page.any (here s) then { c with page := none } else c) }
  let s := (List.range s.spindles.length).foldl (fun s i => if (s.spindle i).st == .resident then rcvEvalAll s i else s) s
  drainReqs (old.foldl (fun s q => if pageAbsent s q.1 q.2.1 then postReq s q.1 q.2.1 q.2.2 else s) s)

/-- A lane parked on a page that failed takes PAGE_ABSENT (R395, 11 R268); in handler context it kills the team, in an ordered
thread it aborts the transaction. -/
def failLane (s : State) (r : PageRange) (i l : Nat) : State :=
  let y := s.lane i l
  if !(y.page.any (fun p => r.has p.1 p.2)) || y.pendingTrap then s
  else if (s.spindle i).inHandler || (y.tx && y.spec) then
    let rc := y.record
    let s := s.modLane i l (fun y => { y with page := none, record := none })
    atLane s i l (fun s => faultLane s i l 0x0B#8 (match rc with
      | some r => r.addr
      | none => 0#64) 0#5 0#16)
  else
    s.modLane i l (fun y =>
      { y with page := none, pendingTrap := true, tcause := 0x0B#9, tcode := 0#7,
               record := y.record.map (fun rc => { rc with pending := true, tdetect := s.clock.ns }) })

/-- Launches whose words lie on a failed page: a dependence abandons, a DONE word is not written (17 R375). -/
def failLaunches (s : State) (r : PageRange) : State :=
  let on (s : State) (l : Launch) (va : DWord) : Bool := r.has (eaOf (s.part l.part).asid va) (pageOf va)
  (List.range s.launches.length).foldl (fun s n =>
    let l := s.launch n
    if launchDue s n && l.info.done != 0#64 && on s l l.info.done then
      launchEnds (launchReport s n 0x0B#8 l.info.done) n
    else
      match (enumFrom 0 l.info.deps).find? (fun d => l.st == .waiting && !l.abandoned && !(l.sat.getD d.1 true) && on s l d.2.1) with
      | none => s
      | some d => finishLaunch ((launchReport s n 0x0B#8 d.2.1).modLaunch n (fun l => { l with abandoned := true })) n) s

/-- Partition starts whose record's page is failed answer PAGE_ABSENT (17 R354). -/
def failStarts (s : State) (r : PageRange) : State :=
  let lost (e : Instr) : Option Nat := match e with
    | .adeolPartitionStart part asid record =>
      if [record, record + 255].any (fun a =>
          let va := BitVec.ofNat 64 a
          let ea := eaOf (BitVec.ofNat 14 asid) va
          r.has ea (pageOf va) && !pagePresent s ea (pageOf va)) then some part else none
    | _ => none
  { s with agenda := s.agenda.filter (fun e => (lost e).isNone), hostReplies := s.hostReplies ++ (s.agenda.filterMap lost).map (fun p => .start p 0x0B) }

/-- FAIL (R395): parked lanes trap, the bytes written to pending fills are discarded, and engines that wait fault. A full line, which has no
pending fill (R393), stays. -/
def failPages (s : State) (r : PageRange) : State :=
  let asked := s.mem.reqs.filter (fun q => r.has q.ea q.page)
  let lost (b : BufEntry) : Bool := r.hasLine b.ea b.ln && (moveOf s.mem b.ea (pageOfLn b.ln) 1).isNone
  let s := s.modMem (fun m => { m with reqs := m.reqs.filter (fun q => !r.has q.ea q.page) })
  let s := (s.mem.home.filter (fun h => r.hasLine h.ea h.ln && h.pend)).foldl loseFill s
  let s := s.modMem (fun m => { m with drops := m.drops ++ m.buf.filter lost, buf := m.buf.filter (fun b => !lost b) })
  let s := (List.range s.spindles.length).foldl (fun s i =>
    let s := s.modSp i (fun sp => { sp with trapped := sp.trapped.map (fun t => { t with lanes := t.lanes.map (fun y =>
      if y.page.any (fun p => r.has p.1 p.2) && !y.pendingTrap then
        { y with page := none, pendingTrap := true, tcause := 0x0B#9, tcode := 0#7, record := y.record.map (fun rc => { rc with pending := true, tdetect := s.clock.ns }) }
      else y) }) })
    (List.range 32).foldl (fun s l => failLane s r i l) s) s
  let s := (s.cmds.filter (fun c => c.page.any (fun p => r.has p.1 p.2))).foldl (fun s c =>
    failCommand s c 0x0B#8 (match c.page with
      | some p => (vaOfPage p.2).toNat
      | none => 0)) s
  let s := failStarts s r
  if asked.isEmpty then s else failLaunches s r

-- Leaves and moves (R402, R406)

/-- The entry of a page's leaf: its physical address, the leaf and its level. -/
def leafFrom (s : State) (va : Nat) : Nat → Nat → Option (Nat × DWord × Nat)
  | 0, table =>
    let a := table + 8 * bitsOf va 12 9
    let e := BitVec.ofNat 64 (paRead s a 8)
    if leafIs e then some (a, e, 0) else none
  | lv + 1, table =>
    let a := table + 8 * bitsOf va (12 + 9 * (lv + 1)) 9
    let e := BitVec.ofNat 64 (paRead s a 8)
    if leafIs e then some (a, e, lv + 1) else if leafP e then leafFrom s va lv (baseOf e) else none
def leafSlot (s : State) (ea page : Nat) : Option (Nat × DWord × Nat) :=
  match walk s none ea page with
  | .leaf _ _ => leafFrom s (page * 4096) 4 (baseOf (BitVec.ofNat 64 (paRead s (baseOf s.adeol.astbase + 16 * ea) 8)))
  | _ => none

/-- The distinct leaves of a range, none where a page has no leaf. -/
def leavesOf (s : State) (ea : Nat) : Nat → Nat → Option (List (Nat × DWord × Nat × Nat))
  | 0, _ => some []
  | n + 1, page =>
    match leafSlot s ea page with
    | none => none
    | some (a, e, lv) => (leavesOf s ea n (page + 1)).map (fun l => if l.any (fun x => x.1 == a) then l else (a, e, page / spanOf lv * spanOf lv, spanOf lv) :: l)

/-- The bytes and marks of n frames are copied. -/
def copyFrames (s : State) (src dst n : Nat) : State :=
  s.modMem (fun m =>
    let cells := cellRange m.phys src (4096 * n)
    let phys := cellSets (cellDrop m.phys dst (4096 * n)) (cells.map (fun c => (c.1 - src + dst, c.2)))
    let marks := m.marks.filter (fun k => !(dst / 32 ≤ k && k < (dst + 4096 * n) / 32))
    let add := (m.marks.filter (fun k => src / 32 ≤ k && k < (src + 4096 * n) / 32)).map (fun k => k - src / 32 + dst / 32)
    { m with phys := phys, marks := add.foldl insertNat marks })

/-- The leaf after a move: its frame and home; LOCK is clear. -/
def movedLeaf (e : DWord) (frame home : Nat) : DWord :=
  (e &&& ~~~(0x000F_FFFF_FFFF_FC80#64)) ||| BitVec.ofNat 64 (frame ||| home <<< 10)

/-- Frees a frame: an HBM frame of 64 KiB to the pool of its die, a host frame to the return ring (R406). -/
def returnFrame (s : State) (pa : Nat) : State :=
  let die := pa / Config.stackBytes / 2
  let ring := if Config.hostBase ≤ pa then s.adeol.fret
    else if die = 0 then s.adeol.fpool0 else if die = 1 then s.adeol.fpool1 else if die = 2 then s.adeol.fpool2 else s.adeol.fpool3
  (ringPush s ring 8 pa).getD s

/-- The frames of 4 KiB that a move leaves go back: aligned groups of 64 KiB with one entry each, a host frame outside such a group with one of its
own. DESIGN CHOICE (log entry 65): a smaller HBM frame is software's. -/
def returnFrames (s : State) (old : List Nat) : State :=
  let whole (a : Nat) : Bool := (List.range 16).all (fun k => old.contains (a / 65536 * 65536 + 4096 * k))
  (old.filter (fun a => if whole a then a % 65536 == 0 else decide (Config.hostBase ≤ a))).foldl returnFrame s

/-- The value of a leaf under move, and its value without LOCK. -/
def lockedLeaf (e : DWord) : DWord := e ||| 0x80#64
def unlockedLeaf (e : DWord) : DWord := e &&& ~~~0x80#64
def LeafMove.range (x : LeafMove) (ea : Nat) : PageRange := { ea := ea, first := x.first, count := x.span }
/-- The frames of 4 KiB that a leaf leaves. -/
def LeafMove.frames (x : LeafMove) : List Nat := (List.range x.span).map (fun k => baseOf x.leaf + 4096 * k)

/-- Step 1 of R406: LOCK is set in every leaf. -/
def startMove (s : State) (ea home : Nat) (l : List LeafMove) (ordered : Bool) : State :=
  let s := l.foldl (fun s x => paWrite s x.slot 8 (lockedLeaf x.leaf).toNat) s
  s.modMem (fun m => { m with moves := m.moves ++ [{ ea := ea, home := home, leaves := l, step := 1, since := s.clock.cycle, ordered := ordered }] })

/-- The move is under way no longer. -/
def endMove (s : State) (v : Move) : State := s.modMem (fun m => { m with moves := m.moves.filter (· != v) })

/-- The move comes to a step. -/
def Move.to (v : Move) (s : State) (n : Nat) : State :=
  s.modMem (fun m => { m with moves := m.moves.map (fun x => if x == v then { v with step := n, since := s.clock.cycle } else x) })

/-- Step 2: the rights caches' entries for a leaf's pages get LOCK; an entry that covers more than the leaf goes. -/
def lockRights (s : State) (ea : Nat) (x : LeafMove) : State :=
  s.modMem (fun m => { m with rights := (m.rights.filter (fun y => !((x.range ea).meets y.ea y.page y.span && decide (x.span < y.span)))).map (fun y =>
    if (x.range ea).meets y.ea y.page y.span then { y with leaf := lockedLeaf y.leaf } else y) })

/-- Step 6: the eviction floors of the slices that take the lines over. -/
def handFloors (s : State) (v : Move) : State :=
  v.leaves.foldl (fun s x => s.modMem (fun m => { m with floors := (List.range Config.slicesPerDie).foldl (fun f sl =>
    let o := cellGet f (leafHome x.leaf * Config.slicesPerDie + sl)
    let k := v.home * Config.slicesPerDie + sl
    cellSet f k (BitVec.ofNat 64 (max (cellGet f k).toNat o.toNat))) m.floors })) s

/-- The entries of the pages go, and held write-backs replay through the translation that stands. -/
def unlockPages (s : State) (v : Move) : State :=
  v.leaves.foldl (fun s x => replayBuffer (dropEntries s (x.range v.ea)) (x.range v.ea)) s

/-- Steps 7 and 8: the new translation stands, the slices of a new home die fit, the old frames' entries are cleared and the frames go back. -/
def finishMove (s : State) (v : Move) : State :=
  let s := unlockPages (endMove s v) v
  let lines := s.mem.home.filter (fun h => v.leaves.any (fun x => (x.range v.ea).hasLine h.ea h.ln))
  let s := (lines.foldl (fun l h => insertNat l (floorKey v.home h.ea h.ln)) []).foldl (fun s k => sliceTrim s k lines.length) s
  let old := v.leaves.flatMap LeafMove.frames
  let s := returnFrames (old.foldl (fun s pa => rmapSet s pa none) s) old
  let n := bitsOf s.adeol.placestat.toNat 32 32
  { s with adeol := { s.adeol with placestat := BitVec.ofNat 64 (bitsOf s.adeol.placestat.toNat 0 32 ||| (n + 1) % 2 ^ 32 <<< 32) } }

/-- The move is abandoned: LOCK is cleared, a leaf already cut over is restored, and what waited goes on (R406 step 5, R407). A frame taken from a pool
returns to it. -/
def abandonMove (s : State) (v : Move) : State :=
  let s := v.leaves.foldl (fun s x =>
    let e := BitVec.ofNat 64 (paRead s x.slot 8)
    paWrite s x.slot 8 (if e == movedLeaf x.leaf x.frame v.home then unlockedLeaf x.leaf else unlockedLeaf e).toNat) s
  let s := unlockPages (endMove s v) v
  if v.ordered then s else returnFrame s ((v.leaves.headD { slot := 0, leaf := 0#64, first := 0, span := 0, frame := 0 }).frame / 65536 * 65536)

/-- A move goes one step on (R406): none while it waits, and at its end the STATUS of its command. -/
def moveStep (s : State) (v : Move) : Option (State × Option Nat) :=
  if s.clock.cycle ≤ v.since then none
  else
    match v.step with
    | 1 => some (v.to (v.leaves.foldl (fun s x => lockRights s v.ea x) s) 2, none)
    | 2 => some (v.to s 3, none)
    | 3 => some (v.to (v.leaves.foldl (fun s x => copyFrames s (baseOf x.leaf) x.frame x.span) s) 4, none)
    | 4 =>
      if v.leaves.all (fun x => BitVec.ofNat 64 (paRead s x.slot 8) == lockedLeaf x.leaf) then
        some (v.to (v.leaves.foldl (fun s x => paWrite s x.slot 8 (movedLeaf x.leaf x.frame v.home).toNat) s) 5, none)
      else some (abandonMove s v, some 3)
    | 5 =>
      if v.leaves.any (fun x => leafHome x.leaf != v.home && lockedAny s (x.range v.ea).hasLine) then none
      else some (v.to (handFloors s v) 6, none)
    | _ => some (finishMove s v, some 1)

-- Register writes (18 R410)

/-- A register after a write: a nonzero reserved bit leaves it unchanged. -/
def regWrite (mask old v : DWord) : DWord := if v &&& ~~~mask == 0#64 then v else old

def ringMask : DWord := 0x000F_FFFF_FFFF_F0FF#64
def baseMask : DWord := 0x000F_FFFF_FFFF_F000#64

/-- ASTBASE after a write (18 R411): EN is set only where both bases hold one, and not cleared while a partition exists. -/
def astbaseAfter (s : State) (v : DWord) : DWord :=
  let old := s.adeol.astbase
  let new := if v &&& baseMask == 0#64 || s.adeol.rmapbase &&& baseMask == 0#64 then v &&& ~~~1#64 else v
  if v &&& ~~~(baseMask ||| 1#64) != 0#64 || (old.getLsbD 0 && !new.getLsbD 0 && !s.parts.isEmpty) then old else new

/-- A register of the translation block takes a written value (18 R404, R409, R410). -/
def translationWrite (s : State) (off : Nat) (v : DWord) : Adeol :=
  let a := s.adeol
  match off with
  | 0x000 => { a with astbase := astbaseAfter s v }
  | 0x008 => { a with rmapbase := regWrite baseMask a.rmapbase v }
  | 0x010 => { a with hostframes := regWrite 0x0000_00FF_FFFF_FFFF#64 a.hostframes v }
  | 0x018 => { a with tcq := regWrite ringMask a.tcq v }
  | 0x020 => { a with prq := regWrite ringMask a.prq v }
  | 0x040 => { a with fpool0 := regWrite ringMask a.fpool0 v }
  | 0x048 => { a with fpool1 := regWrite ringMask a.fpool1 v }
  | 0x050 => { a with fpool2 := regWrite ringMask a.fpool2 v }
  | 0x058 => { a with fpool3 := regWrite ringMask a.fpool3 v }
  | 0x060 => { a with fret := regWrite ringMask a.fret v }
  | 0x068 => { a with place := regWrite 0x80FF_FFFF_FFFF_0000#64 a.place v }
  | _ => a

/-- A write to the translation block stands by until the next command (R409). -/
def stageWrite (s : State) (off : Nat) (v : DWord) : State := { s with adeol := { s.adeol with staged := s.adeol.staged ++ [(off, v)] } }

/-- The written registers once the writes that stand by have taken effect, in their order. -/
def effectiveRegs (s : State) : Adeol := { (s.adeol.staged.foldl (fun s x => { s with adeol := translationWrite s x.1 x.2 }) s).adeol with staged := [] }

/-- The next command is there: the writes to the translation block take effect (R409). -/
def takeWrites (s : State) : State := if s.adeol.staged.isEmpty then s else drainReqs { s with adeol := effectiveRegs s }

-- The command queue (R398, R399)

/-- An entry of the translation command queue. -/
structure TcqEntry where
  index : Nat
  op : Nat
  wb : Bool
  icache : Bool
  flush : Bool
  range : PageRange
  frame : Nat
  home : Nat
  done : Nat
  bad : Bool
  deriving DecidableEq, Repr

/-- The oldest command, if there is one. -/
def tcqHead (s : State) : Option TcqEntry :=
  let r := s.adeol.tcq
  if baseOf r = 0 || ringCap r 64 = 0 || ringHead s r ≥ ringTail s r then none
  else
    let h := ringHead s r
    let v := paReads s (ringSlot r 64 h) 64
    let f (o n : Nat) : Nat := bitsOf v (8 * o) (8 * n)
    let va := f 8 8
    let op := f 0 1
    some { index := h, op := op, wb := v.testBit 8, icache := v.testBit 9, flush := v.testBit 10,
           range := { ea := f 2 2, first := va % 2 ^ 57 / 4096, count := f 16 8 }, frame := f 24 8, home := f 32 1, done := f 40 8,
           bad := f 1 1 ≥ 8 || f 4 4 != 0 || f 33 7 != 0 || f 49 15 != 0 || f 2 2 ≥ 2 ^ 14 || f 40 8 % 8 != 0 ||
             (op != 5 && (va % 4096 != 0 || !canonical (BitVec.ofNat 64 va) || f 16 8 == 0)) ||
             (op == 4 && (f 24 8 % 4096 != 0 || f 32 1 ≥ 4)) }

/-- The oldest command completes: STATUS, DONE, and HEAD moves on (R398). -/
def tcqDone (s : State) (c : TcqEntry) (status : Nat) : State :=
  let r := s.adeol.tcq
  let s := paWrite s (ringSlot r 64 c.index + 48) 1 status
  let s := if c.done = 0 then s else paWrite s (c.done / 8 * 8) 8 (c.index + 1)
  drainReqs (paWrite s (baseOf r) 8 (c.index + 1))

/-- Moves that something ends are abandoned; a commanded one completes with STATUS 3 (R407). -/
def abandonMoves (s : State) (p : Move → Bool) : State :=
  (s.mem.moves.filter p).foldl (fun s v =>
    match v.ordered, tcqHead (abandonMove s v) with
    | true, some c => tcqDone (abandonMove s v) c 3
    | _, _ => abandonMove s v) s

/-- A core still has the W of a page that its leaf has lost: an INVAL of it is a rights downgrade. -/
def losesW (s : State) (ea page : Nat) : Bool :=
  s.mem.rights.any (fun x => x.ea == ea && x.page ≤ page && page < x.page + x.span && leafW x.leaf) &&
    (match walk s none ea page with
      | .leaf e _ => !leafW e
      | _ => true)

/-- A command must wait. A rights downgrade that covers a line which a commit has locked waits for the commit's end (14 R330), unless that commit
itself waits for a page to be served: a shoot-down waits for no thread (R401; log entry 121). -/
def tcqWaits (s : State) (c : TcqEntry) : Bool :=
  c.op == 1 && s.mem.commits.any (fun k => !k.parked && k.locks.any (fun x => c.range.hasLine x.1 x.2 && losesW s x.1 (pageOfLn x.2)))

/-- The move is one of the placement unit's that a command with FLUSH, MIGRATE or RETIRE meets: it is abandoned first, as a fence would abandon it
(DESIGN CHOICE, log entry 65). -/
def TcqEntry.displaces (c : TcqEntry) (v : Move) : Bool :=
  !v.ordered && ((c.op == 1 && c.flush) || c.op == 4 || c.op == 5) && v.leaves.any (fun x => if c.op == 5 then v.ea == c.range.ea else c.range.meets v.ea x.first x.span)

/-- A die that a command's fan-out cannot reach across a failed link, and that is not waited for yet, or is: the command waits until it answers or is
fenced (19 R416, R419). DESIGN CHOICE (log entry 124): the fan-outs start on die 0. -/
def fanOutWaits (s : State) : Option Nat := (List.range Config.dies).find? (cutOff s 0)

/-- A command of the queue whose OP an event serves, with the STATUS of its completion, if it completes now. -/
def tcqEvent (s : State) (op : Nat → Bool) (go : State → TcqEntry → State × Option Nat) : Option State :=
  let s := takeWrites s
  match tcqHead s with
  | none => none
  | some c =>
    if !op c.op || tcqWaits s c then none
    else if (fanOutWaits s).isSome then
      (if s.mem.hostWait.any (fun x => some x.1 == (fanOutWaits s).map dieKey) then none else some (s.askBack ((fanOutWaits s).map dieKey)))
    else if !s.adeol.astbase.getLsbD 0 then some (tcqDone s c 3)
    else if c.bad then some (tcqDone s c 2)
    else
      match go (abandonMoves s c.displaces) c with
      | (s, some status) => some (tcqDone s c status)
      | (s, none) => some s

/-- TCQ_INVAL (R399). -/
def onTcqInval (s : State) : Option State :=
  tcqEvent s (· == 1) (fun s c =>
    let s := if c.wb then writeBackRange s c.range else s
    let s := if c.icache then dropCode s c.range else s
    let s := if c.flush then flushRange s c.range else s
    (dropEntries s c.range, some 1))

/-- `onTcqInval`, where the state brings it about. -/
def execTcqInval (s : State) : Host.Outcome State Fault Refusal := happens s (onTcqInval s)

/-- TCQ_RESUME (R395). -/
def onTcqResume (s : State) : Option State :=
  tcqEvent s (· == 2) (fun s c => (resumePages (dropEntries s c.range) c.range, some 1))

/-- `onTcqResume`, where the state brings it about. -/
def execTcqResume (s : State) : Host.Outcome State Fault Refusal := happens s (onTcqResume s)

/-- TCQ_FAIL (R395). -/
def onTcqFail (s : State) : Option State :=
  tcqEvent s (· == 3) (fun s c => (failPages (dropEntries s c.range) c.range, some 1))

/-- `onTcqFail`, where the state brings it about. -/
def execTcqFail (s : State) : Host.Outcome State Fault Refusal := happens s (onTcqFail s)

/-- The moves that a MIGRATE command makes: none where a page is not present, is locked, must not move, or where the range
ends inside a leaf. -/
def migrateMoves (s : State) (c : TcqEntry) : Option (List LeafMove) :=
  match leavesOf s c.range.ea c.range.count c.range.first with
  | none => none
  | some ls =>
    if ls.any (fun x => !leafP x.2.1 || leafNomig x.2.1 || leafLock x.2.1 || x.2.2.1 < c.range.first || c.range.first + c.range.count < x.2.2.1 + x.2.2.2) then none
    else some (ls.map (fun x => { slot := x.1, leaf := x.2.1, first := x.2.2.1, span := x.2.2.2, frame := c.frame + 4096 * (x.2.2.1 - c.range.first) }))

/-- TCQ_MIGRATE (R399, R406): a page that cannot move completes with STATUS 3, a new frame that no leaf may hold with 2. The cached rights
and translations of the range end whichever way. The move that the command starts goes on by the same event, step by step, and completes it. -/
def onTcqMigrate (s : State) : Option State :=
  match s.mem.moves.find? (·.ordered) with
  | some v =>
    (moveStep s v).map (fun r => match r.2, tcqHead r.1 with
      | some status, some c => tcqDone r.1 c status
      | _, _ => r.1)
  | none =>
    tcqEvent s (· == 4) (fun s c =>
      let s := dropEntries s c.range
      match migrateMoves s c with
      | none => (s, some 3)
      | some l =>
        if l.any (fun x => !frameFits x.frame (levelOf x.span) (x.first / x.span) (leafContig x.leaf) || !leafFramesOk s x.frame (levelOf x.span)) then (s, some 2)
        else if fencedDie s c.home || (l.any (fun x => decide (Config.hostBase ≤ x.frame)) && fencedHost s) then (s, some 3)
        else (startMove s c.range.ea c.home l true, none))

/-- `onTcqMigrate`, where the state brings it about. -/
def execTcqMigrate (s : State) : Host.Outcome State Fault Refusal := happens s (onTcqMigrate s)

/-- TCQ_RETIRE (R399). -/
def onTcqRetire (s : State) : Option State :=
  tcqEvent s (· == 5) (fun s c =>
    let r : PageRange := { ea := c.range.ea, first := 0, count := 2 ^ 45 }
    (dropEntries (dropCode (flushRange s r) r) r, some 1))

/-- `onTcqRetire`, where the state brings it about. -/
def execTcqRetire (s : State) : Host.Outcome State Fault Refusal := happens s (onTcqRetire s)

/-- TCQ_BAD_OP (R398). -/
def onTcqBadOp (s : State) : Option State :=
  tcqEvent s (fun op => op = 0 || 5 < op) (fun s _ => (s, some 2))

/-- `onTcqBadOp`, where the state brings it about. -/
def execTcqBadOp (s : State) : Host.Outcome State Fault Refusal := happens s (onTcqBadOp s)

-- Placement (R403-R405)

/-- A 64 KiB page that the placement unit may move: its leaves, its frame and its counts. -/
structure Candidate where
  ea : Nat
  page : Nat
  leaves : List (Nat × DWord × Nat × Nat)
  frame : Nat
  target : Nat
  count : Nat
  deriving DecidableEq, Repr

/-- The frame lies in the CXL.mem window (19 R413). -/
def inWindow (s : State) (pa : Nat) : Bool :=
  let base := bitsOf s.adeol.hdm.toNat 30 22 * 2 ^ 30
  decide (base ≤ pa) && decide (pa < base + bitsOf s.adeol.hdm.toNat 0 16 * 2 ^ 30)

/-- The die with the greatest count among those allowed, the lowest on a tie. -/
def greatest (l : List (Nat × Nat)) : Nat × Nat := l.foldl (fun b x => if b.2 < x.2 then x else b) (l.headD (0, 0))

/-- What the placement unit makes of a counter entry (R405 steps 1 to 3). -/
def candidateOf (s : State) (c : Counter) : Option Candidate :=
  match leavesOf s c.ea 16 (16 * c.page) with
  | none => none
  | some ls =>
    let e0 := (ls.headD (0, 0#64, 0, 0)).2.1
    let pa := baseOf e0
    let attr (e : DWord) : DWord := lessFrame e
    if ls.length != 16 || ls.any (fun x => x.2.2.2 != 1 || !leafP x.2.1 || leafNomig x.2.1 || leafLock x.2.1 || attr x.2.1 != attr e0 || inWindow s (baseOf x.2.1)) then none
    else
      let counts := [(0, c.c0), (1, c.c1), (2, c.c2), (3, c.c3)]
      if Config.hostBase ≤ pa then
        let g := greatest counts
        if bitsOf s.adeol.place.toNat 48 8 ≤ g.2 then some { ea := c.ea, page := c.page, leaves := ls, frame := pa, target := g.1, count := g.2 } else none
      else
        let f := pa / Config.stackBytes / 2
        let cf := (counts.find? (fun x => x.1 == f)).map (·.2) |>.getD 0
        let g := greatest (counts.filter (fun x => x.1 != f))
        if bitsOf s.adeol.place.toNat 40 8 ≤ g.2 && 2 * cf ≤ g.2 then some { ea := c.ea, page := c.page, leaves := ls, frame := pa, target := g.1, count := g.2 } else none

/-- c is taken before d (R405 step 4). -/
def Candidate.key (c : Candidate) : Nat := (255 - c.count) * 2 ^ 70 + c.ea * 2 ^ 50 + c.page

/-- A selected move takes a frame from its die's pool, or is skipped (R405 step 5). -/
def placeMove (s : State) (c : Candidate) : State :=
  let pool := if c.target = 0 then s.adeol.fpool0 else if c.target = 1 then s.adeol.fpool1 else if c.target = 2 then s.adeol.fpool2 else s.adeol.fpool3
  if fencedDie s c.target then s
  else
    match ringPop s pool 8 with
    | none =>
      let n := bitsOf s.adeol.placestat.toNat 0 32
      { s with adeol := { s.adeol with placestat := BitVec.ofNat 64 ((n + 1) % 2 ^ 32 ||| bitsOf s.adeol.placestat.toNat 32 32 <<< 32) } }
    | some (s, frame) =>
      let frame := baseOf (BitVec.ofNat 64 frame) / 65536 * 65536
      startMove s c.ea c.target (c.leaves.map (fun x => { slot := x.1, leaf := x.2.1, first := x.2.2.1, span := 1, frame := frame + 4096 * (x.2.2.1 - 16 * c.page) })) false

/-- PLACEMENT_INTERVAL: a move of the placement unit goes one step on (R406); at the end of an interval moves are selected and started, and every count
is halved (R403, R405). -/
def onPlacementInterval (s : State) : Option State :=
  let len := max 1 (bitsOf s.adeol.place.toNat 16 16) * 1000
  match s.mem.moves.findSome? (fun v => if v.ordered then none else moveStep s v) with
  | some r => some r.1
  | none =>
    if s.clock.ns < s.due.place then none
    else
      let cs := if s.adeol.place.getLsbD 63 && s.adeol.astbase.getLsbD 0 then sortBy Candidate.key (s.mem.counters.filterMap (candidateOf s)) else []
      let max' := bitsOf s.adeol.place.toNat 32 8
      let pick := [0, 1, 2, 3].flatMap (fun d => (cs.filter (fun c => c.target == d)).take max')
      let s := (sortBy Candidate.key pick).foldl placeMove s
      let half (m : MemSys) : MemSys := { m with counters := m.counters.map (fun c => { c with c0 := c.c0 / 2, c1 := c.c1 / 2, c2 := c.c2 / 2, c3 := c.c3 / 2 }) }
      some { s.modMem half with due := { s.due with place := s.due.place + len } }

/-- `onPlacementInterval`, where the state brings it about. -/
def execPlacementInterval (s : State) : Host.Outcome State Fault Refusal := happens s (onPlacementInterval s)

end Sys2Proof.Machine
end

