-- ==== Sys2Proof/Machine/Distributor.lean ====
section
/-! DEFINITION. The launch distributor: admission, the queues, placement, dispatch, cooperative launches, migration between
dies, and the partition commands of the Adeol module controller (17 R357-R366, R376, R380; 22 R449-R456). -/

namespace Sys2Proof.Machine

open Sys2Proof

-- Admission (22 R456)

/-- Energy that the launch's teams have used. -/
def launchUsed (s : State) (n : Nat) : Nat := ((s.teams.filter (fun t => t.launch == n)).map (·.energyused)).sum

/-- H of R456. -/
def headroom (s : State) (p : Nat) : Int :=
  (enumFrom 0 s.launches).foldl (fun h (x : Nat × Launch) =>
    if x.2.part == p && (match x.2.st with
      | .admitted => true
      | .running => true
      | _ => false) then h - max 0 ((x.2.info.energy : Int) - launchUsed s x.1) else h) (s.part p).energyres

-- Team records (R362, R366, R367)

def teamAt (s : State) (n k : Nat) : Option Nat := (List.range s.teams.length).find? (fun t => (s.team t).launch == n && (s.team t).idx == k)

/-- Team k of launch n joins the queue of its launch's die (R366, R367 PENDING). -/
def pendTeam (s : State) (n k : Nat) : State × Nat :=
  match teamAt s n k with
  | some t => (s, t)
  | none =>
    let l := s.launch n
    let a := arenaOf l.info k
    let x : Team :=
      { Team.blank with
        launch := n, part := l.part, idx := k, nspin := l.info.spindles, tiles := l.info.tiles, qdie := l.die,
        since := s.clock.ns, prio := BitVec.ofNat 4 l.prio, rollb := l.info.rollb, regarena := a.1, spawnarena := a.2 }
    ({ s with teams := s.teams ++ [x] }, s.teams.length)

/-- Launch n is admitted: its teams wait on its die from now on. -/
def admitOne (s : State) (n : Nat) : State :=
  (List.range (s.launch n).info.teams).foldl (fun s k => (pendTeam s n k).1) (s.modLaunch n (fun l => { l with st := .admitted }))

/-- READY launches from priority 15 down; the first that does not fit ends the cycle's admission. -/
def admitList (s : State) (p : Nat) : List Nat → State
  | [] => s
  | n :: rest =>
    let l := s.launch n
    if l.root || decide ((l.info.energy : Int) ≤ headroom s p) then admitList (admitOne s n) p rest else s
def admitLaunches (s : State) (p : Nat) : State :=
  let ready := (List.range s.launches.length).filter (fun n => (s.launch n).part == p && (s.launch n).st == .ready && !(s.launch n).discarded)
  admitList s p (sortBy (fun n => (15 - (s.launch n).prio) * 2 ^ 64 + (s.launch n).num) ready)

-- Dispatch (R362)

/-- The teams of a launch that have not been dispatched, in ascending index; those on their way to another die are in no queue (R366). -/
def undispatched (s : State) (n : Nat) : List Nat :=
  sortBy (fun t => (s.team t).idx) ((s.teamsOf n).filter (fun t => (s.team t).st == .pending || (s.team t).st == .reserved))

/-- The launch after team k of it is dispatched: RUNNING after the last (R358). -/
def countDispatch (s : State) (n k : Nat) : State :=
  let s := s.modLaunch n (fun l => { l with next := max l.next (k + 1) })
  if (undispatched s n).isEmpty then s.modLaunch n (fun l => { l with st := .running }) else s

/-- FIRST DISPATCH of a team on a pavilion's cores: the steps of R362. -/
def dispatchTeam (s : State) (t pav : Nat) (cores : List Nat) : Got Unit :=
  let n := (s.team t).launch
  let r := (s.launch n).info
  let c := cores.length
  let s := s.modTeam t (fun x => { x with st := .running, cores := c, share := shareOfCores r.scratch c, ranks := cores, pav := pav, tres := s.clock.ns,
                                          dispatched := s.nextId, reserve := none })
  let s := { s with nextId := s.nextId + 1 }
  (devWrite s (s.teamWho t) (s.team t).arenaBase 0x10000 (contextFresh s t)).lossy.andThen (fun s _ =>
    let s := cores.foldl coreAcquire s
    (overList (List.range r.spindles) s (fun s i =>
      let rank := i / ((r.spindles + c - 1) / c)
      let core := cores.getD rank 0
      match takeChunks s t (1 + r.vcount / 16), freePlace s core with
      | some (s, chunks), some (q, k) =>
        let p := s.spindles.length
        (writeImage (vectorsSet (addSpindle s t i core rank q k r.entry (BitVec.allOnes 32) chunks) p (List.range r.vcount)) p).lossy
      | _, _ => .ok s ())).andThen (fun s _ =>
      let s := if r.rollb then openInterval s t 0#32 else s
      .ok (countDispatch s n (s.team t).idx) ()))

/-- A queued team starts or goes on; answers whether it could: an access that has to wait puts it off. -/
def startTeam (s : State) (t pav : Nat) (cores : List Nat) : State × Bool :=
  match (if (s.team t).st == .suspended then resumeTeam s t pav cores else dispatchTeam s t pav cores) with
  | .ok s _ => (s, true)
  | .bad s _ _ => (s, true)
  | .absent s' _ _ => (s.withReqs s'.mem.reqs, false)
  | .wait h => (s.askBack h, false)

-- Placement (R361, R363)

abbrev Rooms := List (Nat × List CoreRoom)

/-- Where a team fits: its pavilion, the cores of its ranks and what they give. -/
def fitTeam (s : State) (t : Nat) (order : List Nat) (rooms : Rooms) : Option (Nat × List Nat × List RankNeed) :=
  let x := s.team t
  if x.st == .suspended then
    order.findSome? (fun v => match rooms.find? (fun y => y.1 == v) with
      | none => none
      | some y => (fitRanks y.2 (resumeNeeds s t)).map (fun l => (v, l, resumeNeeds s t)))
  else
    let r := (s.launch x.launch).info
    (placeFresh r order rooms).map (fun y => (y.1, y.2, r.needs y.2.length))

/-- A reservation takes its room, or the whole pavilion while it has none. -/
def lessReserved (s : State) (rooms : Rooms) (u : Nat) : Rooms :=
  match (s.team u).reserve with
  | none => rooms
  | some v =>
    match fitTeam s u [v] rooms with
    | some f => takeRoom rooms f.2.1 f.2.2
    | none => rooms.filter (fun x => x.1 != v)

/-- The room that a team which cannot be placed waits for: its priority, and what it would take of which cores (R360). -/
structure Wanted where
  prio : Nat
  cores : List Nat
  needs : List RankNeed
  deriving DecidableEq, Repr

/-- The rooms that a team of a priority may use: less what teams of higher priority wait for, and not those reserved for higher priority or for its
own siblings. -/
def roomsFor (s : State) (p prio : Nat) (own : Option Nat) (wanted : List Wanted) : Rooms :=
  let all : Rooms := (s.part p).pavs.map (fun v => (v, pavRoom s v))
  let all := (wanted.filter (fun w => decide (prio < w.prio))).foldl (fun a w => takeRoom a w.cores w.needs) all
  ((List.range s.teams.length).filter (fun u =>
    let x := s.team u
    x.part == p && !x.st.over && x.reserve.isSome && (own == some x.launch || decide (prio < (s.launch x.launch).prio)))).foldl (lessReserved s) all

/-- The partition's rooms when nothing holds any. -/
def emptyRooms (s : State) (p : Nat) : Rooms :=
  (s.part p).pavs.map (fun v => (v, (((List.range Config.coresPerPav).map (fun k => Config.coresPerPav * v + k)).filter (coreUsable s)).map emptyRoom))

/-- The state as it will be when team v has given everything back. -/
def without (s : State) (v : Nat) : State :=
  let s := { s with
    spindles := s.spindles.map (fun (sp : Spindle) => if sp.team == v && sp.st == SpSt.resident then { sp with st := .suspended } else sp),
    cursors := s.cursors.filter (fun (c : Cursor) => c.team != v), latches := s.latches.filter (fun (c : Latch) => c.team != v),
    bins := s.bins.filter (fun (b : Bin) => b.team != v) }
  s.modTeam v (fun x => { x with st := .suspended })
/-- A team with the siblings that stop with it (R365). -/
def groupOf (s : State) (v : Nat) : List Nat :=
  if (s.launchOf v).info.coop then (s.teamsOf (s.team v).launch).filter (fun u => (s.team u).st.holds) else [v]

/-- Running teams of lower priority, the lowest first and then the most recently dispatched first. -/
def victims (s : State) (p prio : Nat) : List Nat :=
  sortBy (fun v => (s.team v).prio.toNat * 2 ^ 64 + (2 ^ 64 - 1 - (s.team v).dispatched))
    ((List.range s.teams.length).filter (fun v => (s.team v).part == p && (s.team v).st == .running && decide ((s.team v).prio.toNat < prio)))

/-- Suspends victims until the team would fit; answers the teams that stop for it and where it would then fit. -/
def stopUntil {α : Type} (fit : State → Option α) : State → List Nat → List Nat → List Nat × Option α
  | g, [], new => (new, fit g)
  | g, v :: rest, new =>
    match fit g with
    | some x => (new, some x)
    | none =>
      if (g.team v).st == .suspended then stopUntil fit g rest new
      else stopUntil fit ((groupOf g v).foldl without g) rest (new ++ groupOf g v)

/-- R363 for team t: begins the suspensions it needs, and answers where it would then fit. -/
def evictFor (s : State) (p t : Nat) (order : List Nat) (rooms : State → Rooms) : State × Option (Nat × List Nat × List RankNeed) :=
  let going := (List.range s.teams.length).filter (fun v => (s.team v).part == p && (s.team v).st == .suspending)
  let r := stopUntil (fun g => fitTeam g t order (rooms g)) (going.foldl without s) (victims s p (s.team t).prio.toNat) []
  (r.1.foldl beginSuspend s, r.2)

-- The queues (R360)

/-- The state of a service of the queues: the room that teams wait for, and whether a team was placed. -/
structure Serve where
  s : State
  wanted : List Wanted
  done : Bool

/-- Launches of a partition in the queue of a priority. -/
def queued (s : State) (p q : Nat) : List Nat :=
  (List.range s.launches.length).filter (fun n => (s.launch n).part == p && (s.launch n).st == .admitted && (s.launch n).prio == q)
def queueHead (s : State) (p q : Nat) : Option Nat := (sortBy (fun n => (s.launch n).num) (queued s p q)).head?
/-- An ADMITTED launch of higher priority waits. -/
def higherWaits (s : State) (p q : Nat) : Bool := (List.range 16).any (fun k => decide (q < k) && !(queued s p k).isEmpty)

/-- Suspended teams of a priority in the order of their suspension; those on their way to another die are in no queue. -/
def suspendedOf (s : State) (p q : Nat) : List Nat :=
  sortBy (fun t => (s.team t).suspSeq) ((List.range s.teams.length).filter (fun t =>
    (s.team t).part == p && (s.team t).st == .suspended && (s.team t).prio.toNat == q && !s.distMsgs.contains t))

/-- A team that is not of a cooperative launch. The room that it waits for is what it takes once the suspensions that it began are over; DESIGN
CHOICE (log entry 98): where none of them makes room for it, what it would take of its partition's empty pavilions. -/
def serveTeam (x : Serve) (p t : Nat) : Serve :=
  if x.done then x
  else
    let pt := x.s.part p
    let order := pavOrder pt (x.s.team t).qdie
    let q := (x.s.team t).prio.toNat
    match fitTeam x.s t order (roomsFor x.s p q none x.wanted) with
    | some f =>
      let r := startTeam x.s t f.1 f.2.1
      { x with s := r.1, done := r.2 }
    | none =>
      let r := evictFor x.s p t order (fun g => roomsFor g p q none x.wanted)
      let place := if r.2.isSome then r.2 else fitTeam x.s t order (emptyRooms x.s p)
      { x with s := r.1, wanted := match place with
        | some f => x.wanted ++ [{ prio := q, cores := f.2.1, needs := f.2.2 }]
        | none => x.wanted }

/-- The teams of a cooperative launch fit their reserved pavilions together. -/
def allFit (s : State) (rooms : Rooms) : List Nat → Option (List (Nat × Nat × List Nat))
  | [] => some []
  | t :: rest =>
    match (s.team t).reserve with
    | none => none
    | some v =>
      match fitTeam s t [v] rooms with
      | none => none
      | some f => (allFit s (takeRoom rooms f.2.1 f.2.2) rest).map (fun l => (t, f.1, f.2.1) :: l)

def cancelReserve (s : State) (n : Nat) : State :=
  let s := (s.teamsOf n).foldl (fun s t => s.modTeam t (fun x => { x with reserve := none, st := if x.st == .reserved then .pending else x.st })) s
  s.modLaunch n (fun l => { l with step := 0 })

/-- Reserves a pavilion for a team, and begins the suspensions that it needs (R364 step 2). -/
def reserveTeam (s : State) (p n q t : Nat) (wanted : List Wanted) : State :=
  if (s.team t).reserve.isSome then s
  else
    let order := pavOrder (s.part p) (s.launch n).die
    let rooms (g : State) : Rooms := roomsFor g p q (some n) wanted
    let put (s : State) (v : Nat) : State := s.modTeam t (fun x => { x with reserve := some v, st := if x.st == .pending then .reserved else x.st })
    match fitTeam s t order (rooms s) with
    | some f => put s f.1
    | none =>
      let r := evictFor s p t order rooms
      match r.2 with
      | some f => put r.1 f.1
      | none => r.1

/-- Every team of a list starts or goes on where it fits, or none does: where one has to wait, only the page requests and the lines asked back stay
(R364 steps 4 and 5, R365). -/
def startAll (s : State) (l : List (Nat × Nat × List Nat)) : State × Bool :=
  let r := l.foldl (fun (a : State × Bool) y => if a.2 then startTeam a.1 y.1 y.2.1 y.2.2 else a) (s, true)
  if r.2 then r else ((s.withReqs r.1.mem.reqs).modMem (fun m => { m with hostWait := r.1.mem.hostWait }), false)

/-- Launch m is between steps 2 and 5: it has a team that has not ended. -/
def placing (s : State) (m : Nat) : Bool :=
  decide (2 ≤ (s.launch m).step) && (s.launch m).st != .complete && (s.teamsOf m).any (fun t => !(s.team t).st.over)

/-- A cooperative launch: its teams `ts` are placed or resumed all together by the steps of R364. -/
def serveCoop (x : Serve) (p n q : Nat) (ts : List Nat) : Serve :=
  let busy := (List.range x.s.launches.length).any (fun m => m != n && (x.s.launch m).part == p && placing x.s m)
  if x.done || busy || higherWaits x.s p q then x
  else
    match (if (x.s.launch n).step = 3 then allFit x.s (roomsFor x.s p q none x.wanted) ts else none) with
    | some l =>
      let r := startAll x.s l
      { x with s := if r.2 then r.1.modLaunch n (fun l => { l with step := 0 }) else r.1, done := r.2 }
    | none =>
      let s := ts.foldl (fun s t => reserveTeam s p n q t x.wanted) x.s
      { x with s := s.modLaunch n (fun l => { l with step := if ts.all (fun t => (s.team t).reserve.isSome) then 3 else 2 }) }

/-- The suspended teams of priority q, then the head launch's next team (R360). A launch none of whose teams is left to dispatch leaves its
queue. -/
def servePrio (x : Serve) (p q : Nat) : Serve :=
  let x := (suspendedOf x.s p q).foldl (fun x t =>
    let n := (x.s.team t).launch
    if !(x.s.launch n).info.coop then serveTeam x p t
    else
      let ts := (x.s.teamsOf n).filter (fun u => !(x.s.team u).st.over)
      if ts.all (fun u => (x.s.team u).st == .suspended) && (suspendedOf x.s p q).find? (fun u => (x.s.team u).launch == n) == some t then serveCoop x p n q ts else x) x
  match (if x.done then none else queueHead x.s p q) with
  | none => x
  | some n =>
    let l := undispatched x.s n
    if l.isEmpty then { x with s := x.s.modLaunch n (fun l => { l with st := .running, step := 0 }) }
    else if (x.s.launch n).info.coop then serveCoop x p n q l
    else
      match l.find? (fun t => !x.s.distMsgs.contains t) with
      | some t => serveTeam x p t
      | none => x

/-- The queues from priority 15 down, after reservations that a launch of higher priority cancels (R360, R364). -/
def serveQueues (s : State) (p : Nat) : State :=
  let s := ((List.range s.launches.length).filter (fun n =>
    let l := s.launch n
    l.part == p && 2 ≤ l.step && higherWaits s p l.prio)).foldl cancelReserve s
  ((List.range 16).foldl (fun x k => servePrio x p (15 - k)) { s := s, wanted := [], done := false }).s

-- The cycle (R360, 22 R451)

def partitionCycle (s : State) (p : Nat) : State :=
  let pt := s.part p
  if !pt.started || pt.halted then s
  else if pt.haltReason != 0 then haltStep s p
  else if pt.deadline != 0#64 && decide (pt.deadline.toNat ≤ pt.used) then startHalt s p 1 0xFF
  else serveQueues (admitLaunches s p) p

/-- DISTRIBUTOR_CYCLE: every 16 ns the deadlines are compared, launches admitted, teams placed and due DONE words written. -/
def onDistributorCycle (s : State) : Option State :=
  if s.clock.ns < s.distNext then none
  else
    let s := { s with distNext := (s.clock.ns / 16 + 1) * 16 }
    let s := (List.range s.parts.length).foldl partitionCycle s
    some ((List.range s.launches.length).foldl (fun s n => if launchDue s n then finishLaunch s n else s) s)

/-- `onDistributorCycle`, where the state brings it about. -/
def execDistributorCycle (s : State) : Host.Outcome State Fault Refusal := happens s (onDistributorCycle s)

-- Migration between dies (R366)

/-- Free slots that a die advertises for a partition. -/
def dieSlots (s : State) (p die : Nat) : Nat :=
  (((s.part p).pavs.filter (fun v => dieOfPav v == die)).flatMap (fun v => (pavRoom s v).map (·.slots))).sum
def bestDie (s : State) (p : Nat) : Nat :=
  (List.range Config.dies).foldl (fun b d => if dieSlots s p b < dieSlots s p d then d else b) 0

/-- A team waits in a queue: undispatched or suspended, and not of a cooperative launch. -/
def waitsForPlace (s : State) (t : Nat) : Bool :=
  (match (s.team t).st with
   | .pending => true
   | .suspended => true
   | _ => false) && !(s.launchOf t).info.coop && !s.distMsgs.contains t && t < s.teams.length && (s.part (s.team t).part).haltReason == 0

/-- TEAM_MIGRATION_DIE: a team that has waited 20,000 ns goes as a message to the die with the most free slots. -/
def onTeamMigrationDie (team : Nat) (s : State) : Option State :=
  let x := s.team team
  let d := bestDie s x.part
  if !waitsForPlace s team || s.clock.ns < x.since + 20000 || d == x.qdie then none
  else some { s.modTeam team (fun x => { x with qdie := d, sdie := x.qdie }) with distMsgs := s.distMsgs ++ [team] }

/-- `onTeamMigrationDie`, where the state brings it about. -/
def execTeamMigrationDie (team : Nat) (s : State) : Host.Outcome State Fault Refusal := happens s (onTeamMigrationDie team s)

/-- A message sent earlier between the same two dies has not arrived yet: messages of a class arrive in order (R416). -/
def messageBefore (s : State) (team : Nat) : Bool :=
  (s.distMsgs.takeWhile (· != team)).any (fun u => (s.team u).sdie == (s.team team).sdie && (s.team u).qdie == (s.team team).qdie)

/-- DISTRIBUTOR_MESSAGE: the entry joins the queues of its new die, in its priority and order. -/
def onDistributorMessage (team : Nat) (s : State) : Option State :=
  if !s.distMsgs.contains team || messageBefore s team then none
  else some { s.modTeam team (fun x => { x with since := s.clock.ns }) with distMsgs := s.distMsgs.erase team }

/-- `onDistributorMessage`, where the state brings it about. -/
def execDistributorMessage (team : Nat) (s : State) : Host.Outcome State Fault Refusal := happens s (onDistributorMessage team s)

-- Adeol commands (R357, R376, R380; 22 R452)

/-- The partition of a number. -/
def partNum (s : State) (pnum : Nat) : Option Nat := (List.range s.parts.length).find? (fun p => (s.part p).pnum.toNat == pnum)

/-- ADEOL_PARTITION_CONFIG: a partition's pavilions and memory share, which nothing changes while it lives (R380). -/
def onAdeolPartitionConfig (pnum : Nat) (pavs : List Nat) (share : Nat) (s : State) : Option State :=
  let mine := partNum s pnum
  let others := (enumFrom 0 s.parts).filter (fun (x : Nat × Partition) => some x.1 != mine)
  let bad := pavs.isEmpty || pavs.any (fun v => decide (Config.pavCount ≤ v) || others.any (fun x => x.2.pavs.contains v)) || (pavs.foldl insertNat []).length != pavs.length ||
    2 ^ 16 ≤ pnum || fencedHost s || s.nvm.recovery || mine.any (fun p => (s.part p).started && !(s.part p).halted)
  if bad then none
  else
    match mine with
    | some p => some (s.modPart p (fun x => { x with pavs := pavs, share := share }))
    | none => some { s with parts := s.parts ++ [{ Partition.blank with pnum := BitVec.ofNat 16 pnum, pavs := pavs, share := share }] }

/-- `onAdeolPartitionConfig`, where the state brings it about. -/
def execAdeolPartitionConfig (pnum : Nat) (pavs : List Nat) (share : Nat) (s : State) : Host.Outcome State Fault Refusal := happens s (onAdeolPartitionConfig pnum pavs share s)

/-- A root launch record is read through the partition's context (R354, R357). -/
def readRoot (s : State) (p : Nat) (va : DWord) : Got Nat :=
  let w : Who := { core := Config.coresPerPav * lowPav (s.part p), pn := (s.part p).pnum, asid := (s.part p).asid, team := s.teams.length }
  let nd : Need := { r := true, w := false, x := false }
  (checkAccess s w va 64 nd false).andThen (fun s _ => (checkAccess s w (va + 255#64) 1 nd false).andThen (fun s _ =>
    (devRead s w va 128).andThen (fun s lo => (devRead s w (va + 128#64) 128).andThen (fun s hi => .ok s (lo ||| hi <<< 1024)))))

/-- ADEOL_PARTITION_START: the partition starts afresh and its root launch is performed; a command that cannot be accepted
or whose record fails answers its cause (R357, R375; 18 R411; 22 R450). -/
def onAdeolPartitionStart (part asid record : Nat) (s0 : State) : Option State :=
  let s0 := takeWrites s0
  match partNum s0 part with
  | none => none
  | some p =>
    let pt := s0.part p
    if (pt.started && !pt.halted) || 2 ^ 14 ≤ asid || fencedHost s0 then none
    else if !s0.adeol.astbase.getLsbD 0 || s0.nvm.recovery then some (s0.reply (.start part 0xFF))
    else
      let again (t : State) : State := { t with agenda := t.agenda ++ [.adeolPartitionStart part asid record] }
      let s := s0.modPart p (fun x =>
        { Partition.blank with pnum := x.pnum, pavs := x.pavs, share := x.share, energyres := x.energyres, started := true, asid := BitVec.ofNat 14 asid })
      let va := BitVec.ofNat 64 record
      match (readRoot s p va).andThen (fun s v => (recordCheck s p 0 v).andThen (fun s c => .ok s (v, c))) with
      | .ok s (_, some c) => some ((s.modPart p (fun _ => pt)).reply (.start part c.toNat))
      | .ok s (v, none) => some (queueLaunch s p (recordOf v) va 0 true true none).1
      | .bad s c _ => some ((s.modPart p (fun _ => pt)).reply (.start part (if c == 0x0B#8 then 0x09 else c.toNat)))
      | .absent s _ _ => some (again (waitStep s0 s.mem.reqs none))
      | .wait h => some (again (waitStep s0 s0.mem.reqs h))

/-- `onAdeolPartitionStart`, where the state brings it about. -/
def execAdeolPartitionStart (part asid record : Nat) (s0 : State) : Host.Outcome State Fault Refusal := happens s0 (onAdeolPartitionStart part asid record s0)

/-- ADEOL_KILL (R376): SOURCE 6. -/
def onAdeolKill (team : Nat) (s : State) : Option State :=
  if s.teams.length ≤ team || (s.team team).st.over || fencedHost s then none
  else some (killTeam s team (KillRep.plain 0#8 6))

/-- `onAdeolKill`, where the state brings it about. -/
def execAdeolKill (team : Nat) (s : State) : Host.Outcome State Fault Refusal := happens s (onAdeolKill team s)

/-- ADEOL_HALT (22 R452): reason 3; it merges into a halt that has begun. -/
def onAdeolHalt (part : Nat) (s : State) : Option State :=
  match partNum s part with
  | none => none
  | some p =>
    if !(s.part p).started || fencedHost s then none
    else some (startHalt s p 3 0xFF)

/-- `onAdeolHalt`, where the state brings it about. -/
def execAdeolHalt (part : Nat) (s : State) : Host.Outcome State Fault Refusal := happens s (onAdeolHalt part s)

end Sys2Proof.Machine
end

