-- ==== Sys2Proof/Machine/Errors.lean ====
section
/-! DEFINITION. Uncorrectable errors and the rotation scan (21 R430, R431, R444-R448; 22 R459). -/

namespace Sys2Proof.Machine

open Sys2Proof

-- Marks (R430)

/-- Sets marks on a line's sectors. -/
def Line.mark (x : Line) (m : BitVec 4) : Line := { x with poison := x.poison ||| m }

/-- Lifetime IDs of uncorrected errors (22 R459): SRAM of a device core, an L2 slice, and a channel of an HBM stack. -/
def lifeCore (core : Nat) : Nat := 0x2000 + 2 * core + 1
def lifeSlice (die slice : Nat) : Nat := 0x2200 + 2 * (Config.slicesPerDie * die + slice) + 1
def lifeHbm (pa : Nat) : Nat := 0x1000 + 64 * (pa / Config.stackBytes) + 2 * (Config.hbmChannel pa).val + 1

/-- UNIT of an error record (R445): a die and a number within it, or a device core number. -/
def unitOf (die n : Nat) : Nat := die <<< 8 ||| n % 256

/-- The sectors of a team's scratchpad or faceplate unit. -/
def markKeys (key : Nat) (m : BitVec 4) (l : List Nat) : List Nat := ((List.range 4).filter (fun i => m.getLsbD i)).foldl (fun l i => insertNat l (key / 32 + i)) l

/-- POISON_MARK: an uncorrectable error marks sectors where it strikes, an error record of kind 1 is written, and the lifetime
count rises. DESIGN CHOICE (log entry 122): UNIT of an HBM error names the agent of the line's home, agent 0 of the stack's die without a mapping. An error in an engine's own state marks nothing: it is a command fault with ENGINE_FAULT (08 R186, 09 R225), and no
record source names it (R445). -/
def onPoisonMark (place : PoisonPlace) (s : State) : Option State :=
  let no : Option State := none
  match place with
  | .hbm pa m =>
    if Config.hbmTop ≤ pa then no
    else
      let a := pa / 128 * 128
      let mark (a : Nat) (x : MemSys) : MemSys := (List.range 4).foldl (fun x i => if m.getLsbD i then x.setMark (a / 32 + i) true else x) x
      let s := s.modMem (fun x => ((copiedPa x a).map mark).getD id (mark a x))
      let unit := match lineOfPa s a with
        | some (ea, ln) => unitOf (homeDie s ea ln) (agentOf 0 ea ln)
        | none => unitOf (pa / Config.stackBytes / 2) 0
      some (lifeAdd (errRecord s 1 1 unit m.toNat (BitVec.ofNat 64 a) 0 0 0 0) (lifeHbm pa) 1)
  | .l1 core ea ln m =>
    match l1Find s.mem core ea ln with
    | none => no
    | some x =>
      let s := s.modMem (fun y => l1Put y { x with line := x.line.mark m })
      some (lifeAdd (errRecord s 1 3 (unitOf (dieOfCore core) core) m.toNat (vaOfLn ln) 0 0 0 0) (lifeCore core) 1)
  | .l2 ea ln m =>
    match homeFind s.mem ea ln with
    | none => no
    | some h =>
      let s := s.modMem (fun y => homePut y { h with line := h.line.mark m })
      let d := homeDie s ea ln
      some (lifeAdd (errRecord s 1 2 (unitOf d (sliceOf ea ln)) m.toNat (vaOfLn ln) 0 0 0 0) (lifeSlice d (sliceOf ea ln)) 1)
  | .buffer ea ln m =>
    match bufFind s.mem ea ln with
    | none => no
    | some b =>
      let s := s.modMem (fun y => { y with buf := y.buf.map (fun x => if x.ea == ea && x.ln == ln then { x with line := x.line.mark m } else x) })
      some (errRecord s 1 7 (unitOf (b.agent / Config.agentsPerDie) (b.agent % Config.agentsPerDie)) m.toNat (vaOfLn ln) 0 0 0 0)
  | .regLine sp reg m =>
    let x := s.spindle sp
    if x.st != .resident || x.vcount ≤ reg then no
    else
      let mark (y : Spindle) : Spindle := { y with vpoison := cellSet y.vpoison reg (cellGet y.vpoison reg ||| m) }
      let s := strikeUnit (s.modSp sp mark) x.team (.image sp (16 + reg)) (fun sn => { sn with spindles := sn.spindles.map (fun p => if p.1 == sp then (p.1, mark p.2) else p) })
      some (lifeAdd (errRecord s 1 4 (unitOf (dieOfCore x.core) x.core) m.toNat (s.vectorVa sp reg) 0 0 0 0) (lifeCore x.core) 1)
  | .uniLine sp line m =>
    let x := s.spindle sp
    if x.st != .resident || 16 ≤ line then no
    else
      let mark (y : Spindle) : Spindle := { y with upoison := cellSet y.upoison line (cellGet y.upoison line ||| m) }
      let s := strikeUnit (s.modSp sp mark) x.team (.image sp line) (fun sn => { sn with spindles := sn.spindles.map (fun p => if p.1 == sp then (p.1, mark p.2) else p) })
      some (lifeAdd (errRecord s 1 4 (unitOf (dieOfCore x.core) x.core) m.toNat (s.imageVa sp + BitVec.ofNat 64 (128 * line)) 0 0 0 0) (lifeCore x.core) 1)
  | .scratch t rank line m =>
    let x := s.team t
    if !x.st.holds || x.cores ≤ rank || x.share ≤ 128 * line then no
    else
      let key := scratchKeyOf rank (128 * line)
      let core := x.ranks.getD rank 0
      let s := strikeUnit (s.modTeam t (fun y => { y with scratchPoison := markKeys key m y.scratchPoison })) t (.scratch (key / 128)) (fun sn =>
        { sn with scratchPoison := markKeys key m sn.scratchPoison })
      some (lifeAdd (errRecord s 1 5 (unitOf (dieOfCore core) core) m.toNat (BitVec.ofNat 64 key) 0 0 0 0) (lifeCore core) 1)
  | .face t rank line m =>
    let x := s.team t
    if !x.st.holds || x.cores ≤ rank || 8 * x.tiles ≤ line then no
    else
      let key := faceKey rank 0 0 + 128 * line
      let core := x.ranks.getD rank 0
      let s := strikeUnit (s.modTeam t (fun y => { y with facePoison := markKeys key m y.facePoison })) t (.face (key / 128)) (fun sn =>
        { sn with facePoison := markKeys key m sn.facePoison })
      some (lifeAdd (errRecord s 1 6 (unitOf (dieOfCore core) core) m.toNat (BitVec.ofNat 64 key) 0 0 0 0) (lifeCore core) 1)
  | .hostData ea ln m =>
    match homeFind s.mem ea ln with
    | none => no
    | some h =>
      let s := s.modMem (fun y => homePut y { h with line := h.line.mark m })
      some (errRecord s 1 9 (unitOf (homeDie s ea ln) (sliceOf ea ln)) m.toNat (vaOfLn ln) 0 0 0 0)
  | .engine id =>
    match s.cmds.find? (fun c => c.id == id) with
    | none => no
    | some c => some (failCommand s c 0x0D#8 0)
  | .corrected id => if (0x1000 ≤ id && id < 0x1000 + 64 * 8 || 0x2000 ≤ id && id < 0x2000 + 2 * Config.coreCount || 0x2200 ≤ id && id < 0x2200 + 2 * Config.coreCount) && id % 2 == 0
    then some (lifeAdd s id 1) else none

/-- `onPoisonMark`, where the state brings it about. -/
def execPoisonMark (place : PoisonPlace) (s : State) : Host.Outcome State Fault Refusal := happens s (onPoisonMark place s)

-- The rotation scan (R446-R448)

def fencedCore (s : State) (c : Nat) : Bool :=
  let f := if c < 64 then s.adeol.cfence0 else if c < 128 then s.adeol.cfence1 else s.adeol.cfence2
  f.getLsbD (c % 64)

/-- The next core in ascending order that is not fenced. -/
def nextScan (s : State) : Option Nat :=
  ((List.range Config.coreCount).map (fun k => (s.scan.next + k) % Config.coreCount)).find? (fun c => !fencedCore s c)

/-- Device time between the beginnings of two scans: PERIOD × 60 s / 192; 0 acts as 1. -/
def scanPeriod (s : State) : Nat := max 1 (bitsOf s.adeol.scanctl.toNat 32 16) * 312_500_000

/-- SCAN_START: the next core is withdrawn from placement, and every team with a slot or a dormant spindle on it stops, with
its cooperative siblings (R446 steps 1 and 2). -/
def onScanStart (s : State) : Option State :=
  match nextScan s with
  | none => none
  | some c =>
    if !s.adeol.scanctl.getLsbD 63 || baseOf s.adeol.scanrec = 0 || s.scan.core.isSome || s.clock.ns < s.scan.began + scanPeriod s then
      none
    else
      let on := (List.range s.teams.length).filter (fun t => (s.team t).st == .running &&
        s.spindles.any (fun sp => sp.team == t && sp.core == c && (sp.st == .resident || sp.st == .dormant)))
      let s := { s with
        scan := { core := some c, next := (c + 1) % Config.coreCount, began := s.clock.ns, held := s.clock.ns },
        adeol := { s.adeol with scanstat := (s.adeol.scanstat &&& 0x00FF_FFFF_FFFF_FFFF#64) ||| BitVec.ofNat 64 (c <<< 56) } }
      some (on.foldl suspendGroup s)

/-- `onScanStart`, where the state brings it about. -/
def execScanStart (s : State) : Host.Outcome State Fault Refusal := happens s (onScanStart s)

/-- A core's state is reset: its copies end and its cycle counter starts again (R446 step 4). -/
def resetCore (s : State) (c : Nat) : State :=
  let s := (s.mem.l1.filter (fun x => x.core == c)).foldl (fun s x => l1End s x.core x.ea x.ln) s
  let s := s.modMem (fun m => { m with icache := m.icache.filter (fun x => x.core != c), rights := m.rights.filter (fun x => x.unit != c) })
  { s with rcache := s.rcache.filter (fun x => x.core != c), clock := { s.clock with coreBase := cellSet s.clock.coreBase c (BitVec.ofNat 64 s.clock.cycle) } }

/-- A failed scan fences its core, keeps the provisional record and writes an error record of kind 4 (R448). -/
def failScan (s : State) (c : Nat) : State :=
  let pa := (scanRecPa s c).getD 0
  let s := errRecord s 4 0 (unitOf (dieOfCore c) c) 0 0#64 0 (paRead s pa 8) (paRead s (pa + 8) 4) (paRead s (pa + 12) 1 % 2)
  let b := BitVec.ofNat 64 (2 ^ (c % 64))
  let a := s.adeol
  let a := if c < 64 then { a with cfence0 := a.cfence0 ||| b } else if c < 128 then { a with cfence1 := a.cfence1 ||| b } else { a with cfence2 := a.cfence2 ||| b }
  lifeAdd { s with adeol := a } 4 1

/-- A passing scan clears the core's record, writes TPASS and counts (R447). -/
def passScan (s : State) (c : Nat) : State :=
  let pa := (scanRecPa s c).getD 0
  let s := if pa = 0 then s else paWrites s pa 4096 s.clock.ns
  let n := min 0xFFFF_FFFF (bitsOf s.adeol.scanstat.toNat 0 32 + 1)
  { s with adeol := { s.adeol with scanstat := (s.adeol.scanstat &&& ~~~0xFFFF_FFFF#64) ||| BitVec.ofNat 64 n } }

/-- SCAN_END: the patterns have run for DURATION since its last team left the core (R446). -/
def onScanEnd (pass : Bool) (s : State) : Option State :=
  match s.scan.core with
  | none => none
  | some c =>
    if !coreFree s c || s.clock.ns < s.scan.held + bitsOf s.adeol.scanctl.toNat 0 32 * 1_000_000 then none
    else
      let s := resetCore s c
      let s := if pass then passScan s c else failScan s c
      some { s with scan := { s.scan with core := none } }

/-- `onScanEnd`, where the state brings it about. -/
def execScanEnd (pass : Bool) (s : State) : Host.Outcome State Fault Refusal := happens s (onScanEnd pass s)

end Sys2Proof.Machine
end

