-- ==== Sys2Proof/Machine/Fabric.lean ====
section
/-! DEFINITION. The host and the links: snoops, the CXL.mem window, the host's answers, retrains and failures of links, and
the fences (19 R412-R421; 21 R440). -/

namespace Sys2Proof.Machine

open Sys2Proof

-- Snoops and host accesses (R413, R414)

/-- What the host is given of a line: its bytes, with the marks above them. -/
def hostLine (x : Line) : Nat := x.data.toNat ||| x.poison.toNat <<< 1024

/-- HOST_SNOOP: a host-memory line that the device caches is given to the host, merged over memory; its dirty bytes go to
host memory, and with `inv` the device's copy at the home ends (R414; 14 R327). A line that a commit has locked makes it wait (13 R318). -/
def onHostSnoop (pa : Nat) (inv : Bool) (s : State) : Option State :=
  let no : Option State := none
  let pa := pa / 128 * 128
  if pa < Config.hostBase || Config.hostTop ≤ pa || fencedHost s then no
  else
    match lineOfPa s pa with
    | none => no
    | some (ea, ln) =>
      let under (x : Line) : Line := x.under (physLine s.mem pa) (physMarks s.mem pa)
      match homeFind s.mem ea ln, bufFind s.mem ea ln with
      | some h0, _ =>
        if locked s ea ln then some (requeue s (.hostSnoop pa inv))
        else
        let (s, h) := recallLine s h0
        let s := homeTouch s h none
        let x := under h.line
        let s := s.modMem (fun m => memStore m pa x h.line.dirty)
        let s := if inv then raiseFloor s (homeDie s ea ln) h else s
        let s := s.modMem (fun m => if inv then homeDel m ea ln else homePut m { h with line := { x.clean with poison := x.poison }, pend := false })
        some (s.reply (.host pa (hostLine x)))
      | none, some b =>
        let x := under b.line
        some ((s.modMem (fun m => bufDel (memStore m pa x b.line.dirty) ea ln)).reply (.host pa (hostLine x)))
      | none, none => no

/-- `onHostSnoop`, where the state brings it about. -/
def execHostSnoop (pa : Nat) (inv : Bool) (s : State) : Host.Outcome State Fault Refusal := happens s (onHostSnoop pa inv s)

/-- The bytes of a host write. The poison indication marks each sector that the data covers (21 R430); it is no full-sector
store (21 R434). -/
def hostInc (o n v : Nat) (poison : Bool) : Line :=
  { incOf o n v 0#4 none with poison := if poison then sectorsOf (byteMask o n) else 0#4 }

/-- HOST_MEM_ACCESS: a host access through the CXL.mem window at the home of its frame's mapping, or at memory (R413; 18
R411). An access to a line that a commit has locked waits (13 R318), and so does a write to a sealed page, where no write is performed
(13 R308; log entry 27) or a page under move (18 R407). -/
def onHostMemAccess (off size : Nat) (write : Bool) (data : Nat) (poison : Bool) (s : State) : Option State :=
  let e : Instr := .hostMemAccess off size write data poison
  let pa := bitsOf s.adeol.hdm.toNat 30 22 * 2 ^ 30 + off
  let o := pa % 128
  let mask := byteMask o size
  if size = 0 || 128 < o + size || bitsOf s.adeol.hdm.toNat 0 16 * 2 ^ 30 < off + size || fencedHost s then none
  else
    let answer (s : State) (x : Line) : State := s.reply (.host pa (lineBytesGet x.data o size ||| boolNat (marksHit x mask != 0#4) <<< (8 * size)))
    match (if s.adeol.astbase.getLsbD 0 then lineOfPa s pa else none) with
    | none =>
      let marks := if fencedPa s (pa / Config.stackBytes / 2) pa then 0xF#4 else physMarks s.mem (pa / 128 * 128)
      let x : Line := { Line.empty with data := physLine s.mem (pa / 128 * 128), valid := BitVec.allOnes 128, poison := marks }
      if write then some (s.modMem (fun m => physStore m (pa / 128 * 128) ((hostInc o size data poison).merge x) mask))
      else some (answer s x)
    | some (ea, ln) =>
      let cls := match agentLeaf s ea ln with
        | (.leaf l _, _) => leafClass l
        | _ => 1
      if locked s ea ln || (write && (sealedPage s.mem ea (pageOfLn ln) || moving s ea (pageOfLn ln))) then some (requeue s e)
      else
      match (if write then homeFillW s ea ln 8 false else homeFill s ea ln 8) with
      | .ok s h0 =>
        let (s, h) := if cls = 0 then (s, h0) else recallLine s h0
        let s := homeTouch s h none
        if write then
          let s := homeMerge s h (hostInc o size data poison)
          some (if poison then errRecord s 1 9 (homeDie s ea ln <<< 8 ||| sliceOf ea ln) (sectorsOf mask).toNat (vaOfLn ln) 0 0 0 0 else s)
        else if mask &&& ~~~h.line.valid != 0#128 then some (requeue (postReq s ea (pageOfLn ln) 8) e)
        else
          let s := if cls = 2 && !sealedPage s.mem ea (pageOfLn ln) then s.modMem (fun m => { m with hostHeld := insertNat m.hostHeld (pa / 128) }) else s
          some (answer s h.line)
      | .bad s _ _ => some (if write then s else answer s { Line.empty with poison := 0xF#4 })
      | .absent s' _ _ => some (requeue (s.withReqs s'.mem.reqs) e)
      | .wait _ => some (requeue s e)

/-- `onHostMemAccess`, where the state brings it about. -/
def execHostMemAccess (off size : Nat) (write : Bool) (data : Nat) (poison : Bool) (s : State) : Host.Outcome State Fault Refusal := happens s (onHostMemAccess off size write data poison s)

/-- CXL_HOST_RESPONSE: the host gives back a line that it caches, with its dirty bytes, or answers with host-memory data; marks
come with it (R413; 21 R430). Where no home holds the line its next fill has at least this time (14 R327). -/
def onCxlHostResponse (pa : Nat) (dirty : Bool) (data : BitVec 1024) (poison : BitVec 4) (s : State) : Option State :=
  let pa := pa / 128 * 128
  let k := pa / 128
  let all := BitVec.allOnes 128
  let inc : Line := { data := data, valid := all, dirty := all, poison := poison, full := 0#4, tag := none, later := 0 }
  let raw : Line := { Line.empty with data := physLine s.mem pa, valid := all, poison := physMarks s.mem pa }
  let held := s.mem.hostHeld.contains k || s.mem.hostWait.any (fun x => x.1 == k)
  let s1 := s.modMem (fun m => { m with hostHeld := m.hostHeld.filter (· != k), hostWait := m.hostWait.filter (fun x => x.1 != k) })
  let marked (s : State) (unit : Nat) (va : DWord) : State := if poison == 0#4 then s else errRecord s 1 9 unit poison.toNat va 0 0 0 0
  let toMem (s : State) : State :=
    let s' := s.modMem (fun m => memStore m pa (inc.merge raw) all)
    match lineOfPa s pa with
    | some (ea, ln) => marked (floorNow s' ea ln) (homeDie s ea ln <<< 8 ||| sliceOf ea ln) (vaOfLn ln)
    | none => marked s' 0 (BitVec.ofNat 64 pa)
  if fencedHost s || Config.hostTop ≤ pa then none
  else if held then
    if !dirty then some s1
    else
      match lineOfPa s1 pa with
      | none => some (toMem s1)
      | some (ea, ln) =>
        match homeFind s1.mem ea ln with
        | none => some (toMem s1)
        | some h => some (marked (homeMerge s1 h inc) (homeDie s1 ea ln <<< 8 ||| sliceOf ea ln) (vaOfLn ln))
  else if pa < Config.hostBase || (lineOfPa s pa).any (fun x => (homeFind s.mem x.1 x.2).isSome) then none
  else some (toMem s)

/-- `onCxlHostResponse`, where the state brings it about. -/
def execCxlHostResponse (pa : Nat) (dirty : Bool) (data : BitVec 1024) (poison : BitVec 4) (s : State) : Host.Outcome State Fault Refusal := happens s (onCxlHostResponse pa dirty data poison s)

-- Links (R416, R417, R421)

/-- LPORT of a port that trains: UP, the far end's device number, and RETRAINS but for the first training since the bring-up (R421). -/
def lportTrained (s : State) (q : Nat) : DWord :=
  let n := bitsOf (cellGet s.adeol.lport q).toNat 0 16
  BitVec.ofNat 64 (2 ^ 63 ||| (Config.portPeer q).toNat <<< 32 ||| (if s.links.trained.contains q then min 0xFFFF (n + 1) else n))

/-- LINK_RETRAIN: the link trains, and where it had trained before, its counts rise (R416, R421; 22 R459). What waited for a die of a UCIe link goes on. -/
def onLinkRetrain (link : LinkId) (s : State) : Option State :=
  match link with
  | .ucie i =>
    if 6 ≤ i then none
    else
      some (lifeAdd ({ s with links := { s.links with down := s.links.down.filter (· != i) } }.modMem (fun m =>
        { m with hostWait := m.hostWait.filter (fun x => decide (x.1 < dieKey 0)) })) (0x10 + i) 1)
  | .lamvo q =>
    if 16 ≤ q then none
    else
      let t := { s with adeol := { s.adeol with lport := cellSet s.adeol.lport q (lportTrained s q) }, links := { s.links with trained := insertNat s.links.trained q } }
      some (if s.links.trained.contains q then lifeAdd t (0x20 + q) 1 else t)

/-- `onLinkRetrain`, where the state brings it about. -/
def execLinkRetrain (link : LinkId) (s : State) : Host.Outcome State Fault Refusal := happens s (onLinkRetrain link s)

/-- LINK_FAILURE: the UP bit of a Lamvo port falls, so that its destinations take other ports or are unreachable (R417, R421); what
crosses a failed UCIe link waits until the link trains again or the die behind it is fenced (R419). -/
def onLinkFailure (link : LinkId) (s : State) : Option State :=
  match link with
  | .ucie i => if 6 ≤ i then none else some { s with links := { s.links with down := insertNat s.links.down i } }
  | .lamvo q =>
    if 16 ≤ q then none
    else some { s with adeol := { s.adeol with lport := cellSet s.adeol.lport q (cellGet s.adeol.lport q &&& ~~~0x8000_0000_0000_0000#64) } }

/-- `onLinkFailure`, where the state brings it about. -/
def execLinkFailure (link : LinkId) (s : State) : Host.Outcome State Fault Refusal := happens s (onLinkFailure link s)

-- Fences (R419, R420)

/-- All four sectors of a home line are marked, for a lost owner (21 R430, R445). -/
def loseLine (s : State) (h : HomeLine) : State :=
  let s := s.modMem (fun m => homePut m { h with line := { h.line with poison := 0xF#4, full := 0#4 }, owner := none })
  errRecord s 1 8 (homeDie s h.ea h.ln <<< 8 ||| sliceOf h.ea h.ln) 0xF (vaOfLn h.ln) 0 0 0 0

/-- The lines that a fenced die's cores own: the dirty ones are lost, the others go back. -/
def loseOwned (s : State) (die : Nat) : State :=
  (s.mem.l1.filter (fun x => x.owned && dieOfCore x.core == die)).foldl (fun s x =>
    let s := s.modMem (fun m => l1Del m x.core x.ea x.ln)
    match homeFind s.mem x.ea x.ln with
    | none => s
    | some h => if x.line.dirty == 0#128 then s.modMem (fun m => homePut m { h with owner := none }) else loseLine s h) s

/-- Lines that stand at homes and that the fence puts out of reach read as poison. -/
def markBehind (s : State) (p : HomeLine → Bool) : State :=
  s.modMem (fun m => { m with home := m.home.map (fun h => if p h then { h with line := { h.line with poison := 0xF#4, full := 0#4 } } else h) })

/-- The physical address of a home line satisfies f. -/
def homeAt (s : State) (f : Nat → Bool) (h : HomeLine) : Bool := (linePa s h.ea h.ln).any f

/-- A die is fenced: the consequences of R419 and R440. The tokens that its threads hold are lost (14 R340). -/
def fenceDie (s : State) (d : Nat) : State :=
  let homed (h : HomeLine) : Bool := homeDie s h.ea h.ln == d
  let tagged := s.mem.home.flatMap (fun h => if homed h then h.undo.map (·.team) else [])
  let s := (List.range s.teams.length).foldl (fun s t =>
    let x := s.team t
    if x.rollb && (tagged.contains t || (x.st.holds && x.ranks.any (fun c => dieOfCore c == d))) then s.ineligible t else s) s
  let s := abandonMoves s (fun v => v.home == d || v.leaves.any (fun x => decide (x.frame < Config.hbmTop) && x.frame / Config.stackBytes / 2 == d))
  let s := loseOwned s d
  let s := s.modMem (fun m => { m with hostWait := m.hostWait.filter (fun x => x.1 != dieKey d) })
  let s := { s with adeol := { s.adeol with fenced := s.adeol.fenced ||| BitVec.ofNat 64 (2 ^ d) },
                    tokens := s.tokens.map (fun (k : TokenReq) => if dieOfCore (s.spindle k.sp).core == d then { k with granted := false } else k) }
  let s := markBehind s (fun h => homed h || homeAt s (fun pa => pa < Config.hbmTop && pa / Config.stackBytes / 2 == d) h)
  let s := lifeAdd s 5 1
  (List.range s.parts.length).foldl (fun s p => if (s.part p).pavs.any (fun v => dieOfPav v == d) then startHalt s p 2 d else s) s

/-- A line that the host holds is lost with it. -/
def loseHost (s : State) (k : Nat) : State :=
  match lineOfPa s (128 * k) with
  | none => s.modMem (fun m => (List.range 4).foldl (fun m i => m.setMark (4 * k + i) true) m)
  | some (ea, ln) =>
    match homeFill s ea ln 8 with
    | .ok s h => loseLine s h
    | _ => s

/-- The host is fenced: lines that it holds are lost, and host memory reads as poison. -/
def fenceHost (s : State) : State :=
  let s := abandonMoves s (fun v => v.leaves.any (fun x => decide (Config.hostBase ≤ x.frame) || decide (Config.hostBase ≤ baseOf x.leaf)))
  let s := s.mem.hostHeld.foldl loseHost s
  let s := s.modMem (fun m => { m with hostHeld := [], hostWait := m.hostWait.filter (fun x => decide (dieKey 0 ≤ x.1)) })
  let s := markBehind s (homeAt s (fun pa => Config.hostBase ≤ pa))
  lifeAdd { s with adeol := { s.adeol with fenced := s.adeol.fenced ||| 0x10#64 } } 5 1

/-- Another device is fenced: commands that it still owes an answer fault with ENGINE_FAULT; ADDR is the first such position and the report
lists all (R419; 08 R206). -/
def fenceDevice (s : State) (n : Nat) : State :=
  let s := lifeAdd { s with deadDevices := insertNat s.deadDevices n } 5 1
  (s.cmds.filter (fun c => c.remote.any (fun x => x.2 == n))).foldl (fun s c =>
    commandFault s c 0x0D#8 (((c.remote.filter (fun x => x.2 == n)).map (·.1)).foldl insertNat [] |>.headD 0)) s

/-- ISOLTO.TIMEOUT in ns; 0 acts as 1 µs (R421). -/
def isolationNs (s : State) : Nat := max 1 (bitsOf s.adeol.isolto.toNat 0 32) * 1000

/-- A party has let something wait for ISOLTO.TIMEOUT (R419, R420). -/
def overdue (s : State) : Party → Bool
  | .die d => decide (d < Config.dies) && !fencedDie s d && s.mem.hostWait.any (fun x => x.1 == dieKey d && decide (x.2 + isolationNs s ≤ s.clock.ns))
  | .host => !fencedHost s && s.mem.hostWait.any (fun x => decide (x.1 < dieKey 0) && decide (x.2 + isolationNs s ≤ s.clock.ns))
  | .device n => !s.deadDevices.contains n && s.cmds.any (fun c => c.remote.any (fun x => x.2 == n) && decide (c.asked + isolationNs s ≤ s.clock.ns))

/-- ISOLATION_TIMEOUT: a party that a fan-out or a command waits on has not answered in time and is fenced; what waited goes
on without it (R419). -/
def onIsolationTimeout (party : Party) (s : State) : Option State :=
  if !overdue s party then none
  else
    match party with
    | .die d => some (fenceDie s d)
    | .host => some (fenceHost s)
    | .device n => some (fenceDevice s n)

/-- `onIsolationTimeout`, where the state brings it about. -/
def execIsolationTimeout (party : Party) (s : State) : Host.Outcome State Fault Refusal := happens s (onIsolationTimeout party s)

/-- HOST_LINK_DOWN (R412): the host is fenced. -/
def onHostLinkDown (s : State) : Option State :=
  if fencedHost s then none else some (fenceHost s)

/-- `onHostLinkDown`, where the state brings it about. -/
def execHostLinkDown (s : State) : Host.Outcome State Fault Refusal := happens s (onHostLinkDown s)

end Sys2Proof.Machine
end

