-- ==== Sys2Proof/Machine/Float.lean ====
section
/-! DEFINITION. The floating-point, conversion, MX and division instructions (06 R127-R146). -/

namespace Sys2Proof.Machine

open Sys2Proof

/-- A floating-point operand (R127) with the input flush of R41. -/
def Spindle.getF (sp : Spindle) (f : Fmt) (r : Reg) (l : Nat) : Num :=
  f.read sp.ftz (if f.w = 64 then (sp.getD r.toNat l).toNat else (sp.getV r.toNat l).toNat % 2 ^ f.w)

/-- Writes a result in its format's register kind (R127). -/
def Spindle.setF (sp : Spindle) (f : Fmt) (r : Reg) (l : Nat) (x : Nat) : Spindle :=
  if f.w = 64 then sp.setD r.toNat l (BitVec.ofNat 64 x) else sp.setV r.toNat l (BitVec.ofNat 32 x)

/-- Lane l collects flags. -/
def Spindle.orFlags (sp : Spindle) (l : Nat) (f : BitVec 6) : Spindle := sp.modLane l (fun y => y.orFlags f)

/-- An F-pipe instruction with a result in format f per lane (R128). -/
def fpu (i : Instr) (p : Pfx) (n : Nat) (f : Fmt) (d : Reg) (s : State) (g : Spindle → Nat → FpAns) : Host.Outcome State Fault Refusal :=
  alu i p n s (fun old l sp => (sp.setF f d l (g old l).1).orFlags l (g old l).2)

/-- An S-pipe instruction with a result in format f per lane (R143). -/
def fpuA (i : Instr) (p : Pfx) (n : Nat) (f : Fmt) (d : Reg) (s : State) (g : Spindle → Nat → FpAns) : Host.Outcome State Fault Refusal :=
  aluA i p n s (fun sp l => (vWrites d.toNat l (if f.w = 64 then 2 else 1) (g sp l).1, fun y => y.orFlags (g sp l).2))

/-- The operation of `FOPX` (R134). -/
def fopxAns (opn : BitVec 3) (f : Fmt) (ftz : Bool) (mode : Mode) (a b c : Num) : FpAns :=
  match opn.toNat with
  | 0 => f.add ftz mode a b
  | 1 => f.add ftz mode a b.flip
  | 2 => f.mul ftz mode a b
  | 3 => f.fma ftz mode a b c
  | 4 => f.minmax false a b
  | _ => f.minmax true a b

/-- The two halves of `HFMA2` (R135). -/
def hfma2Ans (f : Fmt) (ftz : Bool) (mode : Mode) (a b c : Word) : Word × BitVec 6 :=
  let half (h : Nat) : FpAns :=
    f.fma ftz mode (f.read ftz (bitsOf a.toNat (16 * h) 16)) (f.read ftz (bitsOf b.toNat (16 * h) 16)) (f.read ftz (bitsOf c.toNat (16 * h) 16))
  (BitVec.ofNat 32 ((half 0).1 ||| (half 1).1 <<< 16), (half 0).2 ||| (half 1).2)

/-- The rounding mode of a conversion in a lane whose generator has stepped to g (R53). -/
def modeSr (rm : BitVec 3) (g : Word) : Mode := if rm == 4#3 then .sr g else modeOf rm

/-- The scale byte that `MXQ` chooses (R140). -/
def mxqScale (sel : Nat) (xs : List Num) : Nat :=
  if xs.any Num.isNan then 0xFF
  else
    let best : Option Int := xs.foldl (fun acc x =>
      match x with
      | .fin _ m e =>
        if m = 0 then acc
        else
          let k := e + (Nat.log2 m : Int)
          match acc with
          | none => some k
          | some j => some (max j k)
      | _ => acc) none
    match best with
    | none => 0
    | some k => (saturate (k - elemEmax sel + 127) 0 254).toNat

/-- The code and flags of one element of `MXQ` under scale sc (R140). -/
def mxqElem (sel sc : Nat) (mode : Mode) (x : Num) : FpAns :=
  if sc = 0xFF then (0, match x with
    | .nan sig => elemNanFlags sel sig
    | _ => 0#6)
  else toElement sel mode (x.shift (127 - (sc : Int)))

/-- `MXQ` on a spindle (R140, R141). -/
def mxqSpindle (x : LaneMask) (d a b : Reg) (sel : Nat) (rm : BitVec 3) (old : Spindle) : Spindle :=
  let sc := mxqScale sel ((lanesOf x).map (fun l => old.getF fmt32 a l))
  let sp := old.setS b.toNat (BitVec.ofNat 32 (sel * 256 + sc))
  (lanesOf x).foldl (fun sp l =>
    let g := srStep (old.lane l).rng
    let r := mxqElem sel sc (modeSr rm g) (old.getF fmt32 a l)
    let sp := (sp.setV d.toNat l (BitVec.ofNat 32 r.1)).orFlags l r.2
    if rm == 4#3 then sp.modLane l (fun y => { y with rng := g }) else sp) sp

/-- The storage class of a format code 8, 9 or 10. -/
def mxClass (fmtc : BitVec 4) : Nat := fmtc.toNat - 8

/-- `FADD` (R131): a + b in FP32 under RNE. -/
def execFadd (p : Pfx) (d a b : Reg) (s : State) : Host.Outcome State Fault Refusal :=
  fpu (.fadd p d a b) p 1 fmt32 d s (fun sp l => fmt32.add sp.ftz .rne (sp.getF fmt32 a l) (sp.getF fmt32 b l))

/-- `FSUB` (R131): a − b in FP32 under RNE. -/
def execFsub (p : Pfx) (d a b : Reg) (s : State) : Host.Outcome State Fault Refusal :=
  fpu (.fsub p d a b) p 1 fmt32 d s (fun sp l => fmt32.add sp.ftz .rne (sp.getF fmt32 a l) (sp.getF fmt32 b l).flip)

/-- `FMUL` (R131): a × b in FP32 under RNE. -/
def execFmul (p : Pfx) (d a b : Reg) (s : State) : Host.Outcome State Fault Refusal :=
  fpu (.fmul p d a b) p 1 fmt32 d s (fun sp l => fmt32.mul sp.ftz .rne (sp.getF fmt32 a l) (sp.getF fmt32 b l))

/-- `FFMA` (R133): a × b + c in FP32, one rounding. -/
def execFfma (p : Pfx) (d a b cr : Reg) (rm : BitVec 3) (s : State) : Host.Outcome State Fault Refusal :=
  fpu (.ffma p d a b cr rm) p 2 fmt32 d s (fun sp l => fmt32.fma sp.ftz (modeOf rm) (sp.getF fmt32 a l) (sp.getF fmt32 b l) (sp.getF fmt32 cr l))

/-- `FMIN` (R132): the lesser, with −0 below +0. -/
def execFmin (p : Pfx) (d a b : Reg) (s : State) : Host.Outcome State Fault Refusal :=
  fpu (.fmin p d a b) p 1 fmt32 d s (fun sp l => fmt32.minmax false (sp.getF fmt32 a l) (sp.getF fmt32 b l))

/-- `FMAX` (R132): the greater. -/
def execFmax (p : Pfx) (d a b : Reg) (s : State) : Host.Outcome State Fault Refusal :=
  fpu (.fmax p d a b) p 1 fmt32 d s (fun sp l => fmt32.minmax true (sp.getF fmt32 a l) (sp.getF fmt32 b l))

/-- `FCMP` (R136): a comparison combined with a predicate, and its complement. -/
def execFcmp (p : Pfx) (d a b : Reg) (cmp : BitVec 4) (fmt : BitVec 2) (q : BitVec 3) (bop : BitVec 2) (e : BitVec 3) (s : State) : Host.Outcome State Fault Refusal :=
  uniform (.fcmp p d a b cmp fmt q bop e) p 2 s (fun x old =>
    let f := fmtOf fmt
    let ans (l : Nat) : Bool × Bool := fcmpHolds cmp (old.getF f a l) (old.getF f b l)
    let sp := old.setPair d.toNat e.toNat x (maskBy (fun l => combine bop (ans l).1 ((old.pred q.toNat).getLsbD l)))
    (lanesOf x).foldl (fun sp l => sp.orFlags l (flagIf (ans l).2 fNv)) sp)

/-- `FOPX` (R134): one operation in any wide format under any directed mode. -/
def execFopx (p : Pfx) (d a b cr : Reg) (opn : BitVec 3) (fmt : BitVec 2) (rm : BitVec 3) (s : State) : Host.Outcome State Fault Refusal :=
  fpu (.fopx p d a b cr opn fmt rm) p 2 (fmtOf fmt) d s (fun sp l =>
    let f := fmtOf fmt
    fopxAns opn f sp.ftz (modeOf rm) (sp.getF f a l) (sp.getF f b l) (sp.getF f cr l))

/-- `FCVT` (R137): a conversion between wide formats; under SR the generator steps once per lane. -/
def execFcvt (p : Pfx) (d a : Reg) (sfmt dfmt : BitVec 4) (rm : BitVec 3) (s : State) : Host.Outcome State Fault Refusal :=
  alu (.fcvt p d a sfmt dfmt rm) p 2 s (fun old l sp =>
    let f := fmtOf (lo2 dfmt)
    let g := srStep (old.lane l).rng
    let r := f.conv old.ftz (modeSr rm g) (old.getF (fmtOf (lo2 sfmt)) a l)
    let sp := (sp.setF f d l r.1).orFlags l r.2
    if rm == 4#3 then sp.modLane l (fun y => { y with rng := g }) else sp)

/-- `I2F` (R138): an integer rounded into a format. -/
def execI2f (p : Pfx) (d a : Reg) (fmt : BitVec 4) (u w64 : Bool) (rm : BitVec 3) (s : State) : Host.Outcome State Fault Refusal :=
  fpu (.i2f p d a fmt u w64 rm) p 2 (fmtOf (lo2 fmt)) d s (fun sp l =>
    (fmtOf (lo2 fmt)).ofInt sp.ftz (modeOf rm) (if w64 then readInt u (sp.getD a.toNat l) else readInt u (sp.getV a.toNat l)))

/-- `F2I` (R138): a value rounded to an integer. -/
def execF2i (p : Pfx) (d a : Reg) (fmt : BitVec 4) (u w64 : Bool) (rm : BitVec 3) (s : State) : Host.Outcome State Fault Refusal :=
  alu (.f2i p d a fmt u w64 rm) p 2 s (fun old l sp =>
    let r := toInteger (if w64 then 64 else 32) u (modeOf rm) (old.getF (fmtOf (lo2 fmt)) a l)
    (sp.setVD w64 d.toNat l (wrapTo 64 r.1)).orFlags l r.2)

/-- `ABS` (R139): the sign cleared. -/
def execFabs (p : Pfx) (d a : Reg) (fmt : BitVec 2) (s : State) : Host.Outcome State Fault Refusal :=
  fpu (.fabs p d a fmt) p 1 (fmtOf fmt) d s (fun sp l =>
    let x := sp.getF (fmtOf fmt) a l
    ((fmtOf fmt).write (if x.neg then x.flip else x), flagIf x.sig fNv))

/-- `NEG` (R139): the sign inverted. -/
def execFneg (p : Pfx) (d a : Reg) (fmt : BitVec 2) (s : State) : Host.Outcome State Fault Refusal :=
  fpu (.fneg p d a fmt) p 1 (fmtOf fmt) d s (fun sp l =>
    let x := sp.getF (fmtOf fmt) a l
    ((fmtOf fmt).write x.flip, flagIf x.sig fNv))

/-- `CLASS` (R139): the class of a value as a one-hot mask in a v register. -/
def execFclass (p : Pfx) (d a : Reg) (fmt : BitVec 2) (s : State) : Host.Outcome State Fault Refusal :=
  fpu (.fclass p d a fmt) p 1 fmt32 d s (fun sp l => (fmtOf fmt).classOf (sp.getF (fmtOf fmt) a l))

/-- `RINT` (R139): rounds to an integral value. -/
def execRint (p : Pfx) (d a : Reg) (rm : BitVec 3) (fmt : BitVec 2) (s : State) : Host.Outcome State Fault Refusal :=
  fpu (.rint p d a rm fmt) p 1 (fmtOf fmt) d s (fun sp l => (fmtOf fmt).rint (modeOf rm) (sp.getF (fmtOf fmt) a l))

/-- `HFMA2` (R135): two fused multiply-adds on packed halves. -/
def execHfma2 (p : Pfx) (d a b cr : Reg) (rm : BitVec 3) (bf : Bool) (s : State) : Host.Outcome State Fault Refusal :=
  alu (.hfma2 p d a b cr rm bf) p 2 s (fun old l sp =>
    let r := hfma2Ans (if bf then fmtB16 else fmt16) old.ftz (modeOf rm) (old.getV a.toNat l) (old.getV b.toNat l) (old.getV cr.toNat l)
    (sp.setV d.toNat l r.1).orFlags l r.2)

/-- `MXQ` (R140, R141): element codes into vD, selector and scale into sE. -/
def execMxq (p : Pfx) (d a b : Reg) (sel : BitVec 8) (rm : BitVec 3) (s : State) : Host.Outcome State Fault Refusal :=
  uniform (.mxq p d a b sel rm) p 2 s (fun x sp => mxqSpindle x d a b sel.toNat rm sp)

/-- `MXDQ` (R142): element codes back into wide values; BLOCK_FORMAT when sE names no selector of the class. -/
def execMxdq (p : Pfx) (d a b : Reg) (fmtc : BitVec 4) (dfmt : BitVec 2) (rm : BitVec 3) (s : State) : Host.Outcome State Fault Refusal :=
  issue (.mxdq p d a b fmtc dfmt rm) p 2 s (fun x s =>
    let e := (s.spindle s.cur.sp).getS b.toNat
    let sel := bitsOf e.toNat 8 8
    let f := fmtOf dfmt
    if !selAssigned sel || sel / 16 != mxClass fmtc then .bad 0x11#8 0#64
    else .done (overLanes x (fun old l sp =>
      let r := f.conv old.ftz (modeOf rm) (mxValue (bitsOf e.toNat 0 8) sel (old.getV a.toNat l).toNat)
      (sp.setF f d l r.1).orFlags l r.2) s))

/-- `FDIV` (R144): a / b. -/
def execFdiv (p : Pfx) (d a b : Reg) (fmt : BitVec 2) (rm : BitVec 3) (s : State) : Host.Outcome State Fault Refusal :=
  fpuA (.fdiv p d a b fmt rm) p 2 (fmtOf fmt) d s (fun sp l =>
    (fmtOf fmt).div sp.ftz (modeOf rm) (sp.getF (fmtOf fmt) a l) (sp.getF (fmtOf fmt) b l))

/-- `FSQRT` (R144): √a. -/
def execFsqrt (p : Pfx) (d a : Reg) (fmt : BitVec 2) (rm : BitVec 3) (s : State) : Host.Outcome State Fault Refusal :=
  fpuA (.fsqrt p d a fmt rm) p 2 (fmtOf fmt) d s (fun sp l => (fmtOf fmt).sqrt sp.ftz (modeOf rm) (sp.getF (fmtOf fmt) a l))

/-- `FRSQ` (R144): 1 / √a. -/
def execFrsq (p : Pfx) (d a : Reg) (fmt : BitVec 2) (rm : BitVec 3) (s : State) : Host.Outcome State Fault Refusal :=
  fpuA (.frsq p d a fmt rm) p 2 (fmtOf fmt) d s (fun sp l => (fmtOf fmt).rsq sp.ftz (modeOf rm) (sp.getF (fmtOf fmt) a l))

/-- `FEX2` (R145): 2^x in FP32. -/
def execFex2 (p : Pfx) (d a : Reg) (s : State) : Host.Outcome State Fault Refusal :=
  fpuA (.fex2 p d a) p 1 fmt32 d s (fun sp l => fexp2 sp.ftz (sp.getF fmt32 a l))

/-- `FLG2` (R145): log2 x in FP32. -/
def execFlg2 (p : Pfx) (d a : Reg) (s : State) : Host.Outcome State Fault Refusal :=
  fpuA (.flg2 p d a) p 1 fmt32 d s (fun sp l => flog2 sp.ftz (sp.getF fmt32 a l))

/-- `IDIV` (R146): quotient into D and, with HASE, remainder into E. -/
def execIdiv (p : Pfx) (d a b e : Reg) (hase u w64 : Bool) (s : State) : Host.Outcome State Fault Refusal :=
  aluA (.idiv p d a b e hase u w64) p 2 s (fun sp l =>
    let k := if w64 then 2 else 1
    let r := idivAns (32 * k) u (sp.getVD w64 a.toNat l).toNat (sp.getVD w64 b.toNat l).toNat
    (vWrites d.toNat l k r.1 ++ (if hase then vWrites e.toNat l k r.2 else []), id))

end Sys2Proof.Machine
end

