-- ==== Sys2Proof/Machine/Service.lean ====
section
/-! DEFINITION. The registers of the Adeol module controller, energy and clock, lifetime records, attestation, firmware and
the resets (18 R404, R409-R411; 19 R421; 21 R444; 22 R454-R462). -/

namespace Sys2Proof.Machine

open Sys2Proof

/-- The host's requests are served: not once the host is fenced (19 R419), nor in recovery, where only a new image is accepted (R460). -/
def hostWorks (s : State) : Bool := !fencedHost s && !s.nvm.recovery

/-- What a request of the host does. -/
def atHost (s : State) (t : State) : Host.Outcome State Fault Refusal := .next (if hostWorks s then t else s)

/-- ASTBASE_WRITE (18 R411). -/
def execAstbaseWrite (v : BitVec 64) (s : State) : Host.Outcome State Fault Refusal :=
  atHost s (stageWrite s 0x000 v)

/-- HDM after a write (19 R421). -/
def hdmAfter (s : State) (v : DWord) : DWord :=
  let base := bitsOf v.toNat 30 22 * 2 ^ 30
  let size := bitsOf v.toNat 0 16
  if v &&& ~~~(0x000F_FFFF_C000_FFFF#64) != 0#64 || Config.hbmTop ≤ base || 384 < size || Config.hbmTop < base + size * 2 ^ 30 then s.adeol.hdm else v

/-- HDM_WRITE (19 R421). -/
def execHdmWrite (v : BitVec 64) (s : State) : Host.Outcome State Fault Refusal :=
  atHost s { s with adeol := { s.adeol with hdm := hdmAfter s v } }

/-- The sum of the refill rates. -/
def erateSum (a : Adeol) : Nat := (a.erate.map (·.2.toNat)).sum

/-- POWERCAP after a write (R458). -/
def powercapAfter (s : State) (v : DWord) : DWord :=
  if v &&& ~~~0xFFFF#64 != 0#64 || 3200 < v.toNat || v.toNat < erateSum s.adeol then s.adeol.powercap else v

/-- POWERCAP_WRITE (R458). -/
def execPowercapWrite (v : BitVec 64) (s : State) : Host.Outcome State Fault Refusal :=
  atHost s { s with adeol := { s.adeol with powercap := powercapAfter s v } }

/-- ERATE of a partition after a write (R458). -/
def erateAfter (s : State) (p : Nat) (v : DWord) : Cells 64 :=
  let l := cellSet s.adeol.erate p v
  if v &&& ~~~0xFFFF#64 != 0#64 || s.adeol.powercap.toNat < (l.map (·.2.toNat)).sum then s.adeol.erate else l

/-- ERATE_WRITE (R458). -/
def onErateWrite (part : Nat) (v : BitVec 64) (s : State) : Option State :=
  if Config.pavCount ≤ part || !hostWorks s then none
  else some { s with adeol := { s.adeol with erate := erateAfter s part v } }

/-- `onErateWrite`, where the state brings it about. -/
def execErateWrite (part : Nat) (v : BitVec 64) (s : State) : Host.Outcome State Fault Refusal := happens s (onErateWrite part v s)

/-- DUMPBASE after a write (R458). -/
def dumpbaseAfter (s : State) (v : DWord) : DWord :=
  if v &&& ~~~(0x000F_FFFF_FFFF_0001#64) != 0#64 || Config.hbmTop ≤ v.toNat / 65536 * 65536 then s.adeol.dumpbase else v

/-- DUMPBASE_WRITE (R458). -/
def execDumpbaseWrite (v : BitVec 64) (s : State) : Host.Outcome State Fault Refusal :=
  atHost s { s with adeol := { s.adeol with dumpbase := dumpbaseAfter s v } }

/-- HALTSTAT after a write of ones (R458). -/
def haltstatAfter (s : State) (v : DWord) : DWord := if v &&& ~~~0xFF_FFFF#64 != 0#64 then s.adeol.haltstat else s.adeol.haltstat &&& ~~~v

/-- HALTSTAT_CLEAR (R458). -/
def execHaltstatClear (v : BitVec 64) (s : State) : Host.Outcome State Fault Refusal :=
  atHost s { s with adeol := { s.adeol with haltstat := haltstatAfter s v } }

-- Resets (R461, R462)

/-- The lifetime counts go to non-volatile memory (R459). -/
def commitLife (n : Nvm) : Nvm := { n with life := n.pend.foldl (fun l c => cellSet l c.1 (cellGet l c.1 + c.2)) n.life, pend := [] }

/-- The Lamvo ports that train at a bring-up, and their LPORT registers (R461 phase 3; 19 R421). -/
def bringUpPorts : List Nat := (List.range 16).filter Config.portTrains
def bringUpLports : Cells 64 := cellSets [] (bringUpPorts.map (fun q => (q, BitVec.ofNat 64 (2 ^ 63 ||| (Config.portPeer q).toNat <<< 32))))

/-- The module comes up empty: memory `mem`, and what outlives the reset (R461 phases 3 to 6). -/
def bringUp (s : State) (mem : MemSys) (adeol : Adeol) (nvm : Nvm) (ms : Nat) : State :=
  { State.reset with
    mem := mem, adeol := { adeol with bootstat := BitVec.ofNat 64 (ms <<< 32 ||| 6), lport := bringUpLports }, nvm := nvm, devnum := s.devnum, free := s.free,
    links := { trained := bringUpPorts, down := [] }, nextId := s.nextId, agenda := s.agenda, hostReplies := s.hostReplies }

/-- Host memory and its marks, which no reset of the module touches.  DESIGN CHOICE (log 78): the
poison marks of HBM do not outlive a cold reset or a power loss: they go with the contents that
22 R461 leaves undefined, although R2 lists poison under the life of the part. -/
def hostMemory (m : MemSys) : MemSys :=
  { MemSys.reset with phys := m.phys.filter (fun c => decide (Config.hostBase ≤ c.1)), marks := m.marks.filter (fun k => decide (Config.hostBase ≤ 32 * k)) }

/-- A bring-up that fails leaves the module in recovery, with its RESULT and last phase (R458, R460): 1 signature and 2 version in phase 2, before the
links train; 3 memory in phase 4 (DESIGN CHOICE, log entry 126: recovery there too). -/
def recovery (s : State) (result phase ms : Nat) : State :=
  let x := bringUp s (hostMemory s.mem) Adeol.reset { s.nvm with recovery := true } ms
  { x with adeol := { x.adeol with bootstat := BitVec.ofNat 64 (ms <<< 32 ||| result <<< 8 ||| phase), lport := if phase = 2 then [] else x.adeol.lport },
           links := if phase = 2 then { trained := [], down := [] } else x.links }

/-- The boot ROM's checks of an image (R460): none when it is accepted, else RESULT. -/
def imageCheck (n : Nvm) (i : FirmwareImage) : Option Nat :=
  if Config.shake256 i.key != Config.fusedKeyHash || !Config.xmssVerify i.key (measureImage i) i.signature then some 1
  else if i.version < n.fwmin then some 2
  else none

/-- An accepted image runs: it is measured, and FWMIN rises to its MINVER (R460). -/
def acceptImage (n : Nvm) (i : FirmwareImage) : Nvm :=
  { n with image := i, measurement := measureImage i, fwmin := max n.fwmin i.minver, recovery := false }

/-- The phases of a cold reset with an image (R461): it is checked, and HBM comes up with nothing in it. -/
def coldBoot (s : State) (image : FirmwareImage) (ms : Nat) : State :=
  match imageCheck s.nvm image with
  | some r => recovery s r 2 ms
  | none =>
    if Config.memoryTrains s.free then bringUp { s with free := s.free + 1 } (hostMemory s.mem) Adeol.reset (acceptImage s.nvm image) ms
    else recovery { s with free := s.free + 1 } 3 4 ms

/-- Every partition that runs halts with reason 4 (R452). -/
def haltAll (s : State) : State := (List.range s.parts.length).foldl (fun s p => startHalt s p 4 0xFF) s

/-- COLD_RESET (R461): the partitions halt (R452), counts are committed (R459), and the stored image is checked. -/
def onColdReset (ms : Nat) (s : State) : Option State :=
  if 5000 < ms then none
  else
    let s := lifeAdd (haltAll s) 1 1
    some (coldBoot { s with nvm := commitLife s.nvm } s.nvm.image ms)

/-- `onColdReset`, where the state brings it about. -/
def execColdReset (ms : Nat) (s : State) : Host.Outcome State Fault Refusal := happens s (onColdReset ms s)

/-- FIRMWARE_IMAGE: in recovery a new image is checked and, when it is accepted, the module comes up (R460). -/
def onFirmwareImage (image : FirmwareImage) (s : State) : Option State :=
  if !s.nvm.recovery || 5000 < image.ms then none
  else some (coldBoot s image image.ms)

/-- `onFirmwareImage`, where the state brings it about. -/
def execFirmwareImage (image : FirmwareImage) (s : State) : Host.Outcome State Fault Refusal := happens s (onFirmwareImage image s)

/-- POWER_LOSS: what was not committed is lost with all else but non-volatile and host memory; a cold reset follows, and counts (R459,
R461). -/
def execPowerLoss (s : State) : Host.Outcome State Fault Refusal :=
  let s := lifeAdd { s with nvm := { s.nvm with pend := [] } } 1 1
  .next (coldBoot { s with free := s.free + 1 } s.nvm.image (Config.bringUpMs s.free).val)

/-- An entry of the deferred store dump (R462). -/
def dumpStore (b : BufEntry) : Nat :=
  let t := b.line.tag
  let f (g : Tag → Nat) : Nat := match t with
    | some t => g t
    | none => 0
  b.ea ||| atByte 8 (vaOfLn b.ln).toNat ||| atByte 16 b.line.dirty.toNat ||| atByte 32 (f (·.team)) ||| atByte 36 (f (·.idx)) ||| atByte 38 (f (·.lane)) |||
    atByte 39 b.line.poison.toNat ||| atByte 40 (f (·.pc.toNat)) ||| atByte 44 b.line.later ||| atByte 48 (f (·.time)) ||| atByte 64 b.line.data.toNat

/-- Deferred bytes that a full buffer leaves at their homes (18 R394): they are dumped behind its entries. -/
def homeLeft (s : State) : List BufEntry :=
  (s.mem.home.filter (fun h => h.line.dirty != 0#128)).map (fun h => { agent := agentOf (homeDie s h.ea h.ln) h.ea h.ln, ea := h.ea, ln := h.ln, line := h.line })

/-- The deferred store buffers go to the dump area, in order of agent and then of entry, and are empty (R462). -/
def dumpBuffers (s : State) : State :=
  let base := bitsOf s.adeol.dumpbase.toNat 16 36 * 65536
  let l := sortBy (·.agent) (s.mem.buf ++ homeLeft s)
  let s := if !s.adeol.dumpbase.getLsbD 0 then s
    else
      let s := (enumFrom 0 l).foldl (fun s (x : Nat × BufEntry) => paWrites s (base + 0x1000 + 256 * x.1) 256 (dumpStore x.2)) s
      paWrite (paWrite s (base + 8) 8 s.clock.ns) (base + 16) 4 l.length
  s.modMem (fun m => { m with buf := [] })

/-- Phase 1 of a warm re-entry, after the halts: dirty lines of the L1s and the homes go to memory (R461). -/
def quiesce (s : State) : State :=
  let s := (s.mem.l1).foldl (fun s x => l1End s x.core x.ea x.ln) s
  let s := s.mem.home.foldl homeEvict s
  dumpBuffers s

/-- The registers that a warm re-entry keeps. -/
def keptRegs (a : Adeol) : Adeol :=
  { Adeol.reset with astbase := a.astbase, rmapbase := a.rmapbase, fpool0 := a.fpool0, fpool1 := a.fpool1, fpool2 := a.fpool2, fpool3 := a.fpool3,
                     powercap := a.powercap, erate := a.erate, emax := a.emax }

/-- Every partition that was started has come to the end of its halt. -/
def allHalted (s : State) : Bool := s.parts.all (fun p => !p.started || p.halted)

/-- The phases of a warm re-entry after the halts. -/
def reenter (s : State) (ms : Nat) : State :=
  let s := quiesce s
  let s := lifeAdd s 2 1
  let nvm := commitLife s.nvm
  if measureImage nvm.image != nvm.measurement then recovery { s with nvm := nvm } 1 2 ms
  else if !Config.memoryTrains s.free then recovery { s with nvm := nvm, free := s.free + 1 } 3 4 ms
  else
    let x := bringUp { s with free := s.free + 1 } { MemSys.reset with phys := s.mem.phys, marks := s.mem.marks } (keptRegs s.adeol) nvm ms
    let ns := s.clock.ns + ms * 1_000_000
    { x with
      parts := s.parts, distNext := ns, meter := { x.meter with since := s.clock.cycle }, scan := { x.scan with began := ns, held := ns },
      due := { place := ns + 1_000_000, energy := ns + 1000, minute := s.due.minute, commit := ns + 600_000_000_000 },
      clock := { s.clock with ns := ns, mhz := Config.nominalMhz,
                              coreBase := cellSets [] ((List.range Config.coreCount).map (fun c => (c, BitVec.ofNat 64 s.clock.cycle))) } }

/-- WARM_REENTRY (R461): every partition halts with reason 4, and when all have halted the module re-enters with its memory. -/
def onWarmReentry (ms : Nat) (s : State) : Option State :=
  if 5000 < ms || s.nvm.recovery then none
  else
    let s := haltAll (abandonMoves (takeWrites s) (fun _ => true))
    if allHalted s then some (reenter s ms) else some { s with reentry := some ms }

/-- `onWarmReentry`, where the state brings it about. -/
def execWarmReentry (ms : Nat) (s : State) : Host.Outcome State Fault Refusal := happens s (onWarmReentry ms s)

/-- A plain register of a block but translation, whose writes stand by, takes a written value. -/
def plainWrite (s : State) (block : AdeolBlock) (off : Nat) (v : DWord) : Adeol :=
  let a := s.adeol
  match block with
  | .translation => a
  | .fabric =>
    match off with
    | 0x100 => { a with isolto := regWrite 0xFFFF_FFFF#64 a.isolto v }
    | 0x118 => { a with lroute := regWrite baseMask a.lroute v }
    | _ => a
  | .error =>
    match off with
    | 0x000 => { a with rollctl := regWrite 0xFFFF_FFFF#64 a.rollctl v }
    | 0x010 => { a with errring := regWrite ringMask a.errring v }
    | 0x020 => { a with scanctl := regWrite 0x8000_FFFF_FFFF_FFFF#64 a.scanctl v }
    | 0x028 => { a with scanrec := regWrite baseMask a.scanrec v }
    | _ => a
  | .service =>
    if off = 0x018 then { a with lifesel := regWrite 0xFFFF#64 a.lifesel v }
    else if 0x100 ≤ off && off < 0x100 + 8 * Config.pavCount && off % 8 == 0 then { a with emax := cellSet a.emax ((off - 0x100) / 8) v }
    else a

/-- ADEOL_REGISTER_WRITE (18 R410): the registers with rules of their own are written by them; a read-only register and an
offset without one take nothing. -/
def execAdeolRegisterWrite (block : AdeolBlock) (off : Nat) (v : BitVec 64) (s : State) : Host.Outcome State Fault Refusal :=
  if !hostWorks s then .next s
  else
  match block, off with
  | .translation, off => .next (stageWrite s off v)
  | .fabric, 0x110 => execHdmWrite v s
  | .service, 0x000 => execPowercapWrite v s
  | .service, 0x008 => execDumpbaseWrite v s
  | .service, 0x010 => execHaltstatClear v s
  | .service, 0x028 =>
    if v == 1#64 then execWarmReentry (Config.bringUpMs s.free).val { s with free := s.free + 1 }
    else if v == 2#64 then execColdReset (Config.bringUpMs s.free).val { s with free := s.free + 1 }
    else .next s
  | .service, off =>
    if 0x040 ≤ off && off < 0x040 + 8 * Config.pavCount && off % 8 == 0 then execErateWrite ((off - 0x040) / 8) v s
    else .next { s with adeol := plainWrite s .service off v }
  | block, off => .next { s with adeol := plainWrite s block off v }

/-- An assigned lifetime ID (R459). -/
def lifeAssigned (id : Nat) : Bool :=
  id ≤ 5 || (0x10 ≤ id && id ≤ 0x15) || (0x20 ≤ id && id ≤ 0x2F) || (0x1000 ≤ id && id < 0x1000 + 64 * 8) || (0x2000 ≤ id && id < 0x2000 + 2 * Config.coreCount) ||
    (0x2200 ≤ id && id < 0x2200 + 2 * Config.coreCount) || (0x3000 ≤ id && id < 0x3040) || (0x3100 ≤ id && id < 0x3140)

/-- LIFEDATA (R458): the selected count, all ones for an unassigned ID. -/
def lifeData (s : State) : DWord :=
  let id := s.adeol.lifesel.toNat
  if lifeAssigned id then cellGet s.nvm.life id + cellGet s.nvm.pend id else BitVec.allOnes 64

/-- What the host reads of an Adeol register: a register holds a value written to it although the value takes effect at the next command. -/
def adeolRead (s : State) (block : AdeolBlock) (off : Nat) : DWord :=
  let a := effectiveRegs s
  match block with
  | .translation =>
    match off with
    | 0x000 => a.astbase
    | 0x008 => a.rmapbase
    | 0x010 => a.hostframes
    | 0x018 => a.tcq
    | 0x020 => a.prq
    | 0x040 => a.fpool0
    | 0x048 => a.fpool1
    | 0x050 => a.fpool2
    | 0x058 => a.fpool3
    | 0x060 => a.fret
    | 0x068 => a.place
    | 0x070 => a.placestat
    | _ => 0#64
  | .fabric =>
    match off with
    | 0x100 => a.isolto
    | 0x108 => a.fenced
    | 0x110 => a.hdm
    | 0x118 => a.lroute
    | _ => if 0x120 ≤ off && off < 0x120 + 8 * 16 && off % 8 == 0 then cellGet a.lport ((off - 0x120) / 8) else 0#64
  | .error =>
    match off with
    | 0x000 => a.rollctl
    | 0x008 => a.rollstat
    | 0x010 => a.errring
    | 0x018 => a.errstat
    | 0x020 => a.scanctl
    | 0x028 => a.scanrec
    | 0x030 => a.scanstat
    | 0x040 => a.cfence0
    | 0x048 => a.cfence1
    | 0x050 => a.cfence2
    | _ => 0#64
  | .service =>
    match off with
    | 0x000 => a.powercap
    | 0x008 => a.dumpbase
    | 0x010 => a.haltstat
    | 0x018 => a.lifesel
    | 0x020 => lifeData s
    | 0x030 => a.bootstat
    | 0x038 => BitVec.ofNat 64 s.nvm.attidx
    | _ =>
      if 0x040 ≤ off && off < 0x100 && off % 8 == 0 then cellGet a.erate ((off - 0x040) / 8)
      else if 0x100 ≤ off && off < 0x100 + 8 * Config.pavCount && off % 8 == 0 then cellGet a.emax ((off - 0x100) / 8)
      else 0#64

-- Energy and clock (R454-R457)

/-- The entry of an index in a list of charges. -/
def chargeOf (l : List (Nat × Int)) (k : Nat) : Int := ((l.filter (fun x => x.1 == k)).map (·.2)).sum

/-- Issue and engine cycles of a team on a core in the tick that ends, and of all its teams. -/
def coreCycles (s : State) (core : Nat) (team : Option Nat) : Nat :=
  ((s.meter.cycles.filter (fun x => x.1.1 == core && (match team with
    | some t => x.1.2 == t
    | none => true))).map (·.2)).sum

/-- A team's part of a core's energy, in proportion to its issue and engine cycles in the tick; what idle cycles leave is no team's (R455). DESIGN CHOICE
(log entry 125): parts are rounded down to µJ. -/
def corePart (s : State) (core team : Nat) (e : Int) : Int :=
  e * coreCycles s core (some team) / max 1 (max (s.clock.cycle - s.meter.since) (coreCycles s core none))

/-- The charge of a team's context: its parts of the cores' energy, and of memory, L2 and link energy by the requests served for it (R455). -/
def teamCharge (s : State) (cores : List (Nat × Int)) (memory : Int) (t : Nat) : Int :=
  (cores.map (fun c => corePart s c.1 t c.2)).sum + memory * (cellGet s.mem.served t).toNat / max 1 (s.mem.served.map (·.2.toNat)).sum

/-- What the teams leave of the energy of a partition's cores (R455). -/
def idleEnergy (s : State) (cores : List (Nat × Int)) (x : Partition) : Int :=
  ((cores.filter (fun c => x.pavs.contains (c.1 / Config.coresPerPav))).map (fun c => c.2 - ((List.range s.teams.length).map (fun t => corePart s c.1 t c.2)).sum)).sum

/-- A partition's share of static energy, by pavilion counts (R455). -/
def staticPart (s : State) (static : Int) (x : Partition) : Int := static * x.pavs.length / max 1 (s.parts.map (·.pavs.length)).sum

/-- The reserve of partition p after a tick (R454); a halted partition's stands. -/
def reserveAfter (s : State) (cores rest : List (Nat × Int)) (p : Nat) (x : Partition) : Int :=
  let k := lowPav x
  let mine := (List.range s.teams.length).filter (fun t => (s.team t).part == p)
  min (x.energyres + (cellGet s.adeol.erate k).toNat) (cellGet s.adeol.emax k).toNat -
    ((mine.map (teamCharge s cores (chargeOf rest 1))).sum + idleEnergy s cores x + staticPart s (chargeOf rest 0) x)

/-- ENERGY_TICK: every µs the reserves are refilled and charged, and the teams' ENERGYUSED grows. `cores` gives the metered energy of each core, `rest`
that of the remainder of the module: 0 static, 1 memory, L2 and links (R454, R455). -/
def onEnergyTick (cores rest : List (Nat × Int)) (s : State) : Option State :=
  if s.clock.ns < s.due.energy || cores.any (fun x => decide (x.2 < 0)) || rest.any (fun x => decide (x.2 < 0)) then none
  else
    some { s with
      parts := (enumFrom 0 s.parts).map (fun (x : Nat × Partition) => if x.2.halted then x.2 else { x.2 with energyres := reserveAfter s cores rest x.1 x.2 }),
      teams := (enumFrom 0 s.teams).map (fun (x : Nat × Team) =>
        { x.2 with energyused := x.2.energyused + (teamCharge s cores (chargeOf rest 1) x.1).toNat }),
      meter := { watts := some ((cores.map (·.2)).sum + (rest.map (·.2)).sum).toNat, since := s.clock.cycle, cycles := [] },
      mem := { s.mem with served := [] },
      due := { s.due with energy := s.due.energy + 1000 } }

/-- `onEnergyTick`, where the state brings it about. -/
def execEnergyTick (cores rest : List (Nat × Int)) (s : State) : Host.Outcome State Fault Refusal := happens s (onEnergyTick cores rest s)

/-- POWER_THROTTLE: the arithmetic clock moves by a step of 250 MHz between 1.0 and 4.0 GHz, down when the power of the last tick is above POWERCAP, and up
when in proportion it would stay within it (R457; DESIGN CHOICE, log entry 125: once a tick). -/
def onPowerThrottle (down : Bool) (s : State) : Option State :=
  let f := s.clock.mhz
  let cap := s.adeol.powercap.toNat
  match s.meter.watts with
  | none => none
  | some w =>
    let go (g : Nat) : Option State := some { s with clock := { s.clock with mhz := g }, meter := { s.meter with watts := none } }
    if down then (if w ≤ cap || f < Config.leastMhz + Config.stepMhz then none else go (f - Config.stepMhz))
    else if Config.nominalMhz < f + Config.stepMhz || cap * f < w * (f + Config.stepMhz) then none
    else go (f + Config.stepMhz)

/-- `onPowerThrottle`, where the state brings it about. -/
def execPowerThrottle (down : Bool) (s : State) : Host.Outcome State Fault Refusal := happens s (onPowerThrottle down s)

-- Lifetime records (R459)

/-- The histogram bin of a temperature in °C and of a core supply in mV. -/
def tempBin (c : Nat) : Nat := if c < 40 then 0 else min 15 ((c - 35) / 5)
def voltBin (mv : Nat) : Nat := if mv < 600 then 0 else min 15 ((mv - 575) / 25)

/-- LIFETIME_MINUTE: each die's hottest sensor and lowest supply add 1 to a bin, and powered hours count. -/
def onLifetimeMinute (temps volts : List Nat) (s : State) : Option State :=
  if s.clock.ns < s.due.minute || temps.length != Config.dies || volts.length != Config.dies then none
  else
    let s1 := (enumFrom 0 temps).foldl (fun s (x : Nat × Nat) => lifeAdd s (0x3000 + 16 * x.1 + tempBin x.2) 1) s
    let s1 := (enumFrom 0 volts).foldl (fun s (x : Nat × Nat) => lifeAdd s (0x3100 + 16 * x.1 + voltBin x.2) 1) s1
    let s1 := if s.due.minute % 3_600_000_000_000 = 0 then lifeAdd s1 0 1 else s1
    some { s1 with due := { s.due with minute := s.due.minute + 60_000_000_000 } }

/-- `onLifetimeMinute`, where the state brings it about. -/
def execLifetimeMinute (temps volts : List Nat) (s : State) : Host.Outcome State Fault Refusal := happens s (onLifetimeMinute temps volts s)

/-- LIFETIME_COMMIT: every 600 s. -/
def onLifetimeCommit (s : State) : Option State :=
  if s.clock.ns < s.due.commit then none
  else some { s with nvm := commitLife s.nvm, due := { s.due with commit := s.due.commit + 600_000_000_000 } }

/-- `onLifetimeCommit`, where the state brings it about. -/
def execLifetimeCommit (s : State) : Host.Outcome State Fault Refusal := happens s (onLifetimeCommit s)

-- Attestation (R460)

/-- A signature, 2,820 bytes: 4 of the index, 32 of r, 67 × 32 and 20 × 32 (R460). DESIGN CHOICE (log entry 127): the index's least byte first. -/
def signature (s : State) (i : Nat) (nonce : BitVec 256) : Nat :=
  let of' {n : Nat} (f : Nat → Nat → Nat → Nat → Nat → BitVec n) : Nat := (f i nonce.toNat s.nvm.measurement s.devnum.toNat s.nvm.fwmin).toNat
  i % 2 ^ 32 ||| atByte 4 (of' Config.xmssRandom) ||| atByte 36 (of' Config.xmssChains) ||| atByte 2180 (of' Config.xmssPath)

/-- ATTEST: the next state index is committed, and only in a later step does it sign; at 2^20 the command fails with EXHAUSTED. -/
def onAttest (nonce : BitVec 256) (s : State) : Option State :=
  let i := s.nvm.attidx
  match s.signing with
  | some (k, n) =>
    let t := { s with signing := none }.reply (.attest (some (signature s k n)))
    some (if n == nonce then t else requeue t (.attest nonce))
  | none =>
    if !hostWorks s then none
    else if 2 ^ 20 ≤ i then some (s.reply (.attest none))
    else some (requeue { s with nvm := { s.nvm with attidx := i + 1 }, signing := some (i, nonce) } (.attest nonce))

/-- `onAttest`, where the state brings it about. -/
def execAttest (nonce : BitVec 256) (s : State) : Host.Outcome State Fault Refusal := happens s (onAttest nonce s)

end Sys2Proof.Machine
end

