-- ==== Sys2Proof/Machine/Dispatch.lean ====
section
/-! DEFINITION. One arm per instruction and event: its meaning. -/

namespace Sys2Proof.Machine

open Sys2Proof

/-- The meaning of an instruction or event in a state. -/
def exec (i : Instr) (s : State) : Host.Outcome State Fault Refusal :=
  match i with
  | .clauseHeader wait fa fb yh => Sys2Proof.Machine.execClauseHeader wait fa fb yh s
  | .mov p d a => Sys2Proof.Machine.execMov p d a s
  | .movi p d imm => Sys2Proof.Machine.execMovi p d imm s
  | .movl p d w64 imm => Sys2Proof.Machine.execMovl p d w64 imm s
  | .iadd p d a b => Sys2Proof.Machine.execIadd p d a b s
  | .isub p d a b => Sys2Proof.Machine.execIsub p d a b s
  | .iaddi p d a imm => Sys2Proof.Machine.execIaddi p d a imm s
  | .iadd64 p d a b => Sys2Proof.Machine.execIadd64 p d a b s
  | .imul p d a b => Sys2Proof.Machine.execImul p d a b s
  | .imulh p d a b => Sys2Proof.Machine.execImulh p d a b s
  | .imulhu p d a b => Sys2Proof.Machine.execImulhu p d a b s
  | .imad p d a b cr u sat w64 => Sys2Proof.Machine.execImad p d a b cr u sat w64 s
  | .imin p d a b => Sys2Proof.Machine.execImin p d a b s
  | .imax p d a b => Sys2Proof.Machine.execImax p d a b s
  | .umin p d a b => Sys2Proof.Machine.execUmin p d a b s
  | .umax p d a b => Sys2Proof.Machine.execUmax p d a b s
  | .and p d a b => Sys2Proof.Machine.execAnd p d a b s
  | .or p d a b => Sys2Proof.Machine.execOr p d a b s
  | .xor p d a b => Sys2Proof.Machine.execXor p d a b s
  | .andn p d a b => Sys2Proof.Machine.execAndn p d a b s
  | .shl p d a b => Sys2Proof.Machine.execShl p d a b s
  | .shr p d a b => Sys2Proof.Machine.execShr p d a b s
  | .sar p d a b => Sys2Proof.Machine.execSar p d a b s
  | .shli p d a n => Sys2Proof.Machine.execShli p d a n s
  | .shri p d a n => Sys2Proof.Machine.execShri p d a n s
  | .sari p d a n => Sys2Proof.Machine.execSari p d a n s
  | .roti p d a n => Sys2Proof.Machine.execRoti p d a n s
  | .bfe p d a u len pos => Sys2Proof.Machine.execBfe p d a u len pos s
  | .bfi p d a b len pos => Sys2Proof.Machine.execBfi p d a b len pos s
  | .popc p d a => Sys2Proof.Machine.execPopc p d a s
  | .clz p d a => Sys2Proof.Machine.execClz p d a s
  | .ctz p d a => Sys2Proof.Machine.execCtz p d a s
  | .brev p d a => Sys2Proof.Machine.execBrev p d a s
  | .icmp p d a b cmp w64 imm q bop e => Sys2Proof.Machine.execIcmp p d a b cmp w64 imm q bop e s
  | .sel p d a b q w64 => Sys2Proof.Machine.execSel p d a b q w64 s
  | .pbool p d a b cp e lut => Sys2Proof.Machine.execPbool p d a b cp e lut s
  | .lea p d a b sh u off => Sys2Proof.Machine.execLea p d a b sh u off s
  | .s2v p d a => Sys2Proof.Machine.execS2v p d a s
  | .v2s p d a => Sys2Proof.Machine.execV2s p d a s
  | .smovl p d a => Sys2Proof.Machine.execSmovl p d a s
  | .s2v64 p d a => Sys2Proof.Machine.execS2v64 p d a s
  | .v2s64 p d a => Sys2Proof.Machine.execV2s64 p d a s
  | .fadd p d a b => Sys2Proof.Machine.execFadd p d a b s
  | .fsub p d a b => Sys2Proof.Machine.execFsub p d a b s
  | .fmul p d a b => Sys2Proof.Machine.execFmul p d a b s
  | .ffma p d a b cr rm => Sys2Proof.Machine.execFfma p d a b cr rm s
  | .fmin p d a b => Sys2Proof.Machine.execFmin p d a b s
  | .fmax p d a b => Sys2Proof.Machine.execFmax p d a b s
  | .fcmp p d a b cmp fmt q bop e => Sys2Proof.Machine.execFcmp p d a b cmp fmt q bop e s
  | .fopx p d a b cr opn fmt rm => Sys2Proof.Machine.execFopx p d a b cr opn fmt rm s
  | .fcvt p d a sfmt dfmt rm => Sys2Proof.Machine.execFcvt p d a sfmt dfmt rm s
  | .i2f p d a fmt u w64 rm => Sys2Proof.Machine.execI2f p d a fmt u w64 rm s
  | .f2i p d a fmt u w64 rm => Sys2Proof.Machine.execF2i p d a fmt u w64 rm s
  | .fabs p d a fmt => Sys2Proof.Machine.execFabs p d a fmt s
  | .fneg p d a fmt => Sys2Proof.Machine.execFneg p d a fmt s
  | .fclass p d a fmt => Sys2Proof.Machine.execFclass p d a fmt s
  | .rint p d a rm fmt => Sys2Proof.Machine.execRint p d a rm fmt s
  | .hfma2 p d a b cr rm bf => Sys2Proof.Machine.execHfma2 p d a b cr rm bf s
  | .mxq p d a b sel rm => Sys2Proof.Machine.execMxq p d a b sel rm s
  | .mxdq p d a b fmtc dfmt rm => Sys2Proof.Machine.execMxdq p d a b fmtc dfmt rm s
  | .fdiv p d a b fmt rm => Sys2Proof.Machine.execFdiv p d a b fmt rm s
  | .fsqrt p d a fmt rm => Sys2Proof.Machine.execFsqrt p d a fmt rm s
  | .frsq p d a fmt rm => Sys2Proof.Machine.execFrsq p d a fmt rm s
  | .fex2 p d a => Sys2Proof.Machine.execFex2 p d a s
  | .flg2 p d a => Sys2Proof.Machine.execFlg2 p d a s
  | .idiv p d a b e hase u w64 => Sys2Proof.Machine.execIdiv p d a b e hase u w64 s
  | .ld p d a sz sx atm lc off => Sys2Proof.Machine.execLd p d a sz sx atm lc off s
  | .st p a b sz atm off => Sys2Proof.Machine.execSt p a b sz atm off s
  | .lds p d a sz sx => Sys2Proof.Machine.execLds p d a sz sx s
  | .sts p sz a b => Sys2Proof.Machine.execSts p sz a b s
  | .atom p d a b aop w64 ord scope cr off => Sys2Proof.Machine.execAtom p d a b aop w64 ord scope cr off s
  | .cas128 p d a b cr sp ord scope off => Sys2Proof.Machine.execCas128 p d a b cr sp ord scope off s
  | .red p a b aop w64 ord scope off => Sys2Proof.Machine.execRed p a b aop w64 ord scope off s
  | .waitc p d a b cmp w64 acq scope off => Sys2Proof.Machine.execWaitc p d a b cmp w64 acq scope off s
  | .fence p kind scope => Sys2Proof.Machine.execFence p kind scope s
  | .acq p d a scope off => Sys2Proof.Machine.execAcq p d a scope off s
  | .rel p a b scope off => Sys2Proof.Machine.execRel p a b scope off s
  | .bind p d a b lr => Sys2Proof.Machine.execBind p d a b lr s
  | .unbind p a => Sys2Proof.Machine.execUnbind p a s
  | .cinv p a b => Sys2Proof.Machine.execCinv p a b s
  | .cwb p a b => Sys2Proof.Machine.execCwb p a b s
  | .cdis p d a b => Sys2Proof.Machine.execCdis p d a b s
  | .seal p a b => Sys2Proof.Machine.execSeal p a b s
  | .unseal p a b => Sys2Proof.Machine.execUnseal p a b s
  | .pref p a lc x => Sys2Proof.Machine.execPref p a lc x s
  | .shfl p d a b => Sys2Proof.Machine.execShfl p d a b s
  | .pollAll p d a => Sys2Proof.Machine.execPollAll p d a s
  | .pollAny p d a => Sys2Proof.Machine.execPollAny p d a s
  | .pollSame p d a => Sys2Proof.Machine.execPollSame p d a s
  | .pollMask p d a => Sys2Proof.Machine.execPollMask p d a s
  | .bra p off => Sys2Proof.Machine.execBra p off s
  | .brx p a => Sys2Proof.Machine.execBrx p a s
  | .call p off => Sys2Proof.Machine.execCall p off s
  | .callx p d a => Sys2Proof.Machine.execCallx p d a s
  | .ret p a => Sys2Proof.Machine.execRet p a s
  | .exit p => Sys2Proof.Machine.execExit p s
  | .rcvb p d parkok => Sys2Proof.Machine.execRcvb p d parkok s
  | .rcvw p d => Sys2Proof.Machine.execRcvw p d s
  | .tbar p => Sys2Proof.Machine.execTbar p s
  | .nbarInit p d a => Sys2Proof.Machine.execNbarInit p d a s
  | .nbarArrive p d a => Sys2Proof.Machine.execNbarArrive p d a s
  | .nbarWait p d a => Sys2Proof.Machine.execNbarWait p d a s
  | .nbarArriveWait p d a => Sys2Proof.Machine.execNbarArriveWait p d a s
  | .gbar p n => Sys2Proof.Machine.execGbar p n s
  | .nop p => Sys2Proof.Machine.execNop p s
  | .yield p => Sys2Proof.Machine.execYield p s
  | .sleep p n => Sys2Proof.Machine.execSleep p n s
  | .trap p n => Sys2Proof.Machine.execTrap p n s
  | .eret p => Sys2Proof.Machine.execEret p s
  | .mma p d a b fmt amode zc tr t => Sys2Proof.Machine.execMma p d a b fmt amode zc tr t s
  | .tld p d a t => Sys2Proof.Machine.execTld p d a t s
  | .tst p d a t => Sys2Proof.Machine.execTst p d a t s
  | .cpy p d a b dk sk esz t => Sys2Proof.Machine.execCpy p d a b dk sk esz t s
  | .gathf p d a b lk t => Sys2Proof.Machine.execGathf p d a b lk t s
  | .scatf p d a b lk rop t => Sys2Proof.Machine.execScatf p d a b lk rop t s
  | .flu p d a b fmt nm1 batch trap pms t => Sys2Proof.Machine.execFlu p d a b fmt nm1 batch trap pms t s
  | .fchol p d a b fmt nm1 batch trap t => Sys2Proof.Machine.execFchol p d a b fmt nm1 batch trap t s
  | .fqr p d a b fmt nm1 batch t => Sys2Proof.Machine.execFqr p d a b fmt nm1 batch t s
  | .ftrs p d a fmt nm1 batch pms perm trn unit up t => Sys2Proof.Machine.execFtrs p d a fmt nm1 batch pms perm trn unit up t s
  | .fupd p d a b fmt nm1 trap down t => Sys2Proof.Machine.execFupd p d a b fmt nm1 trap down t s
  | .sopen p d a lc sp => Sys2Proof.Machine.execSopen p d a lc sp s
  | .sclose p a => Sys2Proof.Machine.execSclose p a s
  | .sadv p d a => Sys2Proof.Machine.execSadv p d a s
  | .sseek p d a x => Sys2Proof.Machine.execSseek p d a x s
  | .stend p d a => Sys2Proof.Machine.execStend p d a s
  | .sjoin p d a kmask mode t => Sys2Proof.Machine.execSjoin p d a kmask mode t s
  | .sfuse p d a b al be t => Sys2Proof.Machine.execSfuse p d a b al be t s
  | .stopk p d a kind final t => Sys2Proof.Machine.execStopk p d a kind final t s
  | .spawn p a eoff => Sys2Proof.Machine.execSpawn p a eoff s
  | .spawno p d a b eoff => Sys2Proof.Machine.execSpawno p d a b eoff s
  | .txb p mode foff => Sys2Proof.Machine.execTxb p mode foff s
  | .txe p => Sys2Proof.Machine.execTxe p s
  | .txa p n => Sys2Proof.Machine.execTxa p n s
  | .txs p d => Sys2Proof.Machine.execTxs p d s
  | .reggrow p d n => Sys2Proof.Machine.execReggrow p d n s
  | .regshrink p n => Sys2Proof.Machine.execRegshrink p n s
  | .mfs p d uni w64 num => Sys2Proof.Machine.execMfs p d uni w64 num s
  | .mts p d uni w64 num => Sys2Proof.Machine.execMts p d uni w64 num s
  | .clkTime p d w => Sys2Proof.Machine.execClkTime p d w s
  | .clkCycle p d w => Sys2Proof.Machine.execClkCycle p d w s
  | .launch p d a t => Sys2Proof.Machine.execLaunch p d a t s
  | .reservedMajor p op rest => Sys2Proof.Machine.execReservedMajor p op rest s
  | .zeroWord => Sys2Proof.Machine.execZeroWord s
  | .clauseWaitRelease sp => Sys2Proof.Machine.execClauseWaitRelease sp s
  | .operationCompletion id => Sys2Proof.Machine.execOperationCompletion id s
  | .instructionFetch sp lane => Sys2Proof.Machine.execInstructionFetch sp lane s
  | .rightsMissReturn core easid va => Sys2Proof.Machine.execRightsMissReturn core easid va s
  | .registerLineFetch sp reg => Sys2Proof.Machine.execRegisterLineFetch sp reg s
  | .trapDelivery sp => Sys2Proof.Machine.execTrapDelivery sp s
  | .commandStart id steps => Sys2Proof.Machine.execCommandStart id steps s
  | .commandCompletion id => Sys2Proof.Machine.execCommandCompletion id s
  | .spindleEnd sp => Sys2Proof.Machine.execSpindleEnd sp s
  | .spindleDormant sp => Sys2Proof.Machine.execSpindleDormant sp s
  | .monitorRelease sp lane => Sys2Proof.Machine.execMonitorRelease sp lane s
  | .monitorRecheck die slice => Sys2Proof.Machine.execMonitorRecheck die slice s
  | .dormantReturn sp => Sys2Proof.Machine.execDormantReturn sp s
  | .sleepExpiry sp lane => Sys2Proof.Machine.execSleepExpiry sp lane s
  | .backoffExpiry sp lane => Sys2Proof.Machine.execBackoffExpiry sp lane s
  | .txCommit sp => Sys2Proof.Machine.execTxCommit sp s
  | .commitTokenMessage easid addr seq => Sys2Proof.Machine.execCommitTokenMessage easid addr seq s
  | .tokenRegeneration easid addr => Sys2Proof.Machine.execTokenRegeneration easid addr s
  | .spawnBinTimer core bin => Sys2Proof.Machine.execSpawnBinTimer core bin s
  | .binLaunch core bin => Sys2Proof.Machine.execBinLaunch core bin s
  | .reggrowGrant sp => Sys2Proof.Machine.execReggrowGrant sp s
  | .reggrowFail sp => Sys2Proof.Machine.execReggrowFail sp s
  | .leaseExpiry core easid line => Sys2Proof.Machine.execLeaseExpiry core easid line s
  | .homeOwnershipRequest core easid line own => Sys2Proof.Machine.execHomeOwnershipRequest core easid line own s
  | .homeWriteback core easid line => Sys2Proof.Machine.execHomeWriteback core easid line s
  | .hostSnoop pa inv => Sys2Proof.Machine.execHostSnoop pa inv s
  | .hostMemAccess off size write data poison => Sys2Proof.Machine.execHostMemAccess off size write data poison s
  | .fabricGatherRequest asid va size tag => Sys2Proof.Machine.execFabricGatherRequest asid va size tag s
  | .fabricScatterWrite asid va rop head data poison => Sys2Proof.Machine.execFabricScatterWrite asid va rop head data poison s
  | .fabricAcknowledgement id pos answer poison => Sys2Proof.Machine.execFabricAcknowledgement id pos answer poison s
  | .linkRetrain link => Sys2Proof.Machine.execLinkRetrain link s
  | .hostLinkDown => Sys2Proof.Machine.execHostLinkDown s
  | .isolationTimeout party => Sys2Proof.Machine.execIsolationTimeout party s
  | .tcqInval => Sys2Proof.Machine.execTcqInval s
  | .tcqResume => Sys2Proof.Machine.execTcqResume s
  | .tcqFail => Sys2Proof.Machine.execTcqFail s
  | .tcqMigrate => Sys2Proof.Machine.execTcqMigrate s
  | .tcqRetire => Sys2Proof.Machine.execTcqRetire s
  | .tcqBadOp => Sys2Proof.Machine.execTcqBadOp s
  | .placementInterval => Sys2Proof.Machine.execPlacementInterval s
  | .distributorCycle => Sys2Proof.Machine.execDistributorCycle s
  | .teamSuspend team => Sys2Proof.Machine.execTeamSuspend team s
  | .teamMigrationDie team => Sys2Proof.Machine.execTeamMigrationDie team s
  | .distributorMessage team => Sys2Proof.Machine.execDistributorMessage team s
  | .dependenceSatisfied launch dep => Sys2Proof.Machine.execDependenceSatisfied launch dep s
  | .teamEnd team => Sys2Proof.Machine.execTeamEnd team s
  | .poisonMark place => Sys2Proof.Machine.execPoisonMark place s
  | .energyTick charges statics => Sys2Proof.Machine.execEnergyTick charges statics s
  | .powerThrottle down => Sys2Proof.Machine.execPowerThrottle down s
  | .lifetimeMinute temps volts => Sys2Proof.Machine.execLifetimeMinute temps volts s
  | .lifetimeCommit => Sys2Proof.Machine.execLifetimeCommit s
  | .scanStart => Sys2Proof.Machine.execScanStart s
  | .scanEnd pass => Sys2Proof.Machine.execScanEnd pass s
  | .adeolPartitionStart part asid record => Sys2Proof.Machine.execAdeolPartitionStart part asid record s
  | .adeolPartitionConfig pnum pavs share => Sys2Proof.Machine.execAdeolPartitionConfig pnum pavs share s
  | .adeolKill team => Sys2Proof.Machine.execAdeolKill team s
  | .adeolHalt part => Sys2Proof.Machine.execAdeolHalt part s
  | .attest nonce => Sys2Proof.Machine.execAttest nonce s
  | .firmwareImage image => Sys2Proof.Machine.execFirmwareImage image s
  | .warmReentry ms => Sys2Proof.Machine.execWarmReentry ms s
  | .coldReset ms => Sys2Proof.Machine.execColdReset ms s
  | .astbaseWrite v => Sys2Proof.Machine.execAstbaseWrite v s
  | .hdmWrite v => Sys2Proof.Machine.execHdmWrite v s
  | .powercapWrite v => Sys2Proof.Machine.execPowercapWrite v s
  | .erateWrite part v => Sys2Proof.Machine.execErateWrite part v s
  | .dumpbaseWrite v => Sys2Proof.Machine.execDumpbaseWrite v s
  | .haltstatClear v => Sys2Proof.Machine.execHaltstatClear v s
  | .adeolRegisterWrite block off v => Sys2Proof.Machine.execAdeolRegisterWrite block off v s
  | .holdingInstructionCompletion sp lane => Sys2Proof.Machine.execHoldingInstructionCompletion sp lane s
  | .powerLoss => Sys2Proof.Machine.execPowerLoss s
  | .linkFailure link => Sys2Proof.Machine.execLinkFailure link s
  | .cxlHostResponse pa dirty data poison => Sys2Proof.Machine.execCxlHostResponse pa dirty data poison s

end Sys2Proof.Machine
end

