-- ==== Sys2Proof/Machine/Events.lean ====
section
/-! DEFINITION. The device's own steps that the state may enable, and which of them comes next. Their order is the model's
choice; the arguments that the device measures are free values. -/

namespace Sys2Proof.Machine

open Sys2Proof

/-- Steps for a lane. -/
def laneEvents (i : Nat) (x : Nat × Lane) : List Instr :=
  match x.2.st with
  | .held (.completing _) => [.holdingInstructionCompletion i x.1]
  | .held (.regshrink ..) => [.holdingInstructionCompletion i x.1]
  | .sleeping _ => [.sleepExpiry i x.1]
  | .backoff _ => [.backoffExpiry i x.1]
  | .waiting => [.monitorRelease i x.1]
  | _ => []

/-- Steps for a spindle. -/
def spindleEvents (i : Nat) (sp : Spindle) : List Instr :=
  match sp.st with
  | .ended => [.txCommit i]
  | .suspended => []
  | .dormant => .dormantReturn i :: (enumFrom 0 sp.progLanes).flatMap (laneEvents i)
  | .resident =>
    sp.want.map (.registerLineFetch i) ++ [.clauseWaitRelease i, .trapDelivery i, .txCommit i, .reggrowGrant i, .reggrowFail i, .spindleEnd i, .spindleDormant i] ++
      (enumFrom 0 sp.lanes).flatMap (laneEvents i) ++
      (match sp.trapped with
       | some t => (enumFrom 0 t.lanes).flatMap (fun x => if x.2.st.isWaiting then laneEvents i x else [])
       | none => [])

/-- Steps of commands, bins and tokens. -/
def unitEvents (s : State) : List Instr :=
  s.ops.map (fun o => .operationCompletion o.id) ++
  s.cmds.flatMap (fun c => [.commandCompletion c.id, .commandStart c.id 0, .commandStart c.id 1]) ++
  s.bins.flatMap (fun b => [.spawnBinTimer b.core b.num, .binLaunch b.core b.num]) ++
  s.tokens.flatMap (fun k => [.commitTokenMessage k.ea k.va.toNat k.seq.toNat, .tokenRegeneration k.ea k.va.toNat])

/-- Steps of teams and launches. -/
def teamEvents (s : State) : List Instr :=
  (List.range s.teams.length).flatMap (fun t => match (s.team t).st with
    | .running => [.teamEnd t]
    | .suspending => [.teamSuspend t]
    | .suspended => [.teamMigrationDie t]
    | .pending => [.teamMigrationDie t]
    | _ => []) ++
  s.distMsgs.map .distributorMessage ++
  (enumFrom 0 s.launches).flatMap (fun (x : Nat × Launch) =>
    match x.2.st with
    | .waiting => (List.range x.2.info.deps.length).map (fun d => .dependenceSatisfied x.1 d)
    | _ => [])

/-- The slices that watched words lie in. -/
def watchedSlices (s : State) : List (Nat × Nat) :=
  s.spindles.foldl (fun acc (sp : Spindle) => sp.progLanes.foldl (fun acc y => match y.monitor with
    | some m => let x := (homeDie s m.ea (lnOf m.va), sliceOf m.ea (lnOf m.va))
      if acc.contains x then acc else x :: acc
    | none => acc) acc) []

/-- Steps of the clocks, the controller and the caches. -/
def timeEvents (s : State) : List Instr :=
  (match s.reentry with
   | some ms => if allHalted s then [Instr.warmReentry ms] else []
   | none => []) ++
  [.distributorCycle, .tcqInval, .tcqResume, .tcqFail, .tcqMigrate, .tcqRetire, .tcqBadOp, .placementInterval,
   .energyTick ((List.range Config.coreCount).map (fun c => (c, Int.ofNat (Config.coreEnergy s.due.energy c))))
     [(0, Int.ofNat (Config.staticEnergy s.due.energy)), (1, Int.ofNat (Config.memoryEnergy s.due.energy))],
   .powerThrottle true, .powerThrottle false,
   .lifetimeMinute ((List.range Config.dies).map (Config.dieTemperature s.due.minute)) ((List.range Config.dies).map (Config.dieSupply s.due.minute)),
   .lifetimeCommit, .scanStart, .scanEnd (Config.scanPasses s.scan.began)] ++
  (Instr.isolationTimeout .host :: (List.range Config.dies).map (fun d => .isolationTimeout (.die d))) ++
  (s.cmds.flatMap (fun c => c.remote.map (·.2))).map (fun n => .isolationTimeout (.device n)) ++
  (watchedSlices s).map (fun x => .monitorRecheck x.1 x.2) ++
  s.mem.l1.filterMap (fun x => if x.owned || x.til == some 0 || x.serves s.clock.ns then none else some (.leaseExpiry x.core x.ea x.ln))

/-- The steps that may be due. -/
def dueEvents (s : State) : List Instr :=
  timeEvents s ++ unitEvents s ++ teamEvents s ++ (enumFrom 0 s.spindles).flatMap (fun (x : Nat × Spindle) => spindleEvents x.1 x.2)

/-- What a step of the device's own does, where the state brings it about. -/
def ownEvent (s : State) : Instr → Option State
  | .holdingInstructionCompletion x y => onHoldingInstructionCompletion x y s
  | .sleepExpiry x y => onSleepExpiry x y s
  | .backoffExpiry x y => onBackoffExpiry x y s
  | .monitorRelease x y => onMonitorRelease x y s
  | .dormantReturn x => onDormantReturn x s
  | .registerLineFetch x y => onRegisterLineFetch x y s
  | .clauseWaitRelease x => onClauseWaitRelease x s
  | .trapDelivery x => onTrapDelivery x s
  | .txCommit x => onTxCommit x s
  | .reggrowGrant x => onReggrowGrant x s
  | .reggrowFail x => onReggrowFail x s
  | .spindleEnd x => onSpindleEnd x s
  | .spindleDormant x => onSpindleDormant x s
  | .operationCompletion x => onOperationCompletion x s
  | .commandCompletion x => onCommandCompletion x s
  | .commandStart x y => onCommandStart x y s
  | .spawnBinTimer x y => onSpawnBinTimer x y s
  | .binLaunch x y => onBinLaunch x y s
  | .commitTokenMessage x y z => onCommitTokenMessage x y z s
  | .tokenRegeneration x y => onTokenRegeneration x y s
  | .teamEnd x => onTeamEnd x s
  | .teamSuspend x => onTeamSuspend x s
  | .teamMigrationDie x => onTeamMigrationDie x s
  | .distributorMessage x => onDistributorMessage x s
  | .dependenceSatisfied x y => onDependenceSatisfied x y s
  | .warmReentry x => onWarmReentry x s
  | .distributorCycle => onDistributorCycle s
  | .tcqInval => onTcqInval s
  | .tcqResume => onTcqResume s
  | .tcqFail => onTcqFail s
  | .tcqMigrate => onTcqMigrate s
  | .tcqRetire => onTcqRetire s
  | .tcqBadOp => onTcqBadOp s
  | .placementInterval => onPlacementInterval s
  | .energyTick x y => onEnergyTick x y s
  | .powerThrottle x => onPowerThrottle x s
  | .lifetimeMinute x y => onLifetimeMinute x y s
  | .lifetimeCommit => onLifetimeCommit s
  | .scanStart => onScanStart s
  | .scanEnd x => onScanEnd x s
  | .monitorRecheck x y => onMonitorRecheck x y s
  | .leaseExpiry x y z => onLeaseExpiry x y z s
  | .isolationTimeout x => onIsolationTimeout x s
  | _ => none

/-- The state brings the step about. -/
def enabled (s : State) (e : Instr) : Bool := (ownEvent s e).isSome

/-- The next of the device's own steps: the first that the state enables, from a place in the list that moves with time, so
that none waits behind another for ever. -/
def nextInternal (s : State) : Option Instr :=
  let l := dueEvents s
  let k := s.clock.cycle / 4 % max 1 l.length
  (l.drop k ++ l.take k).find? (enabled s)

end Sys2Proof.Machine
end

