-- ==== Sys2Proof/Machine/Pick.lean ====
section
/-! DEFINITION. The attempt to issue a fragment: what makes it ready, the core's E port, the pairing of a quadrant's two picks, and what an issue
books (12 R281-R290). -/

namespace Sys2Proof.Machine

open Sys2Proof

/-- The chain that issues: its first word and those fetched with it. -/
def Issue.chain (c : Issue) : List CWord :=
  let word (pc : DWord) (w : Word × Word) : CWord := { pc := pc, w0 := w.1, w1 := w.2, op := (fld w.1 21 7).toNat }
  (c.rest.foldl (fun (acc : List CWord × DWord) w =>
    let x := word acc.2 w
    (acc.1 ++ [x], acc.2 + BitVec.ofNat 64 (4 * x.len)))
    (let x := word c.pc (c.w0, c.w1); ([x], c.pc + BitVec.ofNat 64 (4 * x.len)))).1

/-- The v registers that a chain reads, those that it writes, and all of them. -/
def chainReads (l : List CWord) : List Nat := (l.flatMap CWord.readsV).foldl insertNat []
def chainWrites (l : List CWord) : List Nat := (l.flatMap CWord.writesV).foldl insertNat []
def chainRegs (l : List CWord) : List Nat := (chainWrites l).foldl insertNat (chainReads l)
/-- The register banks of the lines that a chain reads, one entry for each line (R285). -/
def chainBanks (l : List CWord) : List Nat := (chainReads l).map (· % 8)
def chainPipes (l : List CWord) : List Pipe := l.filterMap CWord.pipe
/-- The chain needs the core's E port (R281). -/
def usesE (l : List CWord) : Bool := (chainPipes l).contains .e

/-- The engine whose queue a word's major goes to (08 R183; 09 R207; 10 R232). -/
def engineOf (op : Nat) : Option Engine :=
  if op = 0x60 || (0x66 ≤ op && op ≤ 0x6A) then some .matrix
  else if 0x61 ≤ op && op ≤ 0x63 then some .copy
  else if op = 0x64 || op = 0x65 then some .gather
  else if 0x6B ≤ op && op ≤ 0x6F then some .ple
  else none

/-- An E-pipe word of the chain goes to a queue of the core that has no room (R281). -/
def queueBlocks (s : State) (core : Nat) (l : List CWord) : Bool := l.any (fun w => (engineOf w.op).any (queueFull s core))

/-- The meaning of the word that issues, or the fault of one that decodes to nothing. -/
def issueWord (s : State) : Except DecodeError Instr → Host.Outcome State Fault Refusal
  | .ok i => exec i s
  | .error e => .next (undecoded s e)

-- What an issue books

/-- Open transactions note the registers that the chain writes; the checkpoint of each register written for the first time goes to a chunk
(14 R322, R323). -/
def bookTx (s : State) (i : Nat) (m : LaneMask) (regs : List Nat) : State :=
  if (lanesOf m).all (fun l => (s.lane i l).txn.isNone) then s
  else
    let first := regs.filter (fun r => (lanesOf m).any (fun l => (s.lane i l).txn.any (fun x => !x.chkRegs.contains r)))
    let s := s.modLanes i m (fun _ y => { y with txn := y.txn.map (fun (x : Txn) => { x with chkRegs := regs.foldl insertNat x.chkRegs }) })
    first.foldl (fun s r => chunkWrite s i 32 r) s

/-- The fragment m of spindle i issues chain l: the pick, the ages, the lanes' times, the use of its lines, the copies that its writes need, and the
cycles that its reads take from its quadrant (R280, R283, R285, R290; 21 R438). -/
def bookIssue (s : State) (i : Nat) (m : LaneMask) (l : List CWord) : State :=
  let q := (s.spindle i).quadrant
  let banks := chainBanks l
  let r := (List.range 8).foldl (fun a b => max a (banks.count b)) 0
  let s := rcUse (rcUse s i (chainReads l) false) i (chainWrites l) true
  let pc := s.cur.pc
  let s := { s with rcache := s.rcache.map (fun (x : RegLine) => if x.sp == i && x.gathered == some pc then { x with gathered := none } else x) }
  let s := bookTx (s.modSp i (fun sp => if sp.wantPc == pc then { sp with want := [] } else sp)) i m (chainWrites l)
  let s := touchUnits s (s.spindle i).team ((chainWrites l).map (fun r => SnapUnit.image i (16 + r)))
  let s := youngest (s.modLanes i m (fun _ y => { y with issued := s.clock.ns, chained := false })) i
  { s with picks := s.picks ++ [{ sp := i, pipes := chainPipes l, banks := banks }],
           quiet := if 2 < r then cellSet s.quiet q (BitVec.ofNat 64 (s.clock.cycle + (r + 1) / 2)) else s.quiet }

-- Readiness (R281, R288, R289)

/-- A lane of the fragment waits for its word. -/
def waits (s : State) (i : Nat) (m : LaneMask) : Bool := (lanesOf m).any (fun l => (s.lane i l).st == .stalled)

/-- The state in which a word of the chain finds that it must wait, if one does: the chain's words run in order, at most n of them after the
first. -/
def chainWaits (i : Nat) (m : LaneMask) : Nat → Host.Outcome State Fault Refusal → Option State
  | _, .fault _ => none
  | _, .refused _ => none
  | 0, .next t => if waits t i m then some t else none
  | n + 1, .next t =>
    if waits t i m then some t
    else if !t.cur.more then none
    else
      match nextWord t with
      | .over _ => none
      | .run u r => chainWaits i m n (issueWord u r)

/-- The spindle gathers the lines of the chain at pc: fetches of at most 32 absent ones start, and the present ones are held until the chain issues.
It gathers for one chain at a time, as long as that chain's lanes stand (R288). -/
def gather (s : State) (i : Nat) (pc : DWord) (regs : List Nat) : State :=
  let sp := s.spindle i
  if !sp.want.isEmpty && sp.wantPc != pc && sp.lanes.any (fun y => y.st.canIssue && y.pc == sp.wantPc) then s
  else
    { s.modSp i (fun x => { x with want := (regs.filter (fun r => !rcHas s i r)).take 32, wantPc := pc }) with
      rcache := s.rcache.map (fun x => if x.sp == i && regs.contains x.reg && !gatheredNow s x then { x with gathered := some pc } else x) }

/-- What the attempt to issue a fragment finds: it is over, with what its fetch or its header left; it is not ready; or it is ready, with its
chain and what its first word does. -/
inductive Tried where
  | over (r : Host.Outcome State Fault Refusal)
  | unready (s : State)
  | ready (l : List CWord) (r : Host.Outcome State Fault Refusal)

/-- The fragment as it stands before its attempt: its lanes eligible, those stopped at a header among them. -/
def standing (s : State) (i : Nat) (m : LaneMask) (pc : DWord) : State :=
  { s.modLanes i m (fun _ y => { y with st := .eligible }) with cur := Issue.start i m pc }

/-- Tries fragment m of spindle i at pc: all conditions of R281 but the E port; a register at or above VCOUNT has no line to wait for (01 R14). A fragment that is not ready leaves nothing but its lanes marked
for this cycle, a line asked back from the host, and the fetches of R288. -/
def tryFragment (s : State) (i : Nat) (m : LaneMask) (pc : DWord) : Tried :=
  let s0 := standing s i m pc
  match startFragment s0 i m pc with
  | .over t => .over (.next t)
  | .run t w =>
    if isHeader t.cur.w0 then .over (issueWord t w)
    else
      let l := t.cur.chain
      let regs := (chainRegs l).filter (fun r => decide (r < (s.spindle i).vcount))
      let r := issueWord (bookIssue t i m l) w
      if queueBlocks s (s.spindle i).core l || 8 < ((chainWrites l).foldl insertNat (pinnedRegs s i)).length then .unready (stallLanes s0 m none)
      else
        match chainWaits i m 2 r with
        | some u => .unready (stallLanes { s0 with mem := { s0.mem with hostWait := u.mem.hostWait } } m none)
        | none => if regs.all (rcHas s i) then .ready l r else .unready (gather (stallLanes s0 m none) i pc regs)

-- The E port and the second pick (R281, R283, R284)

/-- Spindle j competes for the E port of its core: one of its fragments that needs the port is ready but for it. -/
def competesE (s : State) (j : Nat) : Bool :=
  let sp := s.spindle j
  canIssue s sp && (fragmentsOf sp).any (fun f => sp.untried f.1 &&
    (match tryFragment s j f.1 (sp.lane (lowestLane f.1)).pc with
      | .ready l _ => usesE l
      | _ => false))

/-- The spindle that wins a core's E port: the only one that can issue, or the oldest that competes. -/
def portWinner (s : State) (core : Nat) : Option Nat :=
  match (enumFrom 0 s.spindles).filter (fun y => y.2.core == core && canIssue s y.2) with
  | [x] => some x.1
  | l => match l.filter (fun y => competesE s y.1) with
    | [] => none
    | x :: r => some (r.foldl (fun b y => if y.2.older b.2 then y else b) x).1

/-- The E port of a core is arbitrated before the first fragment of its cycle is chosen (R281). -/
def arbitrate (s : State) (core : Nat) : State :=
  if s.ports.any (fun x => x.1 == core) then s else { s with ports := (core, portWinner s core) :: s.ports }

/-- The E port of spindle i's core is another's in this cycle. -/
def portTaken (s : State) (i : Nat) : Bool :=
  !s.ports.any (fun x => x.1 == (s.spindle i).core && x.2 == some i)

/-- Chain l can issue in the cycle of its quadrant's first pick: no pipe in common, and no bank that delivers more than two lines (R284, R285). -/
def pairs (s : State) (i : Nat) (l : List CWord) : Bool :=
  (picksOf s (s.spindle i).quadrant).all (fun p => (chainPipes l).all (fun q => !p.pipes.contains q) && !banksOver (p.banks ++ chainBanks l))

/-- The spindle is not picked in this cycle. -/
def skipSpindle (s : State) (i : Nat) : State :=
  s.modSp i (fun sp => { sp with lanes := sp.lanes.map (fun y => if y.st.isEligible then { y with st := .stalled } else y) })

/-- One attempt of the picks of a cycle: the fragment issues its first word, or is found not ready, or its spindle is not picked. -/
def attempt (s : State) (i : Nat) (m : LaneMask) (pc : DWord) : Host.Outcome State Fault Refusal :=
  let s := arbitrate s (s.spindle i).core
  match tryFragment s i m pc with
  | .over r => r
  | .unready t => .next t
  | .ready l r =>
    if usesE l && portTaken s i then .next (stallLanes (standing s i m pc) m none)
    else if pairs s i l then r
    else .next (skipSpindle s i)

/-- The next attempt: the least-stamp fragment that may be ready of the spindle whose turn it is. None when no spindle may issue. -/
def issueNext (s : State) : Option (Host.Outcome State Fault Refusal) :=
  match pickSpindle s with
  | none => none
  | some i =>
    match bestFragment (s.spindle i) with
    | none => none
    | some (m, pc) => some (attempt s i m pc)

/-- The next word of the chain that issues (03 R71). -/
def chainStep (s : State) : Host.Outcome State Fault Refusal :=
  match nextWord s with
  | .over t => .next t
  | .run t w => issueWord t w

end Sys2Proof.Machine
end

