-- ==== Sys2Proof/Machine/Place.lean ====
section
/-! DEFINITION. A configured module that is about to issue given words: what a driver, a launch and a dispatch
leave behind (17 R357, R362), made directly. The spindle's vector lines stand in the register cache (12 R288). -/

namespace Sys2Proof.Machine

open Sys2Proof

/-- The line of words in the order they lie in memory. -/
def lineOfWords (l : List Word) : Nat := packBytes 4 (l.map (·.toNat))

/-- Where the placed text lies. -/
def placedText : DWord := 0x12_0000#64

/-- The prepared words: a header in slot 0 that names FA 1 and FB 2, or the word itself when it is a header. -/
def placedWords (w0 w1 : Word) : List Word := if isHeader w0 then [w0, w1] else [0x7FE0_0024#32, w0, w1]

/-- One partition, one launch and one running team of one privileged spindle of 32 lanes on core 0, whose fetch path
holds the words in its home. -/
def State.placeWords (s : State) (w0 w1 : Word) : State :=
  let all := BitVec.allOnes 128
  let text : HomeLine := { ea := 1, ln := lnOf placedText,
                           line := { Line.empty with data := BitVec.ofNat 1024 (lineOfWords (placedWords w0 w1)), valid := all },
                           version := 0, owner := none, pend := false, undo := [] }
  let leaf : LeafEntry := { unit := 0, ea := 1, page := 0, span := 262144, leaf := 0x0000_0000_0000_021F#64 }
  let lane (l : Nat) : Lane :=
    { Lane.blank with
      pc := if isHeader w0 then placedText else placedText + 4#64,
      st := .eligible, priv := true, rng := srSeed 0#32 l, boff := seedOf (BitVec.ofNat 32 l) }
  let sp : Spindle := { Spindle.blank with team := 0, st := .resident, vcount := 128, lanes := (List.range 32).map lane, entry := placedText }
  let info : LaunchRec := { entry := placedText, teams := 1, spindles := 1, vcount := 128, cores := 1, prio := 0, coop := false, priv := true,
                            rollb := false, ndep := 0, scratch := Config.scratchBytes, tiles := Config.faceRows, grouptab := 0#64, rabase := 0x40_0000#64,
                            rasize := 64, sasize := 0, dlcontrib := 0, energy := 0, done := 0#64, deps := [], args := List.replicate 16 0#32 }
  let launch : Launch := { num := 1, part := 0, recva := 0#64, die := 0, st := .running, info := info, prio := 0, priv := true, root := true,
                           sat := [], step := 0, next := 1, grouptab := 0#64, issuer := none, anyKilled := false, abandoned := false, discarded := false,
                           cause := 0#8 }
  let team : Team := { Team.blank with st := .running, nspin := 1, share := Config.scratchBytes, tiles := Config.faceRows, ranks := [0], regarena := 0x40_0040#64 }
  { s with
    spindles := [sp], teams := [team], launches := [launch],
    parts := [{ Partition.blank with pnum := 1#16, pavs := [0], share := 1, started := true, asid := 1#14, nextLaunch := 2 }],
    rcache := (List.range 128).map (fun r => { core := 0, sp := 0, reg := r, dirty := false, gathered := none }),
    mem := { s.mem with home := [text], rights := [leaf] } }

end Sys2Proof.Machine
end

