-- ==== Sys2Proof/Machine/Step.lean ====
section
/-! DEFINITION. One step of the module. -/

namespace Sys2Proof.Machine

open Sys2Proof

/-- A fragment issues, or, when no spindle may, the device takes its own step, or a cycle passes. -/
def issueStep (s : State) : Host.Outcome State Fault Refusal :=
  match issueNext s with
  | some r => r
  | none =>
    match nextInternal s with
    | some e => exec e s
    | none => .next (tickState s)

/-- One step: the rest of a chain, a deferred report, an event that the agenda brings, but
not in two cycles of four, then issue and the device's own steps in turn. -/
def step (s : State) : Host.Outcome State Fault Refusal :=
  if s.cur.more then chainStep s
  else if !s.mem.drops.isEmpty then .next (collectDrops s)
  else
    match s.reports.find? (reportReady s) with
    | some r => .next (takeReport { s with reports := s.reports.erase r } r)
    | none =>
      match (if s.clock.cycle % 4 = 1 ∨ s.clock.cycle % 4 = 2 then [] else s.agenda) with
      | e :: rest => exec e { s with agenda := rest }
      | [] =>
        if s.clock.cycle % 2 = 1 then
          match nextInternal s with
          | some e => exec e s
          | none => issueStep s
        else issueStep s

/-- The state in which the next step fetches and runs the instruction with these bits (03 R64, R67): a program comes to
run from reset only through a partition start and a launch, for which this stands. -/
def State.withFetchWord (s : State) (nbits w : Nat) : State :=
  let v := BitVec.ofNat 64 (w % 2 ^ nbits)
  s.placeWords (v.extractLsb' 0 32) (v.extractLsb' 32 32)

end Sys2Proof.Machine
end

