-- ==== Sys2Proof/Safety.lean ====
section
/-! DEFINITION. What a safe run is, in the terms that claims use: when a word issues without a check that stops it, what a
word's registers, flags and predicates become, and what it leaves alone. -/

namespace Sys2Proof.Machine

open Sys2Proof

/-- The step answers a next state. -/
def Runs (s : State) : Prop := ∃ t, step s = .next t

/-- Word i stands at issue in s, some lane executes it, and no check of 03 R84 that comes before the entry's own effect stops a
lane: the registers are allocated (01 R14), the mode allows it (01 R23, 11 R274), no handler or transaction forbids it (11 R258, R263, R273),
and no lane reads a poisoned register line (12 R291). -/
structure Issues (i : Instr) (s : State) : Prop where
  place : s.cur.sp < s.spindles.length
  lanes : (s.spindle s.cur.sp).lanes.length = 32
  runs : s.execLanes (pfx i) ≠ 0#32
  eligible : ∀ l < 32, s.cur.lanes.getLsbD l = true → (s.lane s.cur.sp l).st = .eligible
  wellFormed : wf i = true
  registers : overVcount i (s.spindle s.cur.sp).vcount = false
  mode : needsPriv i = true → ∀ l < 32, (s.execLanes (pfx i)).getLsbD l = true → (s.lane s.cur.sp l).priv = true
  handler : handlerForbidden i = true → (s.spindle s.cur.sp).inHandler = false
  transaction : txForbidden i = true → ∀ l < 32, (s.execLanes (pfx i)).getLsbD l = true → (s.lane s.cur.sp l).tx = false
  values : ∀ l < 32, (s.execLanes (pfx i)).getLsbD l = true → laneValueBad i (s.spindle s.cur.sp) l = false
  clean : poisonedLanes (s.spindle s.cur.sp) i (s.execLanes (pfx i)) = 0#32

/-- Word i stands at issue in s with lanes that execute it, and its registers, mode and context allow it; what its lanes hold may not (03 R84 orders 1 to 5). -/
structure Stands (i : Instr) (s : State) : Prop where
  place : s.cur.sp < s.spindles.length
  lanes : (s.spindle s.cur.sp).lanes.length = 32
  runs : s.execLanes (pfx i) ≠ 0#32
  eligible : ∀ l < 32, s.cur.lanes.getLsbD l = true → (s.lane s.cur.sp l).st = .eligible
  wellFormed : wf i = true
  registers : overVcount i (s.spindle s.cur.sp).vcount = false
  mode : needsPriv i = true → ∀ l < 32, (s.execLanes (pfx i)).getLsbD l = true → (s.lane s.cur.sp l).priv = true
  handler : handlerForbidden i = true → (s.spindle s.cur.sp).inHandler = false

/-- The lanes that execute word i in s. -/
def State.executing (s : State) (i : Instr) : LaneMask := s.execLanes (pfx i)

/-- What an instruction makes of the registers of its spindle: the words that each v register of an executing lane takes, the
predicate bits, the s registers, and what becomes of an executing lane that has moved on to the next word. `none` is 'as before'. -/
structure Result where
  v : Nat → Nat → Option Word := fun _ _ => none
  s : Nat → Option Word := fun _ => none
  p : Nat → Nat → Option Bool := fun _ _ => none
  lane : Nat → Lane → Lane := fun _ y => y

/-- Register d takes x; a d register takes its halves, lower first (01 R14). -/
def to32 (d : Reg) (x : Word) (r : Nat) : Option Word := if r = d.toNat then some x else none
def to64 (d : Reg) (x : DWord) (r : Nat) : Option Word :=
  if r = d.toNat then some (x.extractLsb' 0 32) else if r = d.toNat + 1 then some (x.extractLsb' 32 32) else none
/-- A v register, or a d register under `.64`. -/
def toVD (w64 : Bool) (d : Reg) (x : DWord) (r : Nat) : Option Word := if w64 then to64 d x r else to32 d (x.setWidth 32) r

/-- The spindle with its register files, register marks and lanes replaced. -/
def Spindle.put (sp : Spindle) (v s p : Cells 32) (marks : Cells 4) (ls : List Lane) : Spindle :=
  { sp with v := v, s := s, p := p, vpoison := marks, lanes := ls }

/-- Lane l of the fragment as it stands at the next word, n words on (03 R68). -/
def movedLane (s : State) (n l : Nat) : Lane := { s.lane s.cur.sp l with pc := s.cur.pc + BitVec.ofNat 64 (4 * n), stamp := s.clock.cycle }

/-- The state t is s after word i, of n words, made result r in its executing lanes: every register, predicate, mark and lane
that r does not name is as before, but that the fragment's lanes stand at the next word (03 R68), and nothing else has changed. That a mark of a
register line goes where a word writes the sector's eight lanes, and stands where it writes fewer, is log entry 17. -/
structure Computes (i : Instr) (n : Nat) (r : Result) (s t : State) : Prop where
  vregs : ∀ reg, ∀ l < 32, (t.spindle s.cur.sp).getV reg l =
    if (s.executing i).getLsbD l then (r.v reg l).getD ((s.spindle s.cur.sp).getV reg l) else (s.spindle s.cur.sp).getV reg l
  sregs : ∀ reg, (t.spindle s.cur.sp).getS reg = (r.s reg).getD ((s.spindle s.cur.sp).getS reg)
  preds : ∀ q < 7, ∀ l < 32, ((t.spindle s.cur.sp).pred q).getLsbD l =
    if (s.executing i).getLsbD l then (r.p q l).getD (((s.spindle s.cur.sp).pred q).getLsbD l) else ((s.spindle s.cur.sp).pred q).getLsbD l
  lane : ∀ l < 32, t.lane s.cur.sp l =
    if (s.executing i).getLsbD l then r.lane l (movedLane s n l) else if s.cur.lanes.getLsbD l then movedLane s n l else s.lane s.cur.sp l
  marks : ∀ reg, ∀ k < 4, (cellGet (t.spindle s.cur.sp).vpoison reg).getLsbD k =
    ((cellGet (s.spindle s.cur.sp).vpoison reg).getLsbD k &&
      !((writtenRegs i).contains reg && (s.executing i).extractLsb' (8 * k) 8 == 0xFF#8))
  frame : ∃ v sr p marks ls, t = s.modSp s.cur.sp (fun sp => sp.put v sr p marks ls)
  memory : t.mem = s.mem

-- What the register instructions compute, from the exact integers of 00 R12 (05 R107-R117)

/-- The moves and transfers into v and d registers, with their words (R107, R115-R117). -/
def moveResult (sp : Spindle) : Instr → Option (Nat × Result)
  | .mov _ d a => some (1, { v := fun r l => to32 d (sp.getV a.toNat l) r })
  | .movi _ d imm => some (1, { v := fun r _ => to32 d (BitVec.ofInt 32 imm.toInt) r })
  | .movl _ d false imm => some (2, { v := fun r _ => to32 d imm r })
  | .movl _ d true imm => some (2, { v := fun r _ => to64 d (BitVec.ofInt 64 imm.toInt) r })
  | .s2v _ d a => some (1, { v := fun r _ => to32 d (sp.getS a.toNat) r })
  | .s2v64 _ d a => some (1, { v := fun r _ => to64 d (sp.getSD a.toNat) r })
  | .sel _ d a b q w64 => some (2, { v := fun r l => toVD w64 d (sp.getVD w64 (if (sp.pred q.toNat).getLsbD l then a.toNat else b.toNat) l) r })
  | .lea _ d a b sh u off => some (2, { v := fun r l => to64 d (BitVec.ofInt 64
      ((sp.getD a.toNat l).toInt + (if u then ((sp.getV b.toNat l).toNat : Int) else (sp.getV b.toNat l).toInt) * 2 ^ sh.toNat + off.toInt)) r })
  | _ => none

/-- The two-source arithmetic and logic of R108, less `IADD64`: f(a, b). -/
def pairResult : Instr → Option (Reg × Reg × Reg × (Word → Word → Word))
  | .iadd _ d a b => some (d, a, b, fun x y => BitVec.ofInt 32 (x.toInt + y.toInt))
  | .isub _ d a b => some (d, a, b, fun x y => BitVec.ofInt 32 (x.toInt - y.toInt))
  | .imul _ d a b => some (d, a, b, fun x y => BitVec.ofInt 32 (x.toInt * y.toInt))
  | .imulh _ d a b => some (d, a, b, fun x y => (BitVec.ofInt 64 (x.toInt * y.toInt)).extractLsb' 32 32)
  | .imulhu _ d a b => some (d, a, b, fun x y => (BitVec.ofNat 64 (x.toNat * y.toNat)).extractLsb' 32 32)
  | .imin _ d a b => some (d, a, b, fun x y => BitVec.ofInt 32 (min x.toInt y.toInt))
  | .imax _ d a b => some (d, a, b, fun x y => BitVec.ofInt 32 (max x.toInt y.toInt))
  | .umin _ d a b => some (d, a, b, fun x y => BitVec.ofNat 32 (min x.toNat y.toNat))
  | .umax _ d a b => some (d, a, b, fun x y => BitVec.ofNat 32 (max x.toNat y.toNat))
  | .and _ d a b => some (d, a, b, fun x y => x &&& y)
  | .or _ d a b => some (d, a, b, fun x y => x ||| y)
  | .xor _ d a b => some (d, a, b, fun x y => x ^^^ y)
  | .andn _ d a b => some (d, a, b, fun x y => x &&& ~~~y)
  | .shl _ d a b => some (d, a, b, fun x n => if 32 ≤ n.toNat then 0#32 else BitVec.ofNat 32 (x.toNat * 2 ^ n.toNat))
  | .shr _ d a b => some (d, a, b, fun x n => if 32 ≤ n.toNat then 0#32 else BitVec.ofNat 32 (x.toNat / 2 ^ n.toNat))
  | .sar _ d a b => some (d, a, b, fun x n => BitVec.ofInt 32 (x.toInt / 2 ^ min n.toNat 31))
  | _ => none

/-- The one-source arithmetic: immediates, fields and counts, with their words (R109, R111, R112). -/
def soleResult : Instr → Option (Nat × Reg × Reg × (Word → Word))
  | .iaddi _ d a imm => some (1, d, a, fun x => BitVec.ofInt 32 (x.toInt + imm.toInt))
  | .shli _ d a n => some (1, d, a, fun x => BitVec.ofNat 32 (x.toNat * 2 ^ n.toNat))
  | .shri _ d a n => some (1, d, a, fun x => BitVec.ofNat 32 (x.toNat / 2 ^ n.toNat))
  | .sari _ d a n => some (1, d, a, fun x => BitVec.ofInt 32 (x.toInt / 2 ^ n.toNat))
  | .roti _ d a n => some (1, d, a, fun x => BitVec.ofNat 32 (x.toNat * 2 ^ n.toNat) ||| BitVec.ofNat 32 (x.toNat / 2 ^ (32 - n.toNat)))
  | .bfe _ d a true len pos => some (2, d, a, fun x => BitVec.ofNat 32 (x.toNat / 2 ^ pos.toNat % 2 ^ len.toNat))
  | .bfe _ d a false len pos => some (2, d, a, fun x => BitVec.ofInt 32 (BitVec.ofNat len.toNat (x.toNat / 2 ^ pos.toNat)).toInt)
  | .popc _ d a => some (1, d, a, fun x => x.cpop)
  | .clz _ d a => some (1, d, a, fun x => x.clz)
  | .ctz _ d a => some (1, d, a, fun x => x.ctz)
  | .brev _ d a => some (1, d, a, fun x => x.reverse)
  | _ => none

/-- The instructions with other shapes of operands: `IADD64`, `IMAD` and `BFI`, with their words (R108, R110, R112). -/
def mixedResult (sp : Spindle) : Instr → Option (Nat × Result)
  | .iadd64 _ d a b => some (1, { v := fun r l => to64 d (BitVec.ofInt 64 ((sp.getD a.toNat l).toInt + (sp.getD b.toNat l).toInt)) r })
  | .imad _ d a b cr u sat w64 =>
    let rd {w : Nat} (x : BitVec w) : Int := if u then (x.toNat : Int) else x.toInt
    let n := if w64 then 64 else 32
    let lo : Int := if u then 0 else -2 ^ (n - 1)
    let hi : Int := if u then 2 ^ n - 1 else 2 ^ (n - 1) - 1
    let exact (l : Nat) : Int := rd (sp.getV a.toNat l) * rd (sp.getV b.toNat l) + (if w64 then rd (sp.getD cr.toNat l) else rd (sp.getV cr.toNat l))
    some (2, { v := fun r l => toVD w64 d (BitVec.ofInt 64 (if sat then max lo (min hi (exact l)) else exact l)) r })
  | .bfi _ d a b len pos =>
    let m : Word := BitVec.ofNat 32 ((2 ^ len.toNat - 1) * 2 ^ pos.toNat)
    some (2, { v := fun r l => to32 d ((sp.getV a.toNat l &&& ~~~m) ||| (BitVec.ofNat 32 ((sp.getV b.toNat l).toNat * 2 ^ pos.toNat) &&& m)) r })
  | _ => none

/-- The comparison CMP of R113 over the exact integers. -/
def compares {w : Nat} (cmp : BitVec 4) (x y : BitVec w) : Bool :=
  match cmp.toNat with
  | 0 => x == y
  | 1 => x != y
  | 2 => decide (x.toInt < y.toInt)
  | 3 => decide (x.toInt ≤ y.toInt)
  | 4 => decide (y.toInt < x.toInt)
  | 5 => decide (y.toInt ≤ x.toInt)
  | 6 => decide (x.toNat < y.toNat)
  | 7 => decide (x.toNat ≤ y.toNat)
  | 8 => decide (y.toNat < x.toNat)
  | 9 => decide (y.toNat ≤ x.toNat)
  | _ => false

/-- A predicate and its complement (R113, R114). -/
def predPair (d : Reg) (e : BitVec 3) (b : Bool) (q : Nat) : Option Bool := if q = d.toNat then some b else if q = e.toNat then some !b else none
def toPred (d : Reg) (b : Bool) (q : Nat) : Option Bool := if q = d.toNat then some b else none

/-- The instructions that write predicates, or a mask of lanes, from comparisons and votes, with their words (R113, R114; 07 R177): x
holds the executing lanes. -/
def predResult (sp : Spindle) (x : LaneMask) : Instr → Option (Nat × Result)
  | .icmp _ d a b cmp w64 imm q bop e =>
    let t (l : Nat) : Bool :=
      if w64 then compares cmp (sp.getD a.toNat l) (if imm then BitVec.ofInt 64 b.toInt else sp.getD b.toNat l)
      else compares cmp (sp.getV a.toNat l) (if imm then BitVec.ofInt 32 b.toInt else sp.getV b.toNat l)
    let c (l : Nat) : Bool := (sp.pred q.toNat).getLsbD l
    some (2, { p := fun q l => predPair d e (if bop = 0#2 then t l && c l else if bop = 1#2 then t l || c l else t l ^^ c l) q })
  | .pbool _ d a b cp e lut =>
    some (2, { p := fun q l => predPair d e (lut.getLsbD (((sp.pred a.toNat).getLsbD l).toNat + 2 * ((sp.pred b.toNat).getLsbD l).toNat +
      4 * ((sp.pred cp.toNat).getLsbD l).toNat)) q })
  | .pollAll _ d a => some (1, { p := fun q _ => toPred d (x &&& sp.pred a.toNat == x) q })
  | .pollAny _ d a => some (1, { p := fun q _ => toPred d (x &&& sp.pred a.toNat != 0#32) q })
  | .pollSame _ d a => some (1, { p := fun q _ => toPred d (x &&& sp.pred a.toNat == 0#32 || x &&& sp.pred a.toNat == x) q })
  | .pollMask _ d a => some (1, { v := fun r _ => to32 d (x &&& sp.pred a.toNat) r })
  | _ => none

/-- The instructions that write s registers once for the spindle (R117, 01 R16). -/
def scalarResult (sp : Spindle) (x : LaneMask) : Instr → Option (Nat × Result)
  | .v2s _ d a => some (1, { s := to32 d (sp.getV a.toNat (lowestLane x)) })
  | .smovl _ d a => some (1, { s := to64 d (sp.getSD a.toNat) })
  | .v2s64 _ d a => some (1, { s := to64 d (sp.getD a.toNat (lowestLane x)) })
  | _ => none

-- What the floating-point instructions compute (06 R127-R146), over the arithmetic of 02 R49-R56

/-- A result in a format's register kind (06 R127). -/
def toF (f : Fmt) (d : Reg) (x : Nat) (r : Nat) : Option Word := if f.w = 64 then to64 d (BitVec.ofNat 64 x) r else to32 d (BitVec.ofNat 32 x) r

/-- A per-lane answer with its flags, in format f. -/
def fResult (f : Fmt) (d : Reg) (g : Nat → FpAns) : Result := { v := fun r l => toF f d (g l).1 r, lane := fun l y => y.orFlags (g l).2 }

/-- The F-pipe arithmetic, conversions and MX decoding, with their words (06 R131-R139, R142). -/
def floatResult (sp : Spindle) : Instr → Option (Nat × Result)
  | .fadd _ d a b => some (1, fResult fmt32 d (fun l => fmt32.add sp.ftz .rne (sp.getF fmt32 a l) (sp.getF fmt32 b l)))
  | .fsub _ d a b => some (1, fResult fmt32 d (fun l => fmt32.add sp.ftz .rne (sp.getF fmt32 a l) (sp.getF fmt32 b l).flip))
  | .fmul _ d a b => some (1, fResult fmt32 d (fun l => fmt32.mul sp.ftz .rne (sp.getF fmt32 a l) (sp.getF fmt32 b l)))
  | .ffma _ d a b cr rm => some (2, fResult fmt32 d (fun l =>
      fmt32.fma sp.ftz (modeOf rm) (sp.getF fmt32 a l) (sp.getF fmt32 b l) (sp.getF fmt32 cr l)))
  | .fmin _ d a b => some (1, fResult fmt32 d (fun l => fmt32.minmax false (sp.getF fmt32 a l) (sp.getF fmt32 b l)))
  | .fmax _ d a b => some (1, fResult fmt32 d (fun l => fmt32.minmax true (sp.getF fmt32 a l) (sp.getF fmt32 b l)))
  | .fopx _ d a b cr opn fmt rm => some (2, fResult (fmtOf fmt) d (fun l =>
      fopxAns opn (fmtOf fmt) sp.ftz (modeOf rm) (sp.getF (fmtOf fmt) a l) (sp.getF (fmtOf fmt) b l) (sp.getF (fmtOf fmt) cr l)))
  | .i2f _ d a fmt u w64 rm => some (2, fResult (fmtOf (lo2 fmt)) d (fun l =>
      (fmtOf (lo2 fmt)).ofInt sp.ftz (modeOf rm) (if w64 then readInt u (sp.getD a.toNat l) else readInt u (sp.getV a.toNat l))))
  | .f2i _ d a fmt u w64 rm =>
    let g (l : Nat) := toInteger (if w64 then 64 else 32) u (modeOf rm) (sp.getF (fmtOf (lo2 fmt)) a l)
    some (2, { v := fun r l => toVD w64 d (BitVec.ofInt 64 (g l).1) r, lane := fun l y => y.orFlags (g l).2 })
  | .fabs _ d a fmt =>
    let x (l : Nat) := sp.getF (fmtOf fmt) a l
    some (1, fResult (fmtOf fmt) d (fun l => ((fmtOf fmt).write (if (x l).neg then (x l).flip else x l), flagIf (x l).sig fNv)))
  | .fneg _ d a fmt =>
    let x (l : Nat) := sp.getF (fmtOf fmt) a l
    some (1, fResult (fmtOf fmt) d (fun l => ((fmtOf fmt).write (x l).flip, flagIf (x l).sig fNv)))
  | .fclass _ d a fmt => some (1, fResult fmt32 d (fun l => (fmtOf fmt).classOf (sp.getF (fmtOf fmt) a l)))
  | .rint _ d a rm fmt => some (1, fResult (fmtOf fmt) d (fun l => (fmtOf fmt).rint (modeOf rm) (sp.getF (fmtOf fmt) a l)))
  | .hfma2 _ d a b cr rm bf =>
    let g (l : Nat) := hfma2Ans (if bf then fmtB16 else fmt16) sp.ftz (modeOf rm) (sp.getV a.toNat l) (sp.getV b.toNat l) (sp.getV cr.toNat l)
    some (2, { v := fun r l => to32 d (g l).1 r, lane := fun l y => y.orFlags (g l).2 })
  | .fcvt _ d a sfmt dfmt rm =>
    let g (l : Nat) := srStep (sp.lane l).rng
    let y (l : Nat) := (fmtOf (lo2 dfmt)).conv sp.ftz (if rm = 4#3 then .sr (g l) else modeOf rm) (sp.getF (fmtOf (lo2 sfmt)) a l)
    some (2, { v := fun r l => toF (fmtOf (lo2 dfmt)) d (y l).1 r,
               lane := fun l z => { z with fpflags := z.fpflags ||| (y l).2, rng := if rm = 4#3 then g l else z.rng } })
  | .mxdq _ d a b fmtc dfmt rm =>
    let e := sp.getS b.toNat
    let sel := (e.extractLsb' 8 8).toNat
    if selAssigned sel && sel / 16 == fmtc.toNat - 8 then
      some (2, fResult (fmtOf dfmt) d (fun l =>
        (fmtOf dfmt).conv sp.ftz (modeOf rm) (mxValue (e.extractLsb' 0 8).toNat sel (sp.getV a.toNat l).toNat)))
    else none
  | _ => none

/-- `FCMP` and `MXQ`: flags beside predicates and an s register (06 R136, R140, R141). -/
def floatSideResult (sp : Spindle) (x : LaneMask) : Instr → Option (Nat × Result)
  | .fcmp _ d a b cmp fmt q bop e =>
    let g (l : Nat) := fcmpHolds cmp (sp.getF (fmtOf fmt) a l) (sp.getF (fmtOf fmt) b l)
    let c (l : Nat) : Bool := (sp.pred q.toNat).getLsbD l
    some (2, { p := fun q l => predPair d e (if bop = 0#2 then (g l).1 && c l else if bop = 1#2 then (g l).1 || c l else (g l).1 ^^ c l) q,
               lane := fun l z => { z with fpflags := z.fpflags ||| (if (g l).2 then fNv else 0#6) } })
  | .mxq _ d a b sel rm =>
    let sc := mxqScale sel.toNat ((lanesOf x).map (fun l => sp.getF fmt32 a l))
    let g (l : Nat) := srStep (sp.lane l).rng
    let y (l : Nat) := mxqElem sel.toNat sc (if rm = 4#3 then .sr (g l) else modeOf rm) (sp.getF fmt32 a l)
    some (2, { v := fun r l => to32 d (BitVec.ofNat 32 (y l).1) r, s := to32 b (BitVec.ofNat 32 (sel.toNat * 256 + sc)), 
               lane := fun l z => { z with fpflags := z.fpflags ||| (y l).2, rng := if rm = 4#3 then g l else z.rng } })
  | _ => none

-- Operations that complete later (03 R75, R76)

/-- The clause of the issuing word names flag f for its class (FA for flag A), the words that say so are at hand in the fetch path,
and the flag's count leaves room (03 R75, R77; 01 R17). -/
def ChargesFlag (s : State) (n : Nat) (isA : Bool) (f : Nat) : Prop :=
  ∃ h a, clauseFlags (s.advance n) s.cur.sp s.cur.pc = (s.advance n, .word h, a) ∧ (if isA then faOf h else fbOf h) = f ∧ f ≤ 11 ∧
    (s.spindle s.cur.sp).flag f ≠ 63#6

/-- The state t is s after word i, of n words, started a flag-A operation under flag f that will write result r: the count of f has
risen by one, the executing lanes are as r says, BANKCONF reads `bank`, memory is m, and nothing else has changed (03 R75, R76). -/
structure Pends (i : Instr) (n f : Nat) (r : Result) (bank : Word) (m : MemSys) (s t : State) : Prop where
  lane : ∀ l < 32, t.lane s.cur.sp l =
    if (s.executing i).getLsbD l then r.lane l (movedLane s n l) else if s.cur.lanes.getLsbD l then movedLane s n l else s.lane s.cur.sp l
  frame : ∃ ls op, t = { (s.modSp s.cur.sp (fun sp => { sp with bankconf := bank, lanes := ls }.setFlag f (sp.flag f + 1#6))) with
      mem := m, ops := s.ops ++ [op], nextId := s.nextId + 1 } ∧
    op.id = s.nextId ∧ op.sp = s.cur.sp ∧ op.flag = f ∧ op.lanes = s.executing i ∧
    (∀ (sp : Spindle) reg, ∀ l < 32, (sp.setVs op.writes).getV reg l =
      if (s.executing i).getLsbD l then (r.v reg l).getD (sp.getV reg l) else sp.getV reg l) ∧
    (∀ q l b, (q, l, b) ∈ op.pwrites ↔ l < 32 ∧ (s.executing i).getLsbD l = true ∧ r.p q l = some b)

/-- The S-pipe arithmetic and the lane exchange, with their words (06 R143-R146; 07 R176). -/
def longResult (sp : Spindle) (x : LaneMask) : Instr → Option (Nat × Result)
  | .fdiv _ d a b fmt rm => some (2, fResult (fmtOf fmt) d (fun l => (fmtOf fmt).div sp.ftz (modeOf rm) (sp.getF (fmtOf fmt) a l) (sp.getF (fmtOf fmt) b l)))
  | .fsqrt _ d a fmt rm => some (2, fResult (fmtOf fmt) d (fun l => (fmtOf fmt).sqrt sp.ftz (modeOf rm) (sp.getF (fmtOf fmt) a l)))
  | .frsq _ d a fmt rm => some (2, fResult (fmtOf fmt) d (fun l => (fmtOf fmt).rsq sp.ftz (modeOf rm) (sp.getF (fmtOf fmt) a l)))
  | .fex2 _ d a => some (1, fResult fmt32 d (fun l => fexp2 sp.ftz (sp.getF fmt32 a l)))
  | .flg2 _ d a => some (1, fResult fmt32 d (fun l => flog2 sp.ftz (sp.getF fmt32 a l)))
  | .idiv _ d a b e hase u w64 =>
    let g (l : Nat) := idivAns (if w64 then 64 else 32) u (sp.getVD w64 a.toNat l).toNat (sp.getVD w64 b.toNat l).toNat
    some (2, { v := fun r l => match toVD w64 d (BitVec.ofNat 64 (g l).1) r with
      | some w => some w
      | none => if hase then toVD w64 e (BitVec.ofNat 64 (g l).2) r else none })
  | .shfl _ d a b =>
    let src (l : Nat) : Nat := (sp.getV b.toNat l).toNat % 32
    some (1, { v := fun r l => to32 d (sp.getV a.toNat (if x.getLsbD (src l) then src l else l)) r })
  | _ => none

-- Traps that become pending (00 R12 `fault`, 11 R268, 12 R297)

/-- Lane l as a fault with this cause, code, address and RIGHTS leaves it: parked at its word with a record and a pending trap. -/
def parkedLane (s : State) (n l : Nat) (cause : BitVec 8) (code : BitVec 7) (addr : DWord) : Lane :=
  { movedLane s n l with
    st := .parked, pc := s.cur.pc, page := none, pendingTrap := true, tcause := cause.setWidth 9, tcode := code,
    record := some { cause := cause, defer := false, pending := true, chained := s.cur.chained, acc := 0#5, wpart := (s.spindle s.cur.sp).wpartOf l,
                     rights := 0#16, pc := s.cur.pc, addr := addr, tissue := s.clock.ns, tdetect := s.clock.ns } }

/-- The state u is s after the lanes x of the fragment took a fault, before the reconvergence barriers are evaluated: no register, no
memory and nothing outside the spindle's lanes has changed. -/
structure Parks (x : LaneMask) (n : Nat) (cause : BitVec 8) (code : BitVec 7) (addr : DWord) (s u : State) : Prop where
  lane : ∀ l < 32, u.lane s.cur.sp l =
    if x.getLsbD l then parkedLane s n l cause code addr else if s.cur.lanes.getLsbD l then movedLane s n l else s.lane s.cur.sp l
  frame : ∃ ls, u = s.modSp s.cur.sp (fun sp => { sp with lanes := ls })

/-- The lanes x can take a fault of their own: no handler runs (11 R273), the spindle has not ended, and none of them runs an ordered
thread's transaction (14 R332). -/
structure CanFault (x : LaneMask) (s : State) : Prop where
  handler : (s.spindle s.cur.sp).trapped = none
  alive : (s.spindle s.cur.sp).st ≠ .ended
  ordered : ∀ l < 32, x.getLsbD l = true → ((s.lane s.cur.sp l).tx && (s.lane s.cur.sp l).spec) = false

/-- A parked lane whose record says what its access was and what was found of the page (12 R297). -/
def accessParked (s : State) (n l : Nat) (cause : BitVec 8) (addr : DWord) (acc : BitVec 5) (rights : BitVec 16) : Lane :=
  { parkedLane s n l cause 0#7 addr with
    record := (parkedLane s n l cause 0#7 addr).record.map (fun r => { r with acc := acc, rights := rights }) }

/-- The state u is s after the accesses of lanes x failed, each with its cause, address and RIGHTS. -/
structure ParksAt (x : LaneMask) (n : Nat) (acc : BitVec 5) (cause : Nat → BitVec 8) (addr : Nat → DWord) (rights : Nat → BitVec 16) (s u : State) : Prop where
  lane : ∀ l < 32, u.lane s.cur.sp l =
    if x.getLsbD l then accessParked s n l (cause l) (addr l) acc (rights l) else if s.cur.lanes.getLsbD l then movedLane s n l else s.lane s.cur.sp l
  frame : ∃ ls, u = s.modSp s.cur.sp (fun sp => { sp with lanes := ls })

-- Control transfers (05 R118-R120)

/-- A branch target whose packet starts with a header that the issuing core holds in its rights cache and its instruction cache. -/
structure TargetHeld (s : State) (t : DWord) : Prop where
  packet : t.toNat % 12 = 0
  form : canonical t = true
  rights : ∃ e, rightsFind s.mem (s.who s.cur.sp).core (eaOf (s.who s.cur.sp).asid t) (pageOf t) = some e ∧ leafX e.leaf = true
  header : ∃ c, icFind s.mem (s.who s.cur.sp).core (eaOf (s.who s.cur.sp).asid t) (lnOf t) = some c ∧
    c.poison &&& sectorMask (offOf t) 4 = 0#4 ∧ isHeader (BitVec.ofNat 32 (lineBytesGet c.data (offOf t) 4)) = true

/-- The target of a transfer in each lane, and the register that takes the return address (R119, R120). -/
def transferTarget (s : State) : Instr → Option ((Nat → DWord) × Option Reg)
  | .bra _ off => some (fun _ => BitVec.ofInt 64 ((s.cur.pc.toNat - s.cur.pc.toNat % 12 : Int) + 12 * off.toInt), none)
  | .brx _ a => some (fun l => (s.spindle s.cur.sp).getD a.toNat l, none)
  | .call _ off => some (fun _ => BitVec.ofInt 64 ((s.cur.pc.toNat - s.cur.pc.toNat % 12 : Int) + 12 * off.toInt), some 14#7)
  | .callx _ d a => some (fun l => (s.spindle s.cur.sp).getD a.toNat l, some d)
  | .ret _ a => some (fun l => (s.spindle s.cur.sp).getD a.toNat l, none)
  | _ => none

/-- The return address of the issuing word: the packet after its own (R120). -/
def returnAddress (s : State) : DWord := BitVec.ofNat 64 (s.cur.pc.toNat - s.cur.pc.toNat % 12 + 12)

-- Control (03 R74; 05 R122-R126; 11 R275)

/-- The state t is s with only lanes of the issuing spindle changed, each as g says. -/
structure Touches (g : Nat → Lane → Lane) (s t : State) : Prop where
  lane : ∀ l < 32, t.lane s.cur.sp l = g l (s.lane s.cur.sp l)
  frame : ∃ ls, t = s.modSp s.cur.sp (fun sp => { sp with lanes := ls })

/-- Lanes of the fragment become as g says; the others stay. -/
def inFragment (s : State) (g : Nat → Lane → Lane) (l : Nat) (y : Lane) : Lane := if s.cur.lanes.getLsbD l then g l y else y

/-- A flag named in a header's WAIT field is not clear (03 R74). -/
def Waits (s : State) (wait : BitVec 12) : Prop := ∃ n < 12, wait.getLsbD n = true ∧ (s.spindle s.cur.sp).flag n ≠ 0#6

/-- Words that are no header and not the zero word: those that act in `exec_lanes()` (00 R11, 03 R83). -/
def guarded : Instr → Bool
  | .clauseHeader .. => false
  | .zeroWord => false
  | i => !(encode i).isEmpty

/-- An exited lane (05 R122). -/
def exitedLane (s : State) (y : Lane) : Lane :=
  { y with st := .exited, pc := s.cur.pc, tx := false, txn := none, restart := false, serial := false, record := none, monitor := none, rel := none }

/-- The domain word of the issuing spindle's ordered threads lies on a device-coherent or system-coherent page, and the core's rights cache holds its
leaf (14 R336). -/
structure DomainGood (s : State) : Prop where
  form : canonical (s.spindle s.cur.sp).domain = true
  leaf : ∃ x, rightsFind s.mem (s.who s.cur.sp).core (eaOf (s.who s.cur.sp).asid (s.spindle s.cur.sp).domain) (pageOf (s.spindle s.cur.sp).domain) = some x ∧
    leafClass x.leaf ≠ 0

/-- Lane l waits at its `EXIT` for the token of its domain (14 R338). -/
def atCommit (s : State) (l : Nat) : Lane := { movedLane s 1 l with st := .held .token, pc := s.cur.pc }

/-- Barrier n of the issuing spindle alone has changed: its participants, arrivals and PARKOK are as given (05 R124). -/
structure SetsBarrier (n : Nat) (part arr : LaneMask) (park : Bool) (sp sp' : Spindle) : Prop where
  part : ∀ k, sp'.wParticipants k = if k = n then part else sp.wParticipants k
  arr : ∀ k, sp'.wArrived k = if k = n then arr else sp.wArrived k
  park : ∀ k < 8, sp'.wpark.getLsbD k = if k = n then park else sp.wpark.getLsbD k
  rest : ∃ a b c, sp' = { sp with wpart := a, warr := b, wpark := c }

/-- Every participant of barrier n has arrived, exited, or parked where PARKOK lets it (05 R124). -/
def Complete (s : State) (i n : Nat) : Prop :=
  ∀ l < 32, ((s.spindle i).wParticipants n).getLsbD l = true →
    ((s.spindle i).wArrived n).getLsbD l = true ∨ (s.lane i l).st = .exited ∨ ((s.lane i l).st = .parked ∧ (s.spindle i).wpark.getLsbD n = true)

-- Memory (07 R147-R175; 13 R303-R306)

/-- The core and context of the issuing spindle. -/
def State.me (s : State) : Who := s.who s.cur.sp
def State.eaAt (s : State) (va : DWord) : Nat := eaOf s.me.asid va

/-- The lane's access of n bytes at va that needs nd passes the checks of 07 R147 and R148 with leaf e, which the core's rights
cache holds (18 R389); a page that a move keeps from writes is none for a write (18 R407). -/
structure Allowed (s : State) (va : DWord) (n : Nat) (nd : Need) (e : DWord) : Prop where
  aligned : va.toNat % n = 0
  form : canonical va = true
  leaf : ∃ x, rightsFind s.mem s.me.core (s.eaAt va) (pageOf va) = some x ∧ x.leaf = e
  read : nd.r = true → leafR e = true
  write : nd.w = true → leafW e = true ∧ leafLock e = false ∧ sealedPage s.mem (s.eaAt va) (pageOf va) = false ∧ moving s (s.eaAt va) (pageOf va) = false
  fetch : nd.x = true → leafX e = true

def needR : Need := { r := true, w := false, x := false }
def needW : Need := { r := false, w := true, x := false }
def needRW : Need := { r := true, w := true, x := false }

/-- The first check of 07 R147 and R148 that an access of n bytes at va fails, for a page that the core's rights cache holds where a leaf is looked
at: its cause and the RIGHTS field of the record (12 R297). `tx`: the lane's access is one of a transaction, which a non-coherent page does not
allow (14 R326). -/
inductive Refused (s : State) (va : DWord) (n : Nat) (nd : Need) (tx : Bool) : BitVec 8 → BitVec 16 → Prop where
  | misaligned : va.toNat % n ≠ 0 → Refused s va n nd tx 0x08#8 0#16
  | form : va.toNat % n = 0 → canonical va = false → Refused s va n nd tx 0x09#8 (rightsField none nd false false)
  | rights (x : LeafEntry) : va.toNat % n = 0 → canonical va = true → rightsFind s.mem s.me.core (s.eaAt va) (pageOf va) = some x →
      ((nd.r = true ∧ leafR x.leaf = false) ∨ (nd.w = true ∧ (leafW x.leaf = false ∨ sealedPage s.mem (s.eaAt va) (pageOf va) = true))) →
      Refused s va n nd tx 0x09#8 (rightsField (some x.leaf) nd (sealedPage s.mem (s.eaAt va) (pageOf va)) false)
  | noTransaction (e : DWord) : Allowed s va n nd e → tx = true → leafClass e = 0 →
      Refused s va n nd tx 0x0A#8 (rightsField (some e) nd (sealedPage s.mem (s.eaAt va) (pageOf va)) false)

/-- The core's L1 serves a read of n bytes at va under effective lease class lc from `line`, without poison (07 R155, 13 R306). -/
def ServedByL1 (s : State) (va : DWord) (n lc : Nat) (line : Line) : Prop :=
  ∃ x, l1Find s.mem s.me.core (s.eaAt va) (lnOf va) = some x ∧ x.line = line ∧ byteMask (offOf va) n &&& ~~~line.valid = 0#128 ∧
    (x.owned = true ∨ byteMask (offOf va) n &&& ~~~line.dirty = 0#128 ∨ (x.serves s.clock.ns = true ∧ lc ≠ 0)) ∧
    marksHit line (byteMask (offOf va) n) = 0#4

/-- The registers that a load of 2^sz bytes with value x writes (07 R153). -/
def loaded (d : Reg) (sz : Nat) (sx : Bool) (x : Nat) (r : Nat) : Option Word :=
  if sz < 3 then to32 d (if sx then BitVec.ofInt 32 (BitVec.ofNat (8 * 2 ^ sz) x).toInt else BitVec.ofNat 32 x) r
  else if d.toNat ≤ r ∧ r < d.toNat + 2 ^ (sz - 2) then some (BitVec.ofNat 32 (x / 2 ^ (32 * (r - d.toNat)))) else none

/-- The answer of the highest lane of x that has one. -/
def lastLane {α : Type} (x : LaneMask) (f : Nat → Option α) : Option α :=
  (lanesOf x).foldl (fun a l => match f l with
    | some v => some v
    | none => a) none

/-- A byte as a core's copy of a line holds it, and whether it is dirty there. -/
def copyByte (l1 : List L1Line) (core ea ln b : Nat) : Option (Byte × Bool) :=
  match l1.find? (fun x => x.core == core && x.ea == ea && x.ln == ln) with
  | none => none
  | some x => if x.line.valid.getLsbD b then some (x.line.data.extractLsb' (8 * b) 8, x.line.dirty.getLsbD b) else none

/-- The byte that a store of n bytes of v at va puts at byte b of line (ea, ln), if any (00 R6). -/
def storedByte (s : State) (va : DWord) (n v ea ln b : Nat) : Option Byte :=
  if s.eaAt va = ea ∧ lnOf va = ln ∧ offOf va ≤ b ∧ b < offOf va + n then some (BitVec.ofNat 8 (v / 2 ^ (8 * (b - offOf va)))) else none

/-- The core may put bytes into its L1 at va without asking a home: the page is non-coherent and a copy there serves reads or holds the
core's own bytes alone, or the core owns the line for its team (13 R303, R306). -/
def WritesInL1 (s : State) (va : DWord) (e : DWord) : Prop :=
  (leafClass e = 0 ∧ ∀ x, l1Find s.mem s.me.core (s.eaAt va) (lnOf va) = some x → x.serves s.clock.ns = true ∨ x = x.ownOnly) ∨
  (leafClass e ≠ 0 ∧ ∃ x, l1Find s.mem s.me.core (s.eaAt va) (lnOf va) = some x ∧ x.owned = true ∧ x.oteam = s.me.team)

/-- Only memory and the marks of rollback intervals have changed; the rights that cores hold stay. -/
structure MemoryOnly (s t : State) : Prop where
  frame : ∃ m ts, t = { s with mem := m, teams := ts }
  count : t.teams.length = s.teams.length
  teams : ∀ k, ({ t.team k with ineligible := false } : Team) = { s.team k with ineligible := false }
  rights : ∀ core ea page x, rightsFind s.mem core ea page = some x → rightsFind t.mem core ea page = some x
  seals : t.mem.seals = s.mem.seals
  wf : Memory.wf s.mem.phys → Memory.wf t.mem.phys

/-- The key of a lane's scratchpad access of n bytes: aligned, inside the share or the cluster, and without poison (07 R157, R158). -/
def scratchAt (s : State) (a : Word) (n : Nat) (k : Nat) : Prop :=
  a.toNat % n = 0 ∧ scratchKey (s.teamOf s.cur.sp) (s.spindle s.cur.sp) a = some k

/-- A line that stands at its home with the bytes of an access of n bytes at va, that no L1 owns, no interval tags, no commit holds, no
mark meets and the core has no copy of; the host caches nothing, and the dies' links are up. -/
structure AtHome (s : State) (va : DWord) (n : Nat) : Prop where
  home : ∃ h, homeFind s.mem (s.eaAt va) (lnOf va) = some h ∧ byteMask (offOf va) n &&& ~~~h.line.valid = 0#128 ∧ h.owner = none ∧ h.undo = [] ∧
    marksHit h.line (byteMask (offOf va) n) = 0#4
  copy : l1Find s.mem s.me.core (s.eaAt va) (lnOf va) = none
  host : s.mem.hostHeld = []
  links : s.links.down = []
  free : locked s (s.eaAt va) (lnOf va) = false

/-- An ordered access finds no bound regions: `.spin` scope, no order, or no binding table (07 R164-R168). -/
def NoRegions (s : State) (scope : BitVec 3) (ordered : Bool) : Prop :=
  scope = 0#3 ∨ ordered = false ∨ (s.partOf s.cur.sp).bindtab &&& ~~~0xFFF#64 = 0#64

/-- The bytes of every line at its home. -/
def homeBytes (m : MemSys) (ea ln : Nat) : Option (BitVec 1024) := (homeFind m ea ln).map (fun h => h.line.data)

/-- The new value of an atomic of w bits (07 R160). -/
def atomicValue {w : Nat} (f : Fmt) (aop : BitVec 5) (o b c : BitVec w) : BitVec w :=
  match aop.toNat with
  | 0 => BitVec.ofInt w (o.toInt + b.toInt)
  | 1 => o &&& b
  | 2 => o ||| b
  | 3 => o ^^^ b
  | 4 => BitVec.ofInt w (min o.toInt b.toInt)
  | 5 => BitVec.ofInt w (max o.toInt b.toInt)
  | 6 => BitVec.ofNat w (min o.toNat b.toNat)
  | 7 => BitVec.ofNat w (max o.toNat b.toNat)
  | 8 => b
  | 9 => if o = c then b else o
  | 10 => BitVec.ofNat w (f.add false .rne (f.read false o.toNat) (f.read false b.toNat)).1
  | 11 => BitVec.ofNat w (f.minmax false (f.read false o.toNat) (f.read false b.toNat)).1
  | _ => BitVec.ofNat w (f.minmax true (f.read false o.toNat) (f.read false b.toNat)).1

/-- Atomics of lanes in ascending order on the bytes of lines: the bytes after them, and the old value of each lane (00 R11, 07 R161). -/
def atomics (at' : Nat → Nat × Nat × Nat) (n : Nat) (new : Nat → Nat → Nat) (ls : List Nat) (m : Nat → Nat → Option (BitVec 1024)) :
    (Nat → Nat → Option (BitVec 1024)) × (Nat → Nat) :=
  ls.foldl (fun r l =>
    let (ea, ln, off) := at' l
    let o := lineBytesGet ((r.1 ea ln).getD 0#1024) off n
    (fun e k => if e = ea ∧ k = ln then (r.1 e k).map (fun d => lineBytesSet d off n (new l o)) else r.1 e k, fun k => if k = l then o else r.2 k)) (m, fun _ => 0)

/-- The atomic instructions with their words' fields: A, offset, bytes, scope, order, new values and results (07 R160-R163). -/
structure AtomForm where
  a : Reg
  off : BitVec 14
  n : Nat
  scope : BitVec 3
  ord : BitVec 2
  new : Nat → Nat → Nat
  res : Nat → Nat → Nat → Option Word
  pred : Nat → Nat → Nat → Option Bool

def atomForm (sp : Spindle) : Instr → Option AtomForm
  | .atom _ d a b aop w64 ord scope cr off =>
    some { a := a, off := off, n := if w64 then 8 else 4, scope := scope, ord := ord,
           new := fun l o => if w64 then (atomicValue fmt64 aop (BitVec.ofNat 64 o) (sp.getD b.toNat l) (sp.getD cr.toNat l)).toNat
             else (atomicValue fmt32 aop (BitVec.ofNat 32 o) (sp.getV b.toNat l) (sp.getV cr.toNat l)).toNat,
           res := fun _ o r => toVD w64 d (BitVec.ofNat 64 o) r, pred := fun _ _ _ => none }
  | .red _ a b aop w64 ord scope off =>
    some { a := a, off := off, n := if w64 then 8 else 4, scope := scope, ord := ord,
           new := fun l o => if w64 then (atomicValue fmt64 aop (BitVec.ofNat 64 o) (sp.getD b.toNat l) 0#64).toNat
             else (atomicValue fmt32 aop (BitVec.ofNat 32 o) (sp.getV b.toNat l) 0#32).toNat,
           res := fun _ _ _ => none, pred := fun _ _ _ => none }
  | .cas128 _ d a b cr sd ord scope off =>
    some { a := a, off := off, n := 16, scope := scope, ord := ord,
           new := fun l o => if BitVec.ofNat 128 o = sp.getQ cr.toNat l then (sp.getQ b.toNat l).toNat else o,
           res := fun _ o r => if d.toNat ≤ r ∧ r < d.toNat + 4 then some (BitVec.ofNat 32 (o / 2 ^ (32 * (r - d.toNat)))) else none,
           pred := fun l o q => if q = sd.toNat then some (decide (BitVec.ofNat 128 o = sp.getQ cr.toNat l)) else none }
  | _ => none

/-- A lane y, at the next word, after an instruction of n words that holds its spindle: held at the word, or, in the middle of a chain, gone on with
the instruction complete (07 R151; 03 R71). -/
def heldLane (s : State) (n : Nat) (y : Lane) : Lane := if s.cur.more then y else { y with st := .held (.completing n), pc := s.cur.pc }

/-- The end of the issue of such an instruction: where its lanes are held, they have left the fragment, and the reconvergence barriers are looked at. -/
def settled (s u : State) : State := if s.cur.more then u else rcvEvalAll u s.cur.sp

/-- The watch that a waiting lane keeps (07 R169). -/
def watchOf (s : State) (va : DWord) (cmp : BitVec 4) (w64 acq : Bool) (scope : BitVec 3) (operand : DWord) (d : Reg) : Monitor :=
  { ea := s.eaAt va, va := va, cmp := cmp, w64 := w64, operand := operand, acq := acq, scope := scope, dest := d.toNat, tissue := s.clock.ns, counted := false }

/-- The address in page k of a range that starts at va (07 R172). -/
def pageAt (va : DWord) (k : Nat) : DWord := if k = 0 then va else BitVec.ofNat 64 ((va.toNat / 4096 + k) * 4096)

/-- Dirty data of a line stands in an L1, in a deferred store buffer or at its home (07 R173). -/
def dirtyLine (s : State) (ea ln : Nat) : Bool :=
  s.mem.l1.any (fun x => x.ea == ea && x.ln == ln && x.line.dirty != 0#128) || s.mem.buf.any (fun x => x.ea == ea && x.ln == ln && x.line.dirty != 0#128) ||
    (homeFind s.mem ea ln).any (fun h => h.line.dirty != 0#128)

/-- Every page that n bytes at va touch has the rights. -/
def PagesAllowed (s : State) (va : DWord) (n : Nat) (nd : Need) : Prop := ∀ k < pagesIn va n, ∃ e, Allowed s (pageAt va k) 1 nd e

/-- The state t is w, of the same spindle and flags as s, with one flag-A operation more under flag f for lanes x (03 R75). -/
def started (s w : State) (f : Nat) (x : LaneMask) (writes : List (Nat × Word)) : State :=
  { w.modSp s.cur.sp (fun sp => sp.setFlag f (sp.flag f + 1#6)) with
    ops := s.ops ++ [{ id := s.nextId, sp := s.cur.sp, flag := f, lanes := x, writes := writes, pwrites := [], second := [] }], nextId := s.nextId + 1 }

/-- The lanes x of the issuing spindle are held at its word of n words. -/
def held (s w : State) (n : Nat) (x : LaneMask) : State := w.modLanes s.cur.sp x (fun _ y => heldLane s n y)

-- Barriers (07 R178-R181)

/-- The spindles that take part in the team barrier: dispatched, of the launch's own indices and not ended (07 R178; 05 R123). -/
def State.members (s : State) (t : Nat) : List Nat := (s.liveSpindles t).filter (fun i => decide ((s.spindle i).idx < 512))

/-- The spindle has arrived at a barrier or a group, or will when it is looked at: every live lane is held there. -/
def Spindle.standsAt (sp : Spindle) (h : Hold) : Bool := sp.hasArrived h || (sp.barred.isNone && sp.arrival == some h)

/-- With word i every live lane of the issuing spindle comes to be held so. -/
structure CompletesArrival (i : Instr) (h : Hold) (s : State) : Prop where
  free : (s.spindle s.cur.sp).barred = none
  lanes : ∀ l < 32, (s.lane s.cur.sp l).st = .exited ∨ (s.executing i).getLsbD l = true ∨ (s.lane s.cur.sp l).st = .held h

/-- Some spindle of m has not arrived even with word i. -/
def Lacks (i : Instr) (h : Hold) (m : List Nat) (s : State) : Prop :=
  (∃ k ∈ m, k ≠ s.cur.sp ∧ (s.spindle k).standsAt h = false) ∨
  (s.cur.sp ∈ m ∧ (s.spindle s.cur.sp).hasArrived h = false ∧
    ∃ l < 32, (s.lane s.cur.sp l).st ≠ .exited ∧ (s.executing i).getLsbD l = false ∧ (s.lane s.cur.sp l).st ≠ .held h)

/-- The registers of the issuing spindle stand. -/
def KeepsRegisters (s t : State) : Prop :=
  (t.spindle s.cur.sp).v = (s.spindle s.cur.sp).v ∧ (t.spindle s.cur.sp).s = (s.spindle s.cur.sp).s ∧ (t.spindle s.cur.sp).p = (s.spindle s.cur.sp).p

/-- The barrier word i holds its executing lanes where they are (07 R178, R181). -/
structure Waiting (i : Instr) (h : Hold) (s t : State) : Prop where
  lane : ∀ l < 32, (s.executing i).getLsbD l = true → t.lane s.cur.sp l = { movedLane s 1 l with st := .held h, pc := s.cur.pc }
  registers : KeepsRegisters s t

/-- The barrier word i releases the spindles m: its executing lanes stand at the next word, every lane held there goes on, and nobody stands at
the barrier any more (07 R178, R181). -/
structure Released (i : Instr) (h : Hold) (m : List Nat) (s t : State) : Prop where
  lane : ∀ l < 32, (s.executing i).getLsbD l = true → t.lane s.cur.sp l = movedLane s 1 l
  others : ∀ k ∈ m, (s.spindle k).lanes.length = 32 → ∀ l < 32, (s.lane k l).st = .held h →
    t.lane k l = { s.lane k l with st := .eligible, pc := (s.lane k l).pc + 4#64, stamp := s.clock.cycle }
  passed : ∀ k ∈ m, (t.spindle k).hasArrived h = false
  registers : KeepsRegisters s t

/-- A lane that a barrier releases. -/
def releasedLane (s : State) (y : Lane) : Lane := { y with st := .eligible, pc := y.pc + 4#64, stamp := s.clock.cycle }

/-- A lane waits at named barrier n for the end of a phase other than ph (07 R179). -/
def waitsAt (n : Nat) (ph : Bool) (st : LaneSt) : Bool :=
  match st with
  | .held (.nbar k _ p) => k == n && p != ph
  | _ => false

/-- Spindle i takes part in team t's barriers and no handler runs in it. -/
def takesPart (s : State) (t i : Nat) : Prop := i < s.spindles.length ∧ (s.spindle i).team = t ∧ (s.spindle i).st ≠ .ended

-- Engine commands (08 R183-R205; 09 R208-R211; 10 R236-R248; 11 R252, R267)

/-- The state t is b, which is s with other effects of the word, with command c accepted under flag f: the fragment has moved on, the
flag's count has risen, and c is the youngest command, with the words that its registers held at issue (08 R183, R187). -/
structure Accepts (i : Instr) (n : Nat) (e : Engine) (f : Nat) (s b t : State) (c : Cmd) : Prop where
  lane : ∀ l < 32, t.lane s.cur.sp l = if s.cur.lanes.getLsbD l then movedLane s n l else s.lane s.cur.sp l
  frame : ∃ ls, t = { b.modSp s.cur.sp (fun sp => { sp with lanes := ls }.setFlag f (sp.flag f + 1#6)) with cmds := s.cmds ++ [c], nextId := s.nextId + 1 }
  place : c.id = s.nextId ∧ c.core = (s.spindle s.cur.sp).core ∧ c.rank = (s.spindle s.cur.sp).crank ∧ c.team = (s.spindle s.cur.sp).team ∧ c.sp = s.cur.sp
  work : c.engine = e ∧ c.instr = i ∧ c.lanes = s.executing i ∧ c.st = .queued ∧ c.saved = false ∧ c.charges = [(s.cur.sp, f)]
  words : c.sregs = (s.spindle s.cur.sp).s ∧ c.pm = (s.spindle s.cur.sp).pm
  results : c.swrites = [] ∧ c.pmwrite = none ∧ c.pwrite = none
  snapshot : c.snap.w0 = s.cur.w0 ∧ c.snap.pc = s.cur.pc ∧ c.snap.spidx = (s.spindle s.cur.sp).idx ∧ c.snap.tacc = s.clock.ns

/-- A faceplate region inside the faceplate and the team's rows (R193). -/
structure RegionFits (t : Team) (x : DWord) : Prop where
  reserved : x.extractLsb' 42 22 = 0#22 ∧ x.extractLsb' 17 6 = 0#6
  shape : (regionOf x).rows ≠ 0 ∧ (regionOf x).cols ≠ 0 ∧ (regionOf x).col0 + (regionOf x).cols ≤ 256
  share : (regionOf x).row0 + (regionOf x).rows ≤ t.tiles

/-- A tile reference names an entry of the partition's table (R194). -/
structure TileNamed (p : Partition) (idx : Word) : Prop where
  index : idx.toNat < 2 ^ 16
  table : p.tiletab &&& ~~~0xFFF#64 ≠ 0#64
  inside : idx.toNat < (p.tiletab.toNat % 2 ^ 12 + 1) * 16

/-- A layout word of e-byte elements over a window of n0 by n1 by n2 elements (R195, R196). -/
structure LayoutFits (w e share n0 n1 n2 : Nat) : Prop where
  reserved : w / 2 ^ 94 = 0
  mode : (layoutOf w).mode ≤ 5 ∧ ((layoutOf w).mode ≠ 0 → max e 4 * 2 ^ (layoutOf w).mode ≤ 128)
  aligned : (layoutOf w).base % e = 0 ∧ (layoutOf w).s0 % e = 0 ∧ (layoutOf w).s1 % e = 0 ∧ (layoutOf w).s2 % e = 0
  window : ∀ i ∈ [0, n0 - 1], ∀ j ∈ [0, n1 - 1], ∀ k ∈ [0, n2 - 1],
    0 ≤ (layoutOf w).plain i j k ∧ (layoutOf w).plain i j k + e ≤ share

/-- n bytes of the core's scratchpad share at a, aligned (07 R157). -/
structure WindowFits (t : Team) (a : Word) (align n : Nat) : Prop where
  aligned : a.toNat % align = 0
  inside : a.toNat < 2 ^ 18 ∧ a.toNat < t.share ∧ a.toNat + n ≤ t.share

/-- The barrier of a command's tail, if it names one, has been initialised (R185). -/
def BarReady (s : State) (t : CmdTail) : Prop := t.ben = true → (s.nbar (s.spindle s.cur.sp).team t.bar.toNat).init = true

/-- An endpoint of `CPY` for a window of n0 by n1 by n2 elements of e bytes (R202). -/
def EndFits (s : State) (kind : BitVec 2) (r : Reg) (e : Nat) (n : Nat × Nat × Nat) : Prop :=
  let sp := s.spindle s.cur.sp
  match kind.toNat with
  | 0 => TileNamed (s.partOf s.cur.sp) (sp.getS r.toNat)
  | 1 => LayoutFits (layoutWord (sp.getS r.toNat) (sp.getS (r.toNat + 1)) (sp.getS (r.toNat + 2))) e (s.teamOf s.cur.sp).share n.1 n.2.1 n.2.2
  | _ => RegionFits (s.teamOf s.cur.sp) (sp.getSD r.toNat) ∧ n.2.2 = 1 ∧ n.1 * e ≤ (regionOf (sp.getSD r.toNat)).width ∧ n.2.1 ≤ (regionOf (sp.getSD r.toNat)).rows

/-- The list, the descriptor and the local rows of a gather or scatter of n elements (R205). -/
structure GatherFits (s : State) (rl rd ri : Reg) (face : Bool) : Prop where
  count : ((s.spindle s.cur.sp).getS (ri.toNat + 1)).toNat ≤ 4096
  desc : ((s.spindle s.cur.sp).getSD rd.toNat).toNat % 32 = 0
  list : WindowFits (s.teamOf s.cur.sp) ((s.spindle s.cur.sp).getS ri.toNat) 8 (8 * ((s.spindle s.cur.sp).getS (ri.toNat + 1)).toNat)
  rows : face = true → RegionFits (s.teamOf s.cur.sp) ((s.spindle s.cur.sp).getSD rl.toNat) ∧
    ((s.spindle s.cur.sp).getS (ri.toNat + 1)).toNat ≤ (regionOf ((s.spindle s.cur.sp).getSD rl.toNat)).rows
  layout : face = false →
    let w := layoutWord ((s.spindle s.cur.sp).getS rl.toNat) ((s.spindle s.cur.sp).getS (rl.toNat + 1)) ((s.spindle s.cur.sp).getS (rl.toNat + 2))
    (layoutOf w).s0 = 0 ∧ (layoutOf w).s2 = 0 ∧ LayoutFits w 4 (s.teamOf s.cur.sp).share 1 ((s.spindle s.cur.sp).getS (ri.toNat + 1)).toNat 1

/-- The tiles, the right-hand side or vector in register x, and the area at register o of a factorisation (09 R208-R211). -/
structure TilesFit (s : State) (i : Instr) (d : Reg) (x o : Option Reg) : Prop where
  region : RegionFits (s.teamOf s.cur.sp) ((s.spindle s.cur.sp).getSD d.toNat)
  tiles : ∀ c, facOf i (s.spindle s.cur.sp).getS = some c →
    (if c.batch then 2 ≤ c.rc.rows ∧ (c.rc.rows - 1) % c.n = 0 ∧ c.b * c.n ≤ 128 else c.rc.rows = c.n + 1) ∧
    c.n * c.e ≤ c.rc.width ∧ 32 + (if c.permInHeader then c.n else 0) ≤ c.rc.width
  side : ∀ c r, facOf i (s.spindle s.cur.sp).getS = some c → x = some r → RegionFits (s.teamOf s.cur.sp) ((s.spindle s.cur.sp).getSD r.toNat) ∧
    c.x.overlaps c.rc = false ∧ (if c.solves then c.x.rows = c.b * c.n ∧ c.x.width % c.e = 0 else c.x.rows = 1 ∧ c.n * c.e ≤ c.x.width)
  area : ∀ c r, facOf i (s.spindle s.cur.sp).getS = some c → o = some r → WindowFits (s.teamOf s.cur.sp) ((s.spindle s.cur.sp).getS r.toNat) 8 c.area

/-- A stream of the given capacity of entries of `size` bytes (10 R242). -/
def StreamFits (s : State) (r : Reg) (size : Nat) : Prop :=
  WindowFits (s.teamOf s.cur.sp) ((s.spindle s.cur.sp).getS r.toNat) 16 (16 + ((s.spindle s.cur.sp).getS (r.toNat + 1)).toNat * size)

/-- The operands of an `MMA` of g members fit: its regions, its tile reference and its barrier (R193, R194, R197, R198). -/
structure MmaFits (s : State) (g : Nat) (d a : Reg) (fmt : BitVec 4) (amode : Bool) (tr : BitVec 6) (t : CmdTail) : Prop where
  regionA : RegionFits (s.teamOf s.cur.sp) ((s.spindle s.cur.sp).getSD a.toNat)
  regionC : RegionFits (s.teamOf s.cur.sp) ((s.spindle s.cur.sp).getSD d.toNat)
  tile : amode = true → TileNamed (s.partOf s.cur.sp) ((s.spindle s.cur.sp).getS tr.toNat)
  shapeA : (regionOf ((s.spindle s.cur.sp).getSD a.toNat)).rows = 128 ∧ (regionOf ((s.spindle s.cur.sp).getSD a.toNat)).cols = mmaACols fmt.toNat
  shapeC : (regionOf ((s.spindle s.cur.sp).getSD d.toNat)).rows = 128 ∧ (regionOf ((s.spindle s.cur.sp).getSD d.toNat)).cols = mmaCCols fmt.toNat g
  apart : (regionOf ((s.spindle s.cur.sp).getSD a.toNat)).overlaps (regionOf ((s.spindle s.cur.sp).getSD d.toNat)) = false
  wide : fmt = 1#4 → g ≤ 4
  barrier : BarReady s t

/-- The members of a gang, and a spindle index that its list names (01 R22). -/
def gangSize (g : DWord) : Nat := (g.extractLsb' 60 3).toNat
def gangNames (g : DWord) (idx : Nat) : Prop := ∃ m < gangSize g, (g.extractLsb' (10 * m) 10).toNat = idx

/-- The share of B that the issuing spindle gives: the registers of its live lanes (R197). -/
structure GivesShare (s : State) (b : Reg) (fmt : BitVec 4) (x : Share) : Prop where
  place : x.spidx = (s.spindle s.cur.sp).idx ∧ x.live = (s.spindle s.cur.sp).live ∧ x.poison = false
  words : ∀ j < mmaRegs fmt, ∀ l < 32, (s.spindle s.cur.sp).live.getLsbD l = true → cellGet x.b (32 * j + l) = (s.spindle s.cur.sp).getV (b.toNat + j) l

/-- The latches of the issuing core that are not saved beside (R199). -/
def coreLatches (s : State) : List Latch := s.latches.filter (fun l => l.core == (s.spindle s.cur.sp).core && !l.saved)

/-- The engine that a command's word goes to, for the commands of two words with a tail, and the condition on its operands at
issue. An `MMA` here is one without a gang whose spindle holds no poisoned register line. -/
def engineCommand (s : State) : Instr → Option (Engine × Prop)
  | .mma _ d a _ fmt amode _ tr t =>
    some (.matrix, gangSize (s.spindle s.cur.sp).gang = 0 ∧ (s.spindle s.cur.sp).vpoison = [] ∧ MmaFits s 1 d a fmt amode tr t)
  | .tld _ d a t => some (.copy, RegionFits (s.teamOf s.cur.sp) ((s.spindle s.cur.sp).getSD d.toNat) ∧
      TileNamed (s.partOf s.cur.sp) ((s.spindle s.cur.sp).getS a.toNat) ∧ BarReady s t)
  | .tst _ d a t => some (.copy, RegionFits (s.teamOf s.cur.sp) ((s.spindle s.cur.sp).getSD d.toNat) ∧
      TileNamed (s.partOf s.cur.sp) ((s.spindle s.cur.sp).getS a.toNat) ∧ BarReady s t)
  | .cpy _ d a b dk sk esz t =>
    let x := (s.spindle s.cur.sp).getSD b.toNat
    let n := shapeOf x
    some (.copy, x.extractLsb' 48 16 = 0#16 ∧ n.1 ≠ 0 ∧ n.2.1 ≠ 0 ∧ n.2.2 ≠ 0 ∧ EndFits s dk d (2 ^ esz.toNat) n ∧ EndFits s sk a (2 ^ esz.toNat) n ∧ BarReady s t)
  | .gathf _ d a b lk t => some (.gather, GatherFits s d a b lk ∧ BarReady s t)
  | .scatf _ d a b lk _ t => some (.gather, GatherFits s d a b lk ∧ BarReady s t)
  | .flu p d a b fmt nm1 batch trap pms t =>
    some (.matrix, TilesFit s (.flu p d a b fmt nm1 batch trap pms t) d none (if batch then some b else none) ∧ BarReady s t)
  | .fchol p d a b fmt nm1 batch trap t =>
    some (.matrix, TilesFit s (.fchol p d a b fmt nm1 batch trap t) d none (if batch then some b else none) ∧ BarReady s t)
  | .fqr p d a b fmt nm1 batch t => some (.matrix, TilesFit s (.fqr p d a b fmt nm1 batch t) d none (some b) ∧ BarReady s t)
  | .ftrs p d a fmt nm1 batch pms perm trn unit up t =>
    some (.matrix, TilesFit s (.ftrs p d a fmt nm1 batch pms perm trn unit up t) d (some a) none ∧ BarReady s t)
  | .fupd p d a b fmt nm1 trap down t => some (.matrix, TilesFit s (.fupd p d a b fmt nm1 trap down t) d (some b) none ∧ BarReady s t)
  | .sjoin _ d _ kmask _ t =>
    some (.ple, kmask ≠ 0#8 ∧ t.rel = false ∧ (∀ k < 8, kmask.getLsbD k = true → ((s.spindle s.cur.sp).getK k).getLsbD 7 = true) ∧
      StreamFits s d 8 ∧ BarReady s t)
  | .sfuse _ d a b _ _ t =>
    let n := ((s.spindle s.cur.sp).getS (b.toNat + 2)).toNat
    some (.ple, StreamFits s d 16 ∧ StreamFits s a 8 ∧ WindowFits (s.teamOf s.cur.sp) ((s.spindle s.cur.sp).getS b.toNat) 8 (8 * n) ∧
      WindowFits (s.teamOf s.cur.sp) ((s.spindle s.cur.sp).getS (b.toNat + 1)) 4 (4 * n) ∧ BarReady s t)
  | .stopk _ d a kind _ t =>
    let k := ((s.spindle s.cur.sp).getS (d.toNat + 1)).toNat
    some (.ple, 1 ≤ k ∧ k ≤ 1024 ∧ WindowFits (s.teamOf s.cur.sp) ((s.spindle s.cur.sp).getS d.toNat) 16 (16 + 16 * k) ∧
      StreamFits s a (if kind then 16 else 8) ∧ BarReady s t)
  | _ => none

/-- The commands on an open cursor, of one word: the stream register. -/
def cursorOf : Instr → Option Reg
  | .sclose _ a => some a
  | .sadv _ _ a => some a
  | .sseek _ _ a _ => some a
  | .stend _ _ a => some a
  | _ => none

/-- Cursor number n of a core, when it stands. -/
def State.cursor (s : State) (core n : Nat) : Option Cursor := s.cursors.find? (fun c => c.core == core && c.num == n && !c.saved)

/-- The address of the packet that a word's offset names (05 R119). -/
def packetAt (s : State) (off : BitVec 21) : DWord := BitVec.ofInt 64 ((s.cur.pc.toNat - s.cur.pc.toNat % 12 : Int) + 12 * off.toInt)

/-- The queue of an engine has no room: 8 commands for the matrix engine, 16 for the others (08 R183; 10 R232). -/
def QueueFull (s : State) (core : Nat) (e : Engine) : Prop :=
  (if e = .matrix then 8 else 16) ≤ (s.cmds.filter (fun c => c.core == core && c.engine == e && !c.saved)).length

/-- The fragment waits at its word and nothing else happens. -/
def StaysBack (s t : State) : Prop :=
  Touches (inFragment s (fun _ y => { y with st := .stalled })) { s with cur := { s.cur with more := false } } t

/-- n bytes from byte b of a row of the faceplate of a command's core, and from offset o of its scratchpad share (08 R193; 07 R157). -/
def faceBytes (s : State) (c : Cmd) (row b n : Nat) : Nat := bytesGet (s.team c.team).face (faceKey c.rank row b) n
def shareBytes (s : State) (c : Cmd) (o n : Nat) : Nat := bytesGet (s.team c.team).scratch (scratchKeyOf c.rank o) n

/-- Command c of s can start, its team runs, and no mark and no thread's later write stands in its team's faceplate and scratchpad (08 R190, R191). -/
structure Starts (s : State) (c : Cmd) : Prop where
  queued : s.cmds.find? (fun y => y.id == c.id) = some c
  startable : startable s c = true
  running : (s.team c.team).st = .running
  place : c.team < s.teams.length
  clean : (s.team c.team).facePoison = [] ∧ (s.team c.team).scratchPoison = []
  alone : c.scratchOld = [] ∧ c.written = [] ∧ c.remote = []

/-- Every byte of the core's faceplate that is not in region x is as before, and so is the scratchpad. -/
structure FaceFrame (s t : State) (c : Cmd) (x : Rect) : Prop where
  face : ∀ row, ∀ b < 1024, ¬ (x.row0 ≤ row ∧ row < x.row0 + x.rows ∧ 4 * x.col0 ≤ b ∧ b < 4 * x.col0 + x.width) → faceBytes t c row b 1 = faceBytes s c row b 1
  scratch : (t.team c.team).scratch = (s.team c.team).scratch

-- Transactions and the allotment of registers (11 R256-R264)

/-- The arena that REGARENA gives team t has n chunks that are not in use (01 R32, R35; 11 R263). -/
def ArenaRoom (s : State) (t n : Nat) : Prop :=
  ∃ l : List Nat, l.Nodup ∧ l.length = n ∧ ∀ c ∈ l, (s.launchRec t).chunkFirst ≤ c ∧ c < 32 * ((s.team t).regarena.toNat % 2 ^ 16) ∧ c ∉ (s.team t).chunks

/-- The chunks that lanes x and their spindle still need to run transactions: eight for each lane's log and eight for the
checkpoints (14 R323). -/
def txNeed (s : State) (x : LaneMask) : Nat :=
  8 * ((32 :: lanesOf x).filter (fun o => !(s.spindle s.cur.sp).txchunks.any (fun c => c.1 == o))).length

/-- The transaction a `TXB` opens in lane l: mode, fallback and the checkpoint of the lane's registers (R256). -/
structure OpensTx (s : State) (l : Nat) (ts : Bool) (fallback : DWord) (x : Txn) : Prop where
  mode : x.ts = ts
  fallback : x.fallback = fallback
  place : x.txbpc = s.cur.pc
  start : x.start = s.clock.ns
  regs : ∀ r, cellGet x.chkV r = (s.spindle s.cur.sp).getV r l
  preds : ∀ q < 7, x.chkP.getLsbD q = ((s.spindle s.cur.sp).pred q).getLsbD l
  flags : x.chkFlags = (s.lane s.cur.sp l).fpflags
  rng : x.chkRng = (s.lane s.cur.sp l).rng
  logs : x.reads = [] ∧ x.writes = [] ∧ x.chkRegs = []

/-- The status word of R262 from its fields. -/
def statusWord (y : Lane) : Word :=
  BitVec.ofBool y.tx ++ BitVec.ofBool y.txstat.committed ++ y.txatt ++ y.txstat.cause ++ y.txstat.xcode ++ y.txstat.fcause ++ 0#8

/-- A lane that an explicit abort sends to its fallback, with its checkpoint's flags and generator (R261, R262). -/
def abortedLane (s : State) (n : BitVec 7) (x : Txn) (y : Lane) : Lane :=
  { y with tx := false, txn := none, txstat := { committed := false, cause := 4#3, xcode := n, fcause := 0#8 },
           fpflags := x.chkFlags, rng := x.chkRng, pc := x.fallback, st := .eligible, stamp := s.clock.cycle }

/-- The lanes m of the issuing spindle have their checkpoints' registers and predicates again, and nothing but them, the spindle's lanes, requests for
tokens, the register cache and memory has changed (11 R260; 14 R322). -/
structure Rewound (m : LaneMask) (x : Nat → Txn) (s u : State) : Prop where
  vregs : ∀ r, ∀ l < 32, (u.spindle s.cur.sp).getV r l = if m.getLsbD l then cellGet (x l).chkV r else (s.spindle s.cur.sp).getV r l
  preds : ∀ q < 7, ∀ l < 32, ((u.spindle s.cur.sp).pred q).getLsbD l = if m.getLsbD l then (x l).chkP.getLsbD q else ((s.spindle s.cur.sp).pred q).getLsbD l
  frame : ∃ v p ls tk rc b, b = { s.modSp s.cur.sp (fun sp => { sp with v := v, p := p, lanes := ls }) with tokens := tk, rcache := rc } ∧ MemoryOnly b u

/-- How an ordered thread's transaction ends at an instruction that its speculation does not allow: the words, the cause, the abort's code and the fault
(14 R332, R338; 11 R261). -/
def orderedAbort : Instr → Option (Nat × BitVec 3 × Option (BitVec 7) × BitVec 8)
  | .txb .. => some (2, 5#3, none, 0x02#8)
  | .txe _ => some (1, 5#3, none, 0x02#8)
  | .txa _ n => some (1, 4#3, some n, 0#8)
  | _ => none

/-- Lane y of an ordered thread that starts again serially after such an abort: at its entry, with its checkpoint's flags and generator, until its token
comes (14 R332, R338, R339). -/
def serialAgain (s : State) (cause : BitVec 3) (xcode : Option (BitVec 7)) (fcause : BitVec 8) (x : Txn) (y : Lane) : Lane :=
  { y with tx := false, txn := none, txatt := BitVec.ofNat 4 (min 15 (y.txatt.toNat + 1)),
           txstat := { committed := false, cause := cause, xcode := xcode.getD y.txstat.xcode, fcause := fcause },
           fpflags := x.chkFlags, rng := x.chkRng, pc := (s.spindle s.cur.sp).entry, serial := true, chained := false, st := .held .serial, stamp := s.clock.cycle }

/-- A lane whose transaction has committed (11 R259, R262). -/
def committedLane (s : State) (y : Lane) : Lane :=
  { y with tx := false, txn := none, txstat := { y.txstat with committed := true }, pc := y.pc + 4#64, st := .eligible, stamp := s.clock.cycle }

/-- Lane y of spindle i after an abort that is retried while TXCTL.ATTEMPTS allows it: it backs off before its `TXB`, else it goes to its fallback (11
R260; 14 R332; 01 R30). -/
def retriedLane (s : State) (i : Nat) (cause : BitVec 3) (x : Txn) (y : Lane) : Lane :=
  let z : Lane := { y with tx := false, txn := none, txstat := { y.txstat with committed := false, cause := cause, fcause := 0#8 }, fpflags := x.chkFlags, rng := x.chkRng,
                           stamp := s.clock.cycle }
  if y.txatt.toNat < ((s.spindle i).txctl.extractLsb' 8 4).toNat then
    { z with pc := x.txbpc, restart := true, boff := srStep y.boff,
             st := .backoff (s.clock.cycle + backoffCycles (s.spindle i).txctl y.txatt.toNat (srStep y.boff)) }
  else { z with pc := x.fallback, st := .eligible }

/-- A line of spindle i's commit stands whole at its home as h, and no core, no interval and no host has it (14 R329). -/
structure CommitHome (s : State) (i ea ln : Nat) (h : HomeLine) : Prop where
  home : homeFind s.mem ea ln = some h
  whole : h.line.valid = BitVec.allOnes 128 ∧ h.owner = none ∧ h.undo = []
  copy : l1Find s.mem (s.spindle i).core ea ln = none
  host : s.mem.hostHeld = [] ∧ s.links.down = []

-- The module

/-- Lifetime counts that rise by one for each item of a list, saturating, and no others (22 R459). -/
structure LifeCounts (s t : State) (ids : List Nat) : Prop where
  life : t.nvm.life = s.nvm.life
  counts : ∀ k, cellGet t.nvm.pend k = if k ∈ ids then
      BitVec.ofNat 64 (min ((cellGet s.nvm.life k).toNat + (cellGet s.nvm.pend k).toNat + ids.count k) (2 ^ 64 - 1) - (cellGet s.nvm.life k).toNat)
    else cellGet s.nvm.pend k

/-- The bin of x in a histogram whose bin 0 ends at `least` and whose bins 1 to 14 are `width` wide (22 R459). -/
def binOf (least width x : Nat) : Nat := ((List.range 15).filter (fun j => decide (least + width * j ≤ x))).length

/-- One partition runs, the distributor's cycle is due, and launch l is its only one (17 R358-R360). -/
structure Alone (s : State) (l : Launch) : Prop where
  part : ∃ x, s.parts = [x] ∧ x.started = true ∧ x.halted = false ∧ x.haltReason = 0 ∧ x.deadline = 0#64
  launch : s.launches = [l] ∧ l.part = 0 ∧ l.discarded = false ∧ l.abandoned = false ∧ l.step = 0 ∧ l.prio < 16 ∧ 1 ≤ l.info.teams ∧ 1 ≤ l.info.spindles
  time : s.distNext ≤ s.clock.ns

/-- Launch l waits to be admitted (22 R456). -/
def AloneReady (s : State) (l : Launch) : Prop := Alone s l ∧ l.st = .ready

/-- Launch l is admitted, not cooperative, and its one team waits to be placed (17 R360). -/
def AloneWaiting (s : State) (l : Launch) : Prop :=
  Alone s l ∧ l.st = .admitted ∧ l.info.coop = false ∧ l.info.teams = 1 ∧ s.distMsgs = [] ∧
    ∃ y, s.teams = [y] ∧ y.st = .pending ∧ y.launch = 0 ∧ y.idx = 0 ∧ y.part = 0 ∧ y.prio = BitVec.ofNat 4 l.prio ∧ y.reserve = none

/-- A core that placement may use has the slots, the faceplate rows and the scratchpad bytes that each of n cores of a team gives (17 R361). -/
def HasRoom (s : State) (r : LaunchRec) (n core : Nat) : Prop :=
  coreUsable s core = true ∧ (r.spindles + n - 1) / n ≤ (roomOf s core).slots ∧ r.tiles ≤ (roomOf s core).rows ∧ shareOfCores r.scratch n ≤ (roomOf s core).bytes

-- Traps (11 R268-R274)

/-- Every lane with a pending trap, at most the lowest of those with a deferred report: LMASK (R269). -/
def lmask (s : State) (i : Nat) : LaneMask := trapLanes (s.spindle i)

/-- The state t is s with the handler of spindle i started for the lanes m, but for memory: one fragment at TRAPVEC in privileged
mode, its registers as R272 says, and the trapped spindle's own state kept beside. -/
structure HandlerRuns (s : State) (i : Nat) (m : LaneMask) (cause : BitVec 16) (t : State) : Prop where
  lane : ∀ l < 32, (t.lane i l).st = (if m.getLsbD l then .eligible else .exited) ∧ (m.getLsbD l = true →
    (t.lane i l).pc = (s.partOf i).trapvec ∧ (t.lane i l).priv = true ∧ (t.lane i l).tcause = (s.lane i l).tcause ∧ (t.lane i l).tx = false ∧
    (t.lane i l).fpflags = 0#6)
  vregs : ∀ r l, (t.spindle i).getV r l = 0#32
  sregs : (t.spindle i).getSD 0 = s.frameVa i ∧ (t.spindle i).getS 2 = cause.setWidth 32 ∧ (t.spindle i).getS 3 = m ∧ ∀ r, 4 ≤ r → (t.spindle i).getS r = 0#32
  preds : ∀ q < 7, (t.spindle i).pred q = 0#32
  rest : (t.spindle i).vcount = 16 ∧ (t.spindle i).flagsClear = true ∧ (t.spindle i).gang = 0#64 ∧ (t.spindle i).ftz = false ∧ (t.spindle i).inHandler = true
  kept : ∃ r, (t.spindle i).trapped = some r ∧ r.lmask = m ∧ r.cause = cause ∧ r.frame = s.frameVa i ∧ r.vcount = (s.spindle i).vcount ∧
    r.epc = (s.spindle i).lanes.map (·.pc) ∧
    ∀ l < 32, r.lanes.getD l Lane.blank =
      let y : Lane := { s.lane i l with imgcause := (s.lane i l).tcause }
      if m.getLsbD l then { y with pendingTrap := false, deferred := none } else y
  others : ∀ k, k ≠ i → t.spindle k = s.spindle k

/-- The device's writes of the trapped image, the frame and the handler's image succeed, and TRAPVEC names a header; t is the state
after them, no line of the spindle in the register cache (R269, R270; 12 R287). -/
def FrameTaken (s : State) (i : Nat) (m : LaneMask) (cause : BitVec 16) (t : State) : Prop :=
  ∃ s1 s2 s3 s4 s5, writeImage s i = .ok s1 () ∧ frameRights s1 i (s.frameVa i) = .ok s2 ∧
    devWrite s2 (s2.who i) (s.frameVa i) 2048 (frameRecord s2 i m false) = .ok s3 () ∧
    putLines (s3.modSp i (fun _ => handlerSpindle s3 i m cause (s.frameVa i))) (s3.who i) (handlerLines (s3.modSp i (fun _ => handlerSpindle s3 i m cause (s.frameVa i))) i (s.frameVa i)) = .ok s4 () ∧
    checkTarget s4 i (s.partOf i).trapvec = (s5, .good) ∧ t = rcDrop s5 i

-- Steps and the invariants that they keep

/-- No dropped write waits for its report, and no report can be taken (11 R268). -/
structure Unreported (s : State) : Prop where
  drops : s.mem.drops = []
  reports : ∀ r ∈ s.reports, reportReady s r = false

/-- Nothing comes before an issue, or an own step of the device: no report, no rest of a chain and no event of the agenda. -/
structure Undisturbed (s : State) : Prop where
  unreported : Unreported s
  chain : s.cur.more = false
  agenda : s.agenda = [] ∨ s.clock.cycle % 4 = 1 ∨ s.clock.cycle % 4 = 2

/-- The chain whose first word w stands at issue in t may issue for the lanes m of spindle k of s: the queues of its E-pipe words have room, its
destinations leave room among the pinned lines, no word of it must wait, its lines are present, its spindle has the core's E port, and it pairs with the quadrant's first pick (12 R281,
R284, R285, R288, R289). -/
structure ChainReady (s t : State) (k : Nat) (m : LaneMask) (w : Except DecodeError Instr) : Prop where
  queue : queueBlocks s (s.spindle k).core t.cur.chain = false
  pins : ((chainWrites t.cur.chain).foldl insertNat (pinnedRegs s k)).length ≤ 8
  waits : chainWaits k m 2 (issueWord (bookIssue t k m t.cur.chain) w) = none
  lines : ∀ r ∈ chainRegs t.cur.chain, r < (s.spindle k).vcount → rcHas s k r = true
  port : usesE t.cur.chain = true → portTaken s k = false
  pair : pairs s k t.cur.chain = true

/-- The core of spindle k holds word w at pc in its instruction cache, and the right to run it (03 R463). -/
structure WordHeld (s : State) (k : Nat) (pc : DWord) (w : Word) : Prop where
  form : canonical pc = true
  rights : ∃ x, rightsFind s.mem (s.who k).core (eaOf (s.who k).asid pc) (pageOf pc) = some x ∧ leafX x.leaf = true
  line : ∃ c, icFind s.mem (s.who k).core (eaOf (s.who k).asid pc) (lnOf pc) = some c ∧ c.poison &&& sectorMask (offOf pc) 4 = 0#4 ∧
    w = BitVec.ofNat 32 (lineBytesGet c.data (offOf pc) 4)

/-- A spindle has 32 lanes, in the image that a trap left as well. -/
def Spindle.whole (sp : Spindle) : Prop := sp.lanes.length = 32 ∧ ∀ r, sp.trapped = some r → r.lanes.length = 32

/-- Every spindle, and every spindle that an open interval holds, has 32 lanes. -/
def ThirtyTwo (s : State) : Prop := (∀ sp ∈ s.spindles, sp.whole) ∧ ∀ t ∈ s.teams, ∀ x, t.snap = some x → ∀ p ∈ x.spindles, p.2.whole

end Sys2Proof.Machine
end

