-- ==== Sys2Proof/Certificates/Slice0/Obligations.lean ====
section
/-! DEFINITION. The statements for the provers, each a claim of the manual about the model. -/

open Sys2Proof Sys2Proof.Machine

/-- Words of the manual's own examples, and of the tables' fields, decode to the instructions that they stand for (03 R64-R66, R73, R80-R82). -/
def Obligations.DecodeWords : Prop :=
  let u : Pfx := { c := false, g := 7#3 }
  decodeWords 0x7FE0_0024#32 0#32 = .ok (.clauseHeader 0#12 1#4 2#4 false) ∧
  decodeWords 0x7040_FFFF#32 0#32 = .ok (.movi u 3#7 0x3FFF#14) ∧
  decodeWords 0x72E0_8168#32 0#32 = .ok (.roti u 2#7 2#7 8#5) ∧
  decodeWords 0x73C1_0309#32 0x6000_0010#32 = .ok (.lea u 4#7 6#7 9#7 3#3 false 16#24) ∧
  decodeWords 0x7462_0491#32 0x3200_0000#32 = .ok (.ffma u 8#7 9#7 17#7 25#7 0#3) ∧
  decodeWords 0x7705_4200#32 0x4300_0000#32 = .ok (.ld u 21#7 4#7 2#3 false false 3#3 0#24) ∧
  decodeWords 0x77C0_020C#32 0x0060_0000#32 = .ok (.red u 4#7 12#7 0#5 false 0#2 3#3 0#14) ∧
  decodeWords 0x7B60_6402#32 0#32 = .ok (.sleep u 200#14) ∧
  decodeWords 0x7C01_0110#32 0x8400_0030#32 = .ok (.mma u 4#7 2#7 16#7 8#4 false true 0#6 { acq := false, rel := false, scope := 0#3, bar := 1#4, ben := true }) ∧
  decodeWords 0x7D60_451A#32 0#32 = .ok (.sopen u 1#7 10#7 3#3 2#3) ∧
  decodeWords 0x7F01_E003#32 0#32 = .ok (.mts u 7#7 true false 3#8) ∧
  decodeWords 0x7F41_0300#32 0x0000_1600#32 = .ok (.launch u 4#7 6#7 { acq := false, rel := true, scope := 3#3, bar := 0#4, ben := false }) ∧
  decodeWords 0x7020_4001#32 0#32 = .error .reservedField ∧ decodeWords 0x7FE0_01A4#32 0#32 = .error .badHeader

/-- Decoding the words of a well-formed instruction gives that instruction back, with every operand, and bytes decode to no other: what a decode
reads is well formed and stands in exactly those bytes (03 R64-R66, R73, R83). -/
def Obligations.DecodeEncode : Prop :=
  (∀ (i : Instr) (rest : List Byte), wf i = true → encode i ≠ [] → decode ((encode i).flatMap bytesOfWord ++ rest) = .ok (i, rest)) ∧
  ∀ (i : Instr) (l rest : List Byte), decode l = .ok (i, rest) → wf i = true ∧ l = (encode i).flatMap bytesOfWord ++ rest

/-- A fragment's words are those that the fetch path holds. When the fragment whose turn it is stands at a header, or its chain may issue, a step is
`exec` of the instruction that its first word decodes to, in the state in which that word stands at issue and the issue is booked; each further word
of the chain follows in the steps after it, for the lanes that stand at it. An event of the agenda, or of the device's own, is `exec` of that event.
The order in which words, events and ticks take turns is the
model's choice (log entry 2), and so is what makes a chain ready beside 12 R281's list (log entries 6, 92); no table of the controller, whatever its
base, stops a step (log entry 5). -/
def Obligations.StepRunsDecoded : Prop :=
  ∀ (s : State),
    (∀ k n pc w0 w1, WordHeld s k pc w0 → let c : CWord := { pc := pc, w0 := w0, w1 := w1, op := (w0.extractLsb' 21 7).toNat }
      (if xMajor c.op = true ∧ slotOf pc < 2 then WordHeld s k (pc + 4#64) w1 else w1 = 0#32) →
      (w0.getLsbD 31 = false ∨ c.op = 0x7F → fetchChain s k (n + 1) pc = (s, .words [c])) ∧
      ∀ l, w0.getLsbD 31 = true → c.op ≠ 0x7F → slotOf pc + c.len < 3 → fetchChain s k n (pc + BitVec.ofNat 64 (4 * c.len)) = (s, .words l) →
        fetchChain s k (n + 1) pc = (s, .words (c :: l))) ∧
    (∀ k m pc v c rest u h a, Undisturbed s → (s.clock.cycle % 2 = 1 → nextInternal s = none) → pickSpindle s = some k →
      bestFragment (s.spindle k) = some (m, pc) → fetchChain (standing (arbitrate s (s.spindle k).core) k m pc) k 3 pc = (v, .words (c :: rest)) →
      badHeaderWord (c :: rest) = none → chainBad (c :: rest) = false → chainHeader v k pc (c :: rest) = (u, .word h, a) →
      flagRoom (u.spindle k) h (c :: rest) = true →
      let t := earlyResults { u with cur := { u.cur with w0 := c.w0, w1 := c.w1, more := !rest.isEmpty, rest := rest.map (fun d => (d.w0, d.w1)), clear := (u.spindle k).workDone } } k
      let b := bookIssue t k m t.cur.chain
      (∀ i, decodeWords c.w0 c.w1 = .ok i → (isHeader c.w0 = true → step s = exec i t) ∧
        (isHeader c.w0 = false → ChainReady (arbitrate s (s.spindle k).core) t k m (.ok i) → step s = exec i b)) ∧
      ∀ e, decodeWords c.w0 c.w1 = .error e → (isHeader c.w0 = true → step s = .next (undecoded t e)) ∧
        (isHeader c.w0 = false → ChainReady (arbitrate s (s.spindle k).core) t k m (.error e) → step s = .next (undecoded b e))) ∧
    (∀ w0 w1 rest, s.cur.more = true → s.cur.rest = (w0, w1) :: rest →
      let x := s.cur.lanes &&& maskBy (fun l => (s.lane s.cur.sp l).st.isEligible && (s.lane s.cur.sp l).pc == nextPc s)
      let t : State := { s.modLanes s.cur.sp x (fun _ y => { y with chained := true }) with
        cur := { s.cur with lanes := x, pc := nextPc s, w0 := w0, w1 := w1, chained := true, more := !rest.isEmpty, rest := rest } }
      (x ≠ 0#32 → (∀ i, decodeWords w0 w1 = .ok i → step s = exec i t) ∧ ∀ e, decodeWords w0 w1 = .error e → step s = .next (undecoded t e)) ∧
      (x = 0#32 → step s = .next { s with cur := { s.cur with more := false, rest := [] } })) ∧
    (∀ e rest, Unreported s → s.cur.more = false → s.agenda = e :: rest → s.clock.cycle % 4 ≠ 1 → s.clock.cycle % 4 ≠ 2 → step s = exec e { s with agenda := rest }) ∧
    (∀ e, Undisturbed s → nextInternal s = some e → s.clock.cycle % 2 = 1 ∨ pickSpindle s = none → step s = exec e s) ∧
    (Undisturbed s → nextInternal s = none → pickSpindle s = none → step s = .next (tickState s))

/-- What reset leaves, as the register tables and the phases of bring-up give it, BOOTSTAT as log entry 46 says: device time and cycles at 0, every
cache, bin, monitor and queue empty, no program placed, the lease registers and the controller's registers at their reset values (01 R23, R31; 18 R404, R409; 19 R421; 21 R444; 22
R457, R458, R461). -/
def Obligations.ResetValues : Prop :=
  let s := State.reset
  (s.clock.ns = 0 ∧ s.clock.cycle = 0 ∧ s.clock.mhz = 4000) ∧
  (s.mem.home = [] ∧ s.mem.l1 = [] ∧ s.mem.icache = [] ∧ s.mem.rights = [] ∧ s.mem.tlb = [] ∧ s.mem.buf = [] ∧ s.mem.reqs = [] ∧ s.rcache = []) ∧
  (s.spindles = [] ∧ s.teams = [] ∧ s.launches = [] ∧ s.parts = [] ∧ s.bins = [] ∧ s.cmds = [] ∧ s.cursors = []) ∧
  ([1, 2, 3, 4, 5, 6].map (fun c => leaseLen s.leaseL1 c) = [256, 1024, 4096, 16384, 32768, 65280].map some ∧ leaseLen s.leaseL1 7 = none ∧ s.leaseL2 = s.leaseL1) ∧
  (∀ off ∈ [0x000, 0x008, 0x010, 0x018, 0x020, 0x040, 0x048, 0x050, 0x058, 0x060, 0x070], adeolRead s .translation off = 0#64) ∧
  adeolRead s .translation 0x068 = BitVec.ofNat 64 (32 * 2 ^ 48 + 64 * 2 ^ 40 + 16 * 2 ^ 32 + 1000 * 2 ^ 16) ∧
  adeolRead s .fabric 0x100 = 200#64 ∧ (∀ off ∈ [0x108, 0x110, 0x118], adeolRead s .fabric off = 0#64) ∧ (∀ q < 16, adeolRead s .fabric (0x120 + 8 * q) = 0#64) ∧
  adeolRead s .error 0x000 = 16384#64 ∧ adeolRead s .error 0x020 = BitVec.ofNat 64 (2 ^ 63 + 60 * 2 ^ 32 + 2000) ∧
  (∀ off ∈ [0x008, 0x010, 0x018, 0x028, 0x030], adeolRead s .error off = 0#64) ∧
  adeolRead s .service 0x000 = 3200#64 ∧ (∀ off ∈ [0x008, 0x010, 0x018, 0x030], adeolRead s .service off = 0#64) ∧
  ∀ p < 24, adeolRead s .service (0x040 + 8 * p) = 0#64 ∧ adeolRead s .service (0x100 + 8 * p) = 0#64

/-- Right after reset memory has its canonical form and every spindle that stands has 32 lanes. -/
def Obligations.ResetInvariant : Prop := Memory.wf State.reset.mem.phys ∧ ThirtyTwo State.reset

/-- Every step keeps memory in its one canonical form: addresses strictly rising, no byte listed that reads as an unlisted one. -/
def Obligations.StepKeepsMemory : Prop := ∀ (s t : State), Memory.wf s.mem.phys → step s = .next t → Memory.wf t.mem.phys

/-- Every step keeps 32 lanes in every spindle, in every trapped image and in every interval's copy (01 R13; 11 R270; 21 R438). -/
def Obligations.StepKeepsLanes : Prop := ∀ (s t : State), ThirtyTwo s → step s = .next t → ThirtyTwo t

/-- Moves and transfers into lanes write exactly the value of 05 R107 and R115-R117 and nothing else; transfers into s registers act once, from the
lowest executing lane (05 R117, 01 R16). -/
def Obligations.Moves : Prop :=
  ∀ (i : Instr) (s : State) (n : Nat) (r : Result), Issues i s →
    moveResult (s.spindle s.cur.sp) i = some (n, r) ∨ scalarResult (s.spindle s.cur.sp) (s.executing i) i = some (n, r) →
    ∃ t, exec i s = .next t ∧ Computes i n r s t

/-- Integer arithmetic: the instructions of two v sources write f(a, b), those of one source and immediates f(a), and the 64-bit sum, the
multiply-add and the field insertion their results, and nothing else (05 R108-R112). -/
def Obligations.IntegerArithmetic : Prop :=
  ∀ (i : Instr) (s : State), Issues i s →
    (∀ d a b f, pairResult i = some (d, a, b, f) → ∃ t, exec i s = .next t ∧ Computes i 1
      { v := fun r l => to32 d (f ((s.spindle s.cur.sp).getV a.toNat l) ((s.spindle s.cur.sp).getV b.toNat l)) r } s t) ∧
    (∀ n d a f, soleResult i = some (n, d, a, f) → ∃ t, exec i s = .next t ∧
      Computes i n { v := fun r l => to32 d (f ((s.spindle s.cur.sp).getV a.toNat l)) r } s t) ∧
    (∀ n r, mixedResult (s.spindle s.cur.sp) i = some (n, r) → ∃ t, exec i s = .next t ∧ Computes i n r s t)

/-- Comparisons, predicate functions and votes (05 R113, R114; 07 R177). -/
def Obligations.PredicateResults : Prop :=
  ∀ (i : Instr) (s : State) (n : Nat) (r : Result), Issues i s → predResult (s.spindle s.cur.sp) (s.executing i) i = some (n, r) →
    ∃ t, exec i s = .next t ∧ Computes i n r s t

/-- The F-pipe instructions write value and flags of 06 R131-R142 and nothing else: those that write lanes, comparisons and MX quantisation. An
`MXDQ` whose s register names no selector of its class raises BLOCK_FORMAT in its executing lanes (06 R142), its ADDR as log entry 57 says. -/
def Obligations.FloatResults : Prop :=
  ∀ (i : Instr) (s : State), Issues i s →
    (∀ n r, floatResult (s.spindle s.cur.sp) i = some (n, r) ∨ floatSideResult (s.spindle s.cur.sp) (s.executing i) i = some (n, r) →
      ∃ t, exec i s = .next t ∧ Computes i n r s t) ∧
    (∀ p d a b fmtc dfmt rm, i = .mxdq p d a b fmtc dfmt rm → floatResult (s.spindle s.cur.sp) i = none → CanFault (s.executing i) s →
      ∃ u, exec i s = .next (rcvEvalAll u s.cur.sp) ∧ Parks (s.executing i) 2 0x11#8 0#7 0#64 s u)

/-- The S-pipe arithmetic and `SHFL` start an operation that will write the result of 06 R143-R146 and 07 R176 under flag A;
the evaluation of `FEX2` and `FLG2` is log entry 43's. -/
def Obligations.LongOperations : Prop :=
  ∀ (i : Instr) (s : State) (n f : Nat) (r : Result), Issues i s → ChargesFlag s n true f →
    longResult (s.spindle s.cur.sp) (s.executing i) i = some (n, r) →
    ∃ t, exec i s = .next t ∧ Pends i n f r (s.spindle s.cur.sp).bankconf s.mem s t

/-- Transfers whose targets are held put each executing lane at its target, and a call writes the return address and nothing else
(05 R118-R120). -/
def Obligations.Transfers : Prop :=
  ∀ (i : Instr) (s : State) (target : Nat → DWord) (link : Option Reg), Issues i s → transferTarget s i = some (target, link) →
    (∀ l < 32, (s.executing i).getLsbD l = true → TargetHeld s (target l)) →
    ∃ t, exec i s = .next t ∧ Computes i 1
      { v := fun r _ => link.bind (fun d => to64 d (returnAddress s) r), lane := fun l y => { y with pc := target l } } s t

/-- Word 0x7B60_0000 is `NOP`, of major 0x5B with D, A and B zero. In any state and under any guard it has no effect but to be passed; it uses no pipe,
charges no flag, names no register, and no place in a chain is barred to it (03 R79). -/
def Obligations.EmptyWord : Prop :=
  decodeWords 0x7B60_0000#32 0#32 = .ok (.nop { c := false, g := 7#3 }) ∧
  ∀ (p : Pfx), encode (.nop p) = [(p.bits ++ 0x5B#7 ++ 0#7 ++ 0#7 ++ 0#7 : BitVec 32)] ∧
    (∀ s, exec (.nop p) s = .next (s.advance 1)) ∧ isFlagA (.nop p) = false ∧ isFlagB (.nop p) = false ∧
    ∀ (pc : DWord) (w1 : Word), let c : CWord := { pc := pc, w0 := p.bits ++ 0x5B#7 ++ 0#7 ++ 0#7 ++ 0#7, w1 := w1, op := 0x5B }
      c.pipe = none ∧ c.cells = [] ∧ c.mustEnd = false ∧
      (∀ rest, chainBad (c :: rest) = ((c.chains && decide (3 ≤ slotOf pc + 1)) || chainBad rest)) ∧
      ∀ b rest, b.mustEnd = false → chainBad (b :: c :: rest) = (chainBad (b :: rest) || chainBad (c :: rest))

/-- A word that no lane executes moves its fragment past itself and does nothing else (00 R11). -/
def Obligations.IdleWords : Prop :=
  ∀ (i : Instr) (s : State), guarded i = true → s.executing i = 0#32 → exec i s = .next (s.advance (encode i).length)

/-- What stops a word before its own effect, in the order of 03 R84: a privileged word in user mode, a v register at or above the
allocated count (01 R14), and an instruction that a transaction forbids (11 R258). -/
def Obligations.StoppedWords : Prop :=
  ∀ (i : Instr) (s : State), guarded i = true → s.cur.sp < s.spindles.length → (s.spindle s.cur.sp).lanes.length = 32 →
    s.executing i ≠ 0#32 → CanFault (s.executing i) s →
    (needsPriv i = true → (∀ l < 32, (s.executing i).getLsbD l = true → (s.lane s.cur.sp l).priv = false) →
      ∃ u, exec i s = .next (rcvEvalAll u s.cur.sp) ∧ Parks (s.executing i) (encode i).length 0x19#8 0#7 0#64 s u) ∧
    ((needsPriv i = true → ∀ l < 32, (s.executing i).getLsbD l = true → (s.lane s.cur.sp l).priv = true) →
      overVcount i (s.spindle s.cur.sp).vcount = true →
      ∃ u, exec i s = .next (rcvEvalAll u s.cur.sp) ∧ Parks (s.executing i) (encode i).length 0x02#8 0#7 0#64 s u) ∧
    ((needsPriv i = true → ∀ l < 32, (s.executing i).getLsbD l = true → (s.lane s.cur.sp l).priv = true) →
      overVcount i (s.spindle s.cur.sp).vcount = false → txForbidden i = true →
      (∀ l < 32, (s.executing i).getLsbD l = true → (s.lane s.cur.sp l).tx = true) →
      ∃ u, exec i s = .next (rcvEvalAll u s.cur.sp) ∧ Parks (s.executing i) (encode i).length 0x02#8 0#7 0#64 s u)

/-- The words that are no instruction raise their faults (03 R83): a reserved major in `exec_lanes()`, the zero word in every lane. In handler
context such a fault kills the team (11 R273). -/
def Obligations.NoInstruction : Prop :=
  ∀ (s : State) (p : Pfx) (op : BitVec 7) (rest : BitVec 21),
    (Issues (.reservedMajor p op rest) s → CanFault (s.executing (.reservedMajor p op rest)) s →
      ∃ u, exec (.reservedMajor p op rest) s = .next (rcvEvalAll u s.cur.sp) ∧ Parks (s.executing (.reservedMajor p op rest)) 1 0x01#8 0#7 0#64 s u) ∧
    (s.cur.sp < s.spindles.length → (s.spindle s.cur.sp).lanes.length = 32 → CanFault s.cur.lanes s →
      ∃ u, exec .zeroWord s = .next (rcvEvalAll u s.cur.sp) ∧
        Touches (inFragment s (fun l y => { parkedLane s 0 l 0x05#8 0#7 0#64 with stamp := y.stamp })) s u) ∧
    (Issues (.reservedMajor p op rest) s → (s.spindle s.cur.sp).trapped ≠ none → (s.spindle s.cur.sp).st ≠ .ended →
      (s.spindle s.cur.sp).team < s.teams.length → (s.team (s.spindle s.cur.sp).team).st = .running →
      ∃ t, exec (.reservedMajor p op rest) s = .next t ∧ (t.team (s.spindle s.cur.sp).team).st = .killed ∧ (t.spindle s.cur.sp).st = .ended)

/-- `TRAP n` faults SOFTWARE in its executing lanes and records n (11 R275). -/
def Obligations.SoftwareTrap : Prop :=
  decodeWords 0x7B80_0005#32 0#32 = .ok (.trap { c := false, g := 7#3 } 5#7) ∧
  ∀ (p : Pfx) (n : BitVec 7) (s : State),
    encode (.trap p n) = [(p.bits ++ 0x5C#7 ++ 0#14 ++ n : BitVec 32)] ∧
    (Issues (.trap p n) s → CanFault (s.executing (.trap p n)) s →
      ∃ u, exec (.trap p n) s = .next (rcvEvalAll u s.cur.sp) ∧ Parks (s.executing (.trap p n)) 1 0x18#8 n 0#64 s u)

/-- A fragment passes a header whose WAIT flags are clear, its spindle as the youngest under YH, and stops at one with a flag that is not; a header
takes no issue, so the lanes keep their stamps (03 R74; 12 R280). -/
def Obligations.Headers : Prop :=
  ∀ (wait : BitVec 12) (fa fb : BitVec 4) (yh : Bool) (s : State), s.cur.sp < s.spindles.length → (s.spindle s.cur.sp).lanes.length = 32 →
    (Waits s wait → ∃ t, exec (.clauseHeader wait fa fb yh) s = .next t ∧
      Touches (inFragment s (fun _ y => { y with st := .header, pc := s.cur.pc })) s t) ∧
    (¬ Waits s wait → ∃ u, exec (.clauseHeader wait fa fb yh) s = .next (if yh then youngest u s.cur.sp else u) ∧
      Touches (inFragment s (fun _ y => { y with st := .eligible, pc := s.cur.pc + 4#64 })) s u)

/-- `YIELD` makes the spindle the youngest, and `SLEEP n` in cycle t makes the executing lanes sleep until cycle t + n + 1, the first in which they can
be picked; `SLEEP 0` delays nothing (05 R126). -/
def Obligations.Pauses : Prop :=
  ∀ (s : State) (p : Pfx) (n : BitVec 14),
    (Issues (.yield p) s → ∃ u, exec (.yield p) s = .next (youngest u s.cur.sp) ∧ Computes (.yield p) 1 {} s u) ∧
    (Issues (.sleep p 0#14) s → ∃ t, exec (.sleep p 0#14) s = .next t ∧ Computes (.sleep p 0#14) 1 {} s t) ∧
    (Issues (.sleep p n) s → n ≠ 0#14 → ∃ u, exec (.sleep p n) s = .next (rcvEvalAll u s.cur.sp) ∧
      Computes (.sleep p n) 1 { lane := fun _ y => { y with st := .sleeping (s.clock.cycle + n.toNat + 1) } } s u)

/-- `EXIT` ends the executing lanes, with their requests for a token; the team's barriers and the reconvergence barriers are then
evaluated. In handler context it kills the team. A speculative ordered thread waits for its domain's token, or, with a number behind NEXT, raises
RESERVED_FIELD and loses its transaction; a serial one ends once its NEXT is written (05 R122, R124; 07 R178; 11 R273; 14 R336-R339). -/
def Obligations.Exits : Prop :=
  ∀ (s : State) (p : Pfx), Issues (.exit p) s →
    let team := (s.spindle s.cur.sp).team
    ((s.spindle s.cur.sp).trapped = none → (∀ l < 32, (s.executing (.exit p)).getLsbD l = true → (s.lane s.cur.sp l).spec = false) →
      ∃ u, exec (.exit p) s = .next (settleIssue (.exit p) (s.executing (.exit p))
          (evalBarriers { u with tokens := s.tokens.filter (fun k => !(k.sp == s.cur.sp && (s.executing (.exit p)).getLsbD k.lane)) } team)) ∧
        Touches (fun l y => if (s.executing (.exit p)).getLsbD l then exitedLane s (movedLane s 1 l) else inFragment s (fun l _ => movedLane s 1 l) l y) s u) ∧
    ((s.spindle s.cur.sp).trapped ≠ none → team < s.teams.length → (s.team team).st.over = false →
      ∃ t, exec (.exit p) s = .next t ∧ (t.team team).st = .killed ∧ (t.spindle s.cur.sp).st = .ended) ∧
    (∀ l s1 next, l < 32 → (s.spindle s.cur.sp).trapped = none → (s.spindle s.cur.sp).st ≠ .ended → s.executing (.exit p) = laneBit l →
      (s.lane s.cur.sp l).spec = true → (s.lane s.cur.sp l).tx = true → DomainGood s →
      domainNext (s.advance 1) s.cur.sp (s.spindle s.cur.sp).domain = .ok s1 (next, 0#4) →
      ∃ u, exec (.exit p) s = .next (settleIssue (.exit p) (laneBit l) (evalBarriers u team)) ∧ MemoryOnly (s.advance 1) s1 ∧
        (∀ k < 32, u.lane s.cur.sp k = if k = l then
            (if behind (s.lane s.cur.sp l).seq next then { parkedLane s 1 l 0x02#8 0#7 0#64 with tx := false, txn := none } else atCommit s l)
          else inFragment s (fun k _ => movedLane s 1 k) k (s.lane s.cur.sp k)) ∧
        (behind (s.lane s.cur.sp l).seq next = false → ∃ k ∈ u.tokens, k.sp = s.cur.sp ∧ k.lane = l) ∧
        ∃ ls tk, u = { s1.modSp s.cur.sp (fun sp => { sp with lanes := ls }) with tokens := tk }) ∧
    (∀ l s1, l < 32 → (s.spindle s.cur.sp).trapped = none → s.executing (.exit p) = laneBit l → (s.lane s.cur.sp l).spec = true → (s.lane s.cur.sp l).tx = false →
      (s.lane s.cur.sp l).serial = true →
      bumpNext ((coreRelease (s.advance 1) (s.spindle s.cur.sp).core).modLane s.cur.sp l (fun y => { y with pc := s.cur.pc })) s.cur.sp l = .ok s1 () →
      exec (.exit p) s = .next (settleIssue (.exit p) (laneBit l) (evalBarriers (exitLane s1 s.cur.sp l) team)))

/-- `RCVB wN` records its executing lanes, and `RCVW wN` holds its participants at the word; the barrier is then evaluated: `evaluate(N)` releases
every held lane as one fragment's lanes when the barrier is complete, and does nothing otherwise (05 R124). -/
def Obligations.Reconvergence : Prop :=
  ∀ (s : State),
    (∀ p d park, Issues (.rcvb p d park) s → ∃ u, exec (.rcvb p d park) s =
        .next (settleIssue (.rcvb p d park) (s.executing (.rcvb p d park)) (rcvEval u s.cur.sp d.toNat)) ∧
      (∀ l < 32, u.lane s.cur.sp l = inFragment s (fun l _ => movedLane s 1 l) l (s.lane s.cur.sp l)) ∧
      SetsBarrier d.toNat (s.executing (.rcvb p d park)) ((s.spindle s.cur.sp).lanesIn (fun st => st == .held (.rcvw d.toNat))) park
        { s.spindle s.cur.sp with lanes := (u.spindle s.cur.sp).lanes } (u.spindle s.cur.sp) ∧
      u = s.modSp s.cur.sp (fun _ => u.spindle s.cur.sp)) ∧
    (∀ p d, Issues (.rcvw p d) s → ∃ u, exec (.rcvw p d) s = .next (settleIssue (.rcvw p d) (s.executing (.rcvw p d)) (rcvEval u s.cur.sp d.toNat)) ∧
      (∀ l < 32, u.lane s.cur.sp l =
        if ((s.executing (.rcvw p d)) &&& (s.spindle s.cur.sp).wParticipants d.toNat).getLsbD l
        then { movedLane s 1 l with st := .held (.rcvw d.toNat), pc := s.cur.pc }
        else inFragment s (fun l _ => movedLane s 1 l) l (s.lane s.cur.sp l)) ∧
      SetsBarrier d.toNat ((s.spindle s.cur.sp).wParticipants d.toNat)
        ((s.spindle s.cur.sp).wArrived d.toNat ||| (s.executing (.rcvw p d) &&& (s.spindle s.cur.sp).wParticipants d.toNat))
        ((s.spindle s.cur.sp).wpark.getLsbD d.toNat) { s.spindle s.cur.sp with lanes := (u.spindle s.cur.sp).lanes } (u.spindle s.cur.sp) ∧
      u = s.modSp s.cur.sp (fun _ => u.spindle s.cur.sp)) ∧
    (∀ i n, i < s.spindles.length → (s.spindle i).lanes.length = 32 → n < 8 →
      (Complete s i n →
        (∀ l < 32, (rcvEval s i n).lane i l = if (s.lane i l).st = .held (.rcvw n)
          then { s.lane i l with st := .eligible, pc := (s.lane i l).pc + 4#64, stamp := s.clock.cycle } else s.lane i l) ∧
        ((rcvEval s i n).spindle i).wArrived n = 0#32 ∧
        ∃ a ls, rcvEval s i n = s.modSp i (fun sp => { sp with warr := a, lanes := ls })) ∧
      (¬ Complete s i n → rcvEval s i n = s))

/-- A load whose lanes the core's L1 serves starts one operation that will write the loaded bytes, extended, and changes nothing else; and one
whose lanes all fail a check parks them with its cause and their records, and starts nothing (07 R147-R155; 12 R297). That the bytes are those at issue is log
entry 20. -/
def Obligations.Loads : Prop :=
  ∀ (s : State) (p : Pfx) (d a : Reg) (sz : BitVec 3) (sx atm : Bool) (lc : BitVec 3) (off : BitVec 24) (f : Nat) (va : Nat → DWord) (e : Nat → DWord)
    (line : Nat → Line) (cause : Nat → BitVec 8) (rights : Nat → BitVec 16), Issues (.ld p d a sz sx atm lc off) s → ChargesFlag s 2 true f →
    (∀ l, va l = BitVec.ofInt 64 (((s.spindle s.cur.sp).getD a.toNat l).toInt + off.toInt)) →
    ((∀ l < 32, (s.executing (.ld p d a sz sx atm lc off)).getLsbD l = true → (s.lane s.cur.sp l).tx = false ∧ Allowed s (va l) (2 ^ sz.toNat) needR (e l) ∧
        ServedByL1 s (va l) (2 ^ sz.toNat) (min lc.toNat (leafLcap (e l))) (line l)) →
      ∃ t, exec (.ld p d a sz sx atm lc off) s = .next t ∧ Pends (.ld p d a sz sx atm lc off) 2 f
        { v := fun r l => loaded d sz.toNat sx (lineBytesGet (line l).data (offOf (va l)) (2 ^ sz.toNat)) r } (s.spindle s.cur.sp).bankconf s.mem s t) ∧
    (CanFault (s.executing (.ld p d a sz sx atm lc off)) s →
      (∀ l < 32, (s.executing (.ld p d a sz sx atm lc off)).getLsbD l = true → Refused s (va l) (2 ^ sz.toNat) needR (s.lane s.cur.sp l).tx (cause l) (rights l)) →
      ∃ u, exec (.ld p d a sz sx atm lc off) s = .next (settleIssue (.ld p d a sz sx atm lc off) (s.executing (.ld p d a sz sx atm lc off)) u) ∧
        ParksAt (s.executing (.ld p d a sz sx atm lc off)) 2 (accField sz.toNat false false) cause va rights s u)

/-- A store that needs no home and for whose lines the core's L1 has room puts its lanes' bytes, the highest lane's last, into the core's own copies
as dirty bytes; no other byte of any copy, no other part of memory and no register changes. One whose lanes all fail a check parks them with its cause and their
records, and stores nothing (07 R148, R153; 00 R11; 12 R297; 13 R303). -/
def Obligations.Stores : Prop :=
  ∀ (s : State) (p : Pfx) (a b : Reg) (sz : BitVec 3) (atm : Bool) (off : BitVec 24) (va : Nat → DWord) (e : Nat → DWord) (cause : Nat → BitVec 8)
    (rights : Nat → BitVec 16), Issues (.st p a b sz atm off) s →
    (∀ l, va l = BitVec.ofInt 64 (((s.spindle s.cur.sp).getD a.toNat l).toInt + off.toInt)) →
    ((s.teamOf s.cur.sp).rollb = false → (s.mem.l1.filter (fun x => x.core == s.me.core)).length + 32 ≤ Config.l1Lines →
      (∀ l < 32, (s.executing (.st p a b sz atm off)).getLsbD l = true → (s.lane s.cur.sp l).tx = false ∧ Allowed s (va l) (2 ^ sz.toNat) needW (e l) ∧
        WritesInL1 s (va l) (e l)) →
      ∃ l1, exec (.st p a b sz atm off) s = .next { s.advance 2 with mem := { s.mem with l1 := l1 } } ∧
        ∀ core ea ln, ∀ k < 128, copyByte l1 core ea ln k =
          match (if core = s.me.core then lastLane (s.executing (.st p a b sz atm off)) (fun l =>
            storedByte s (va l) (2 ^ sz.toNat) ((s.spindle s.cur.sp).getQ b.toNat l).toNat ea ln k) else none) with
          | some v => some (v, true)
          | none => copyByte s.mem.l1 core ea ln k) ∧
    (CanFault (s.executing (.st p a b sz atm off)) s →
      (∀ l < 32, (s.executing (.st p a b sz atm off)).getLsbD l = true → Refused s (va l) (2 ^ sz.toNat) needW (s.lane s.cur.sp l).tx (cause l) (rights l)) →
      ∃ u, exec (.st p a b sz atm off) s = .next (settleIssue (.st p a b sz atm off) (s.executing (.st p a b sz atm off)) u) ∧
        ParksAt (s.executing (.st p a b sz atm off)) 2 (accField sz.toNat true false) cause va rights s u)

/-- A scratchpad load, while no command of its team has written the scratchpad, starts one operation that will write its bytes, those at issue (log
entry 20); BANKCONF counts the bank conflicts (07 R158, R159; 08 R191). -/
def Obligations.ScratchLoads : Prop :=
  ∀ (s : State) (p : Pfx) (d a : Reg) (sz : BitVec 3) (sx : Bool) (f : Nat) (key : Nat → Nat),
    Issues (.lds p d a sz sx) s → ChargesFlag s 1 true f → (∀ c ∈ s.cmds, c.team = (s.spindle s.cur.sp).team → c.scratchNew = []) →
    (∀ l < 32, (s.executing (.lds p d a sz sx)).getLsbD l = true → scratchAt s ((s.spindle s.cur.sp).getV a.toNat l) (2 ^ sz.toNat) (key l) ∧
      ∀ j ∈ scratchSectors (key l) (2 ^ sz.toNat), j ∉ (s.teamOf s.cur.sp).scratchPoison) →
    ∃ t, exec (.lds p d a sz sx) s = .next t ∧ Pends (.lds p d a sz sx) 1 f
      { v := fun r l => loaded d sz.toNat sx (bytesGet (s.teamOf s.cur.sp).scratch (key l) (2 ^ sz.toNat)) r }
      (satAdd (s.spindle s.cur.sp).bankconf (bankExtra ((lanesOf (s.executing (.lds p d a sz sx))).map (fun l => (key l, 2 ^ sz.toNat))))) s.mem s t

/-- A scratchpad store, while no command of its team has written the scratchpad, puts its lanes' bytes, the highest lane's last, and clears the marks of
the sectors it covers; no other byte, register or team changes. An open interval notes the 128-byte units that it writes (07 R158, R159; 21 R434,
R438). -/
def Obligations.ScratchStores : Prop :=
  ∀ (s : State) (p : Pfx) (sz : BitVec 3) (a b : Reg) (key : Nat → Nat), Issues (.sts p sz a b) s → (s.spindle s.cur.sp).team < s.teams.length →
    (∀ c ∈ s.cmds, c.team = (s.spindle s.cur.sp).team → c.scratchNew = []) →
    (∀ l < 32, (s.executing (.sts p sz a b)).getLsbD l = true → scratchAt s ((s.spindle s.cur.sp).getV a.toNat l) (2 ^ sz.toNat) (key l)) →
    let bank : State := (s.advance 1).modSp s.cur.sp (fun sp =>
      { sp with bankconf := satAdd sp.bankconf (bankExtra ((lanesOf (s.executing (.sts p sz a b))).map (fun l => (key l, 2 ^ sz.toNat)))) })
    ∃ scratch poison units, ∃ old : Cmd → Cells 8, exec (.sts p sz a b) s = .next
      (({ bank with cmds := s.cmds.map (fun c => { c with scratchOld := old c }) } : State).modTeam (s.spindle s.cur.sp).team
        (fun t => { t with scratch := scratch, scratchPoison := poison, snap := t.snap.map (fun x => { x with units := units }) })) ∧
      (∀ x, (s.teamOf s.cur.sp).snap = some x → ∀ u, u ∈ units ↔ u ∈ x.units ∨
        ∃ l < 32, (s.executing (.sts p sz a b)).getLsbD l = true ∧ u = SnapUnit.scratch (key l / 128)) ∧
      (∀ k, cellGet scratch k = (lastLane (s.executing (.sts p sz a b)) (fun l => if key l ≤ k ∧ k < key l + 2 ^ sz.toNat
        then some (BitVec.ofNat 8 (((s.spindle s.cur.sp).getQ b.toNat l).toNat / 2 ^ (8 * (k - key l)))) else none)).getD
          (cellGet (s.teamOf s.cur.sp).scratch k)) ∧
      (∀ j, j ∈ poison ↔ j ∈ (s.teamOf s.cur.sp).scratchPoison ∧
        ∃ k < 32, ∀ l < 32, (s.executing (.sts p sz a b)).getLsbD l = true → ¬ (key l ≤ 32 * j + k ∧ 32 * j + k < key l + 2 ^ sz.toNat)) ∧
      (∀ c ∈ s.cmds, c.team ≠ (s.spindle s.cur.sp).team → old c = c.scratchOld)

/-- Atomics on lines that stand at their homes act lane by lane in ascending order, and one operation will write the old values;
beside the bytes at home, the access counters and the requests metered nothing changes (07 R160-R163, R168; 00 R11). That they act at issue is log
entry 20. -/
def Obligations.Atomics : Prop :=
  ∀ (i : Instr) (s : State) (f : Nat) (g : AtomForm) (va : Nat → DWord) (e : Nat → DWord), Issues i s → ChargesFlag s 2 true f →
    atomForm (s.spindle s.cur.sp) i = some g → (s.teamOf s.cur.sp).rollb = false → NoRegions s g.scope (g.ord != 0#2) →
    (∀ l, va l = BitVec.ofInt 64 (((s.spindle s.cur.sp).getD g.a.toNat l).toInt + g.off.toInt)) →
    (∀ l < 32, (s.executing i).getLsbD l = true →
      Allowed s (va l) g.n needRW (e l) ∧ scopeOk (leafClass (e l)) g.scope = true ∧ AtHome s (va l) g.n) →
    let run := atomics (fun l => (s.eaAt (va l), lnOf (va l), offOf (va l))) g.n g.new (lanesOf (s.executing i)) (homeBytes s.mem)
    ∃ t home counters served, exec i s = .next t ∧ (∀ ea ln, homeBytes t.mem ea ln = run.1 ea ln) ∧
      Pends i 2 f { v := fun r l => g.res l (run.2 l) r, p := fun q l => g.pred l (run.2 l) q }
        (s.spindle s.cur.sp).bankconf { s.mem with home := home, counters := counters, served := served } s t

/-- A `WAITC` whose word stands at its home writes the value in lanes whose compare holds, and the others wait at the word with their
watch (07 R169). -/
def Obligations.MemoryWaits : Prop :=
  ∀ (s : State) (p : Pfx) (d a b : Reg) (cmp : BitVec 4) (w64 acq : Bool) (scope : BitVec 3) (off : BitVec 14) (va : Nat → DWord) (e : Nat → DWord)
    (x : Nat → DWord),
    Issues (.waitc p d a b cmp w64 acq scope off) s → NoRegions s scope acq →
    (∀ l, va l = BitVec.ofInt 64 (((s.spindle s.cur.sp).getD a.toNat l).toInt + off.toInt)) →
    (∀ l < 32, (s.executing (.waitc p d a b cmp w64 acq scope off)).getLsbD l = true → (acq = true → scopeOk (leafClass (e l)) scope = true) ∧
      Allowed s (va l) (if w64 then 8 else 4) needR (e l) ∧ AtHome s (va l) (if w64 then 8 else 4) ∧
      x l = BitVec.ofNat 64 (lineBytesGet ((homeBytes s.mem (s.eaAt (va l)) (lnOf (va l))).getD 0#1024) (offOf (va l)) (if w64 then 8 else 4))) →
    let holds (l : Nat) : Bool := if w64 then compares cmp (x l) ((s.spindle s.cur.sp).getD b.toNat l)
      else compares cmp ((x l).setWidth 32) ((s.spindle s.cur.sp).getV b.toNat l)
    ∃ u counters served, exec (.waitc p d a b cmp w64 acq scope off) s =
        .next (settleIssue (.waitc p d a b cmp w64 acq scope off) (s.executing (.waitc p d a b cmp w64 acq scope off)) u) ∧
      (∀ reg, ∀ l < 32, (u.spindle s.cur.sp).getV reg l =
        if (s.executing (.waitc p d a b cmp w64 acq scope off)).getLsbD l && holds l then (toVD w64 d (x l) reg).getD ((s.spindle s.cur.sp).getV reg l)
        else (s.spindle s.cur.sp).getV reg l) ∧
      (∀ l < 32, u.lane s.cur.sp l =
        if (s.executing (.waitc p d a b cmp w64 acq scope off)).getLsbD l && !holds l then
          { movedLane s 2 l with
            st := .waiting, pc := s.cur.pc, monitor := some (watchOf s (va l) cmp w64 acq scope ((s.spindle s.cur.sp).getVD w64 b.toNat l) d) }
        else if s.cur.lanes.getLsbD l then movedLane s 2 l else s.lane s.cur.sp l) ∧
      ∃ v ls, u = { s.modSp s.cur.sp (fun sp => { sp with v := v, lanes := ls }) with mem := { s.mem with counters := counters, served := served } }

/-- Write-backs leave no dirty byte in the copies they name, invalidations leave no unowned copy but sealed ones, and neither changes
anything but memory (07 R165-R167; 13 R303, R305). -/
def Obligations.CopyControl : Prop :=
  ∀ (s : State) (sel : Nat → Nat → Nat → Bool),
    (MemoryOnly s (wbLines s (fun x => sel x.core x.ea x.ln)) ∧
      ∀ core ea ln x, sel core ea ln = true → l1Find (wbLines s (fun x => sel x.core x.ea x.ln)).mem core ea ln = some x → x.line.dirty = 0#128) ∧
    (MemoryOnly s (invLines s (fun x => sel x.core x.ea x.ln)) ∧
      ∀ core ea ln x, sel core ea ln = true → l1Find (invLines s (fun x => sel x.core x.ea x.ln)).mem core ea ln = some x →
        x.owned = true ∨ x.isSealed = true)

/-- `FENCE` writes back, under REL, and invalidates, under ACQ, the core's L1 at `.team` and wider scopes, and holds its executing lanes
(07 R167, R151), as log entry 21 says. -/
def Obligations.Fences : Prop :=
  ∀ (s : State) (p : Pfx) (kind : BitVec 2) (scope : BitVec 3), Issues (.fence p kind scope) s →
    ∃ w, MemoryOnly (s.advance 1) w ∧
      exec (.fence p kind scope) s = .next (settleIssue (.fence p kind scope) (s.executing (.fence p kind scope))
        (w.modLanes s.cur.sp (s.executing (.fence p kind scope)) (fun _ y => heldLane s 1 y))) ∧
      (scope = 0#3 → w = s.advance 1) ∧
      (scope ≠ 0#3 → kind.getLsbD 0 = true → ∀ ea ln x, l1Find w.mem (s.spindle s.cur.sp).core ea ln = some x → x.line.dirty = 0#128) ∧
      (scope ≠ 0#3 → kind.getLsbD 1 = true → ∀ ea ln x, l1Find w.mem (s.spindle s.cur.sp).core ea ln = some x → x.owned = true ∨ x.isSealed = true)

/-- `ACQ` and `REL` of objects at their homes, without bound regions: the object's value goes to dD, or dB goes to the object lane by
lane, and the executing lanes are held (07 R165, R166, R151), as log entry 21 says. -/
def Obligations.Synchronisation : Prop :=
  ∀ (s : State) (p : Pfx) (d a b : Reg) (scope : BitVec 3) (off : BitVec 14) (va : Nat → DWord) (e : Nat → DWord),
    (∀ l, va l = BitVec.ofInt 64 (((s.spindle s.cur.sp).getD a.toNat l).toInt + off.toInt)) → NoRegions s scope true →
    (Issues (.acq p d a scope off) s →
      (∀ l < 32, (s.executing (.acq p d a scope off)).getLsbD l = true →
        Allowed s (va l) 8 needR (e l) ∧ scopeOk (leafClass (e l)) scope = true ∧ AtHome s (va l) 8) →
      ∃ u counters served, exec (.acq p d a scope off) s = .next (settled s u) ∧ Computes (.acq p d a scope off) 2
        { v := fun r l => to64 d (BitVec.ofNat 64 (lineBytesGet ((homeBytes s.mem (s.eaAt (va l)) (lnOf (va l))).getD 0#1024) (offOf (va l)) 8)) r,
          lane := fun _ y => heldLane s 2 y } s { u with mem := s.mem } ∧ u.mem = { s.mem with counters := counters, served := served }) ∧
    (Issues (.rel p a b scope off) s → (s.teamOf s.cur.sp).rollb = false →
      (∀ l < 32, (s.executing (.rel p a b scope off)).getLsbD l = true →
        Allowed s (va l) 8 needW (e l) ∧ scopeOk (leafClass (e l)) scope = true ∧ AtHome s (va l) 8) →
      ∃ u home counters served, exec (.rel p a b scope off) s = .next (settled s u) ∧
        Computes (.rel p a b scope off) 2 { lane := fun _ y => heldLane s 2 y } s { u with mem := s.mem } ∧
        u.mem = { s.mem with home := home, counters := counters, served := served } ∧
        ∀ ea ln, homeBytes u.mem ea ln = (atomics (fun l => (s.eaAt (va l), lnOf (va l), offOf (va l))) 8
          (fun l _ => ((s.spindle s.cur.sp).getD b.toNat l).toNat) (lanesOf (s.executing (.rel p a b scope off))) (homeBytes s.mem)).1 ea ln)

/-- `BIND` without a table or a length gives 0xFFFF_FFFF; with a free entry it writes the entry and gives its index. `UNBIND` of no entry
changes nothing, and of a valid one clears its VALID bit. The executing lanes are held (07 R164, R151), as log entry 21 says. -/
def Obligations.Bindings : Prop :=
  ∀ (s : State) (p : Pfx) (d a b lr : Reg),
    (Issues (.bind p d a b lr) s →
      (∀ l < 32, (s.executing (.bind p d a b lr)).getLsbD l = true →
        ((s.spindle s.cur.sp).getD a.toNat l).toNat % 128 = 0 ∧ ((s.spindle s.cur.sp).getD b.toNat l).toNat % 8 = 0) →
      (bindTable s s.cur.sp = none ∨
        ∀ l < 32, (s.executing (.bind p d a b lr)).getLsbD l = true → (s.spindle s.cur.sp).getV lr.toNat l = 0#32) →
      ∃ u, exec (.bind p d a b lr) s = .next (settled s u) ∧
        Computes (.bind p d a b lr) 2 { v := fun r _ => to32 d 0xFFFF_FFFF#32 r, lane := fun _ y => heldLane s 2 y } s u) ∧
    (∀ l k tab n s1 s2, Issues (.bind p d a b lr) s → s.executing (.bind p d a b lr) = laneBit l → l < 32 →
      ((s.spindle s.cur.sp).getD a.toNat l).toNat % 128 = 0 → ((s.spindle s.cur.sp).getD b.toNat l).toNat % 8 = 0 →
      bindTable s s.cur.sp = some (tab, n) → (s.spindle s.cur.sp).getV lr.toNat l ≠ 0#32 →
      freeBinding (s.advance 2) s.cur.sp tab n = .ok s1 (some k) →
      bindWrite s1 l (tab + BitVec.ofNat 64 (32 * k)) 32 5 (((s.spindle s.cur.sp).getD b.toNat l).toNat + 1 +
        2 ^ 64 * ((s.spindle s.cur.sp).getD a.toNat l).toNat + 2 ^ 128 * ((s.spindle s.cur.sp).getV lr.toNat l).toNat) = .ok s2 () →
      MemoryOnly (s.advance 2) s2 ∧
      exec (.bind p d a b lr) s = .next (settleIssue (.bind p d a b lr) (laneBit l)
        (held s (s2.modSp s.cur.sp (fun sp => sp.setV d.toNat l (BitVec.ofNat 32 k))) 2 (laneBit l)))) ∧
    (Issues (.unbind p a) s →
      (∀ l < 32, (s.executing (.unbind p a)).getLsbD l = true → ∀ tab n, bindTable s s.cur.sp = some (tab, n) → n ≤ ((s.spindle s.cur.sp).getV a.toNat l).toNat) →
      ∃ u, exec (.unbind p a) s = .next (settled s u) ∧ Computes (.unbind p a) 2 { lane := fun _ y => heldLane s 2 y } s u) ∧
    (∀ l tab n v s1 s2, Issues (.unbind p a) s → s.executing (.unbind p a) = laneBit l → l < 32 → bindTable s s.cur.sp = some (tab, n) →
      ((s.spindle s.cur.sp).getV a.toNat l).toNat < n →
      devRead (s.advance 2) s.me (tab + BitVec.ofNat 64 (32 * ((s.spindle s.cur.sp).getV a.toNat l).toNat)) 8 = .ok s1 v → v % 2 = 1 →
      bindWrite s1 l (tab + BitVec.ofNat 64 (32 * ((s.spindle s.cur.sp).getV a.toNat l).toNat)) 8 3 (v - 1) = .ok s2 () →
      MemoryOnly (s.advance 2) s2 ∧ exec (.unbind p a) s = .next (settleIssue (.unbind p a) (laneBit l) (held s s2 2 (laneBit l))))

/-- The range operations start one operation once every page allows them: `CWB` leaves no dirty copy of the range in the core's L1,
`CINV` beside that only owned and sealed copies, and `CDIS` no copy in any L1 and no deferred bytes of the lines wholly inside, where no commit and no host
holds a line of the range; vD counts the lines whose dirty data it discards, for lanes whose ranges are whole lines and meet no other lane's (07 R172,
R173; 13 R305). That the copies go at issue is log entry 20, that vD takes the count alone log entry 109. -/
def Obligations.RangeOperations : Prop :=
  ∀ (s : State) (p : Pfx) (d a b : Reg) (f : Nat), ChargesFlag s 2 true f →
    let va (l : Nat) : DWord := (s.spindle s.cur.sp).getD a.toNat l
    let n (l : Nat) : Nat := ((s.spindle s.cur.sp).getV b.toNat l).toNat
    (Issues (.cwb p a b) s → (∀ l < 32, (s.executing (.cwb p a b)).getLsbD l = true → PagesAllowed s (va l) (n l) needR) →
      ∃ w, MemoryOnly (s.advance 2) w ∧ exec (.cwb p a b) s = .next (started s w f (s.executing (.cwb p a b)) []) ∧
        ∀ l < 32, (s.executing (.cwb p a b)).getLsbD l = true → ∀ ln x, lineMeets (va l) (n l) ln = true →
          l1Find w.mem s.me.core (s.eaAt (va l)) ln = some x → x.line.dirty = 0#128) ∧
    (Issues (.cinv p a b) s → (∀ l < 32, (s.executing (.cinv p a b)).getLsbD l = true → PagesAllowed s (va l) (n l) needR) →
      ∃ w, MemoryOnly (s.advance 2) w ∧ exec (.cinv p a b) s = .next (started s w f (s.executing (.cinv p a b)) []) ∧
        ∀ l < 32, (s.executing (.cinv p a b)).getLsbD l = true → ∀ ln x, lineMeets (va l) (n l) ln = true →
          l1Find w.mem s.me.core (s.eaAt (va l)) ln = some x → x.line.dirty = 0#128 ∧ (x.owned = true ∨ x.isSealed = true)) ∧
    (Issues (.cdis p d a b) s → s.mem.hostHeld = [] → (∀ l < 32, (s.executing (.cdis p d a b)).getLsbD l = true → PagesAllowed s (va l) (n l) needW ∧
        lockedAny s (fun ea ln => ea == s.eaAt (va l) && lineMeets (va l) (n l) ln) = false) →
      ∃ w, ∃ count : Nat → Nat, MemoryOnly (s.advance 2) w ∧ exec (.cdis p d a b) s = .next (started s w f (s.executing (.cdis p d a b))
          ((lanesOf (s.executing (.cdis p d a b))).map (fun l => (32 * d.toNat + l, BitVec.ofNat 32 (count l))))) ∧
        (∀ l < 32, (s.executing (.cdis p d a b)).getLsbD l = true → count l ≤ n l / 128 ∧ ∀ ln, n l ≠ 0 → lineInside (va l) (n l) ln = true →
          (∀ core, l1Find w.mem core (s.eaAt (va l)) ln = none) ∧ ∀ x, bufFind w.mem (s.eaAt (va l)) ln = some x → x.line.dirty = 0#128) ∧
        ((∀ l < 32, (s.executing (.cdis p d a b)).getLsbD l = true → (va l).toNat % 128 = 0 ∧ n l % 128 = 0 ∧
            ∀ k < 32, (s.executing (.cdis p d a b)).getLsbD k = true → k ≠ l → ∀ ln, s.eaAt (va k) = s.eaAt (va l) → lineMeets (va l) (n l) ln = true →
              lineMeets (va k) (n k) ln = false) →
          ∀ l < 32, (s.executing (.cdis p d a b)).getLsbD l = true →
            count l = (List.range (n l / 128)).countP (fun k => dirtyLine s (s.eaAt (va l)) (lnOf (va l) + k))))

/-- `SEAL` marks its pages sealed and leaves no owned and no dirty copy of them; `UNSEAL` unmarks them and leaves no copy at all; other pages keep
their seals, and the executing lanes are held (07 R174), as log entry 21 says. No commit holds a line of the pages, and for `SEAL` no host a line. -/
def Obligations.Seals : Prop :=
  ∀ (s : State) (p : Pfx) (a b : Reg) (un : Bool),
    let i : Instr := if un then .unseal p a b else .seal p a b
    let va (k : Nat) : DWord := (s.spindle s.cur.sp).getSD a.toNat + BitVec.ofNat 64 (4096 * k)
    let n : Nat := ((s.spindle s.cur.sp).getS b.toNat).toNat
    Issues i s → ((s.spindle s.cur.sp).getSD a.toNat).toNat % 4096 = 0 → (un = true ∨ s.mem.hostHeld = []) →
    (∀ k < n, lockedAny s (fun e ln => e == s.eaAt (va k) && pageOfLn ln == pageOf (va k)) = false) →
    (∀ k < n, canonical (va k) = true ∧ ∃ x, rightsFind s.mem s.me.core (s.eaAt (va k)) (pageOf (va k)) = some x ∧ leafW x.leaf = true) →
    ∃ w, (∃ m ts, w = { s.advance 2 with mem := m, teams := ts }) ∧ exec i s = .next (settleIssue i (s.executing i) (held s w 2 (s.executing i))) ∧
      (∀ k < n, sealedPage w.mem (s.eaAt (va k)) (pageOf (va k)) = !un) ∧
      (∀ ea page, (∀ k < n, ¬ (s.eaAt (va k) = ea ∧ pageOf (va k) = page)) → sealedPage w.mem ea page = sealedPage s.mem ea page) ∧
      (∀ k < n, ∀ core ln x, pageOfLn ln = pageOf (va k) → l1Find w.mem core (s.eaAt (va k)) ln = some x → un = false ∧ x.owned = false ∧ x.line.dirty = 0#128)

/-- `PREF` changes no register. While no commit and no host holds a line, the dies' links are up and the homes and buffers have room, it completes: it brings a line that stands at its home into the core's L1,
owned under X; and one that may not read, or that meets a sealed page with X, is dropped (07 R175). -/
def Obligations.Prefetches : Prop :=
  ∀ (s : State) (p : Pfx) (a : Reg) (lc : BitVec 3) (x : Bool), Issues (.pref p a lc x) s →
    (s.mem.hostHeld = [] → s.links.down = [] → s.mem.commits = [] → s.mem.home.length + s.mem.remote.length + 64 < Config.sliceLines →
      s.mem.buf.length < Config.bufferLines → ∃ t, exec (.pref p a lc x) s = .next t ∧ MemoryOnly (s.advance 1) t) ∧
    (∀ l e h t, l < 32 → s.executing (.pref p a lc x) = laneBit l → exec (.pref p a lc x) s = .next t →
      let va := (s.spindle s.cur.sp).getD a.toNat l
      (s.mem.l1.filter (fun y => y.core == s.me.core)).length < Config.l1Lines →
      Allowed s va 1 needR e → AtHome s va 128 → homeFind s.mem (s.eaAt va) (lnOf va) = some h → h.line.valid = BitVec.allOnes 128 →
      (if x then leafClass e ≠ 0 ∧ sealedPage s.mem (s.eaAt va) (pageOf va) = false else min lc.toNat (leafLcap e) ≠ 0 ∧ leaseLen s.leaseL1 (min lc.toNat (leafLcap e)) ≠ some 0) →
      ∃ y, l1Find t.mem s.me.core (s.eaAt va) (lnOf va) = some y ∧ y.owned = x ∧ y.line.data = h.line.data) ∧
    ((∀ l < 32, (s.executing (.pref p a lc x)).getLsbD l = true → let va := (s.spindle s.cur.sp).getD a.toNat l
        canonical va = false ∨ (x = true ∧ sealedPage s.mem (s.eaAt va) (pageOf va) = true ∧ ∃ e, Allowed s va 1 needR e)) →
      exec (.pref p a lc x) s = .next (s.advance 1))

/-- `TBAR` holds its lanes, and its spindle arrives, with its writes released, when all its live lanes are held there. Once every spindle with live
lanes has arrived the barrier releases every held lane of the team; until then it counts the arrivals (07 R178; 11 R272). That an arrival stands
until the release is log entry 91. A spawned spindle that issues it raises RESERVED_FIELD. -/
def Obligations.TeamBarrier : Prop :=
  ∀ (s : State),
    let team := (s.spindle s.cur.sp).team
    (∀ p, Issues (.tbar p) s →
      ((s.spindle s.cur.sp).idx < 512 → ∃ u, Touches (fun l y => if (s.executing (.tbar p)).getLsbD l then { movedLane s 1 l with st := .held .tbar, pc := s.cur.pc }
          else inFragment s (fun l _ => movedLane s 1 l) l y) s u ∧
        exec (.tbar p) s = .next (settleIssue (.tbar p) (s.executing (.tbar p)) (evalTbar u team))) ∧
      (512 ≤ (s.spindle s.cur.sp).idx → CanFault (s.executing (.tbar p)) s →
        ∃ u, exec (.tbar p) s = .next (rcvEvalAll u s.cur.sp) ∧ Parks (s.executing (.tbar p)) 1 0x02#8 0#7 0#64 s u) ∧
      ((s.spindle s.cur.sp).idx < 512 → Lacks (.tbar p) .tbar (s.members team) s → ∃ t, exec (.tbar p) s = .next t ∧ Waiting (.tbar p) .tbar s t) ∧
      ((s.team team).rollb = false → s.cur.sp ∈ s.members team → CompletesArrival (.tbar p) .tbar s →
        (∀ k ∈ s.members team, k ≠ s.cur.sp → (s.spindle k).standsAt .tbar = true) →
        ∃ t, exec (.tbar p) s = .next t ∧ Released (.tbar p) .tbar (s.members team) s t)) ∧
    (∀ t, t < s.teams.length → (∃ i ∈ s.members t, (s.spindle i).standsAt .tbar = false) →
      ((evalTbar s t).team t).tbcount = ((s.members t).filter (fun i => (s.spindle i).standsAt .tbar)).length ∧
      (∀ k, (evalTbar s t).spindle k = if k ∈ s.members t ∧ (s.spindle k).barred = none then { s.spindle k with barred := (s.spindle k).arrival }
        else s.spindle k) ∧
      ∀ k ∈ s.members t, (s.spindle k).barred = none → (s.spindle k).arrival ≠ none →
        ∀ ea ln x, l1Find (evalTbar s t).mem (s.spindle k).core ea ln = some x → x.line.dirty = 0#128) ∧
    (∀ t, t < s.teams.length → (s.team t).rollb = false → s.members t ≠ [] → (∀ i ∈ s.members t, (s.spindle i).standsAt .tbar = true) →
      ((evalTbar s t).team t).tbcount = 0 ∧
      ∀ i < s.spindles.length, (s.spindle i).lanes.length = 32 → ∀ l < 32, (evalTbar s t).lane i l =
        if i ∈ s.members t ∧ (s.lane i l).st = .held .tbar then releasedLane s (s.lane i l) else s.lane i l)

/-- The named barriers: `INIT` sets the expected count, an arrival counts or, as the last, toggles the phase and releases the lanes that wait
for it with the new token, and a wait goes on at once when its token's phase has ended. An arrival or a wait at a barrier that is not initialised, and an
`INIT` with a count that does not fit or while arrivals stand, raise RESERVED_FIELD (07 R179, R180; 01 R13, R19). -/
def Obligations.NamedBarriers : Prop :=
  ∀ (s : State) (p : Pfx) (d a : Reg),
    let team := (s.spindle s.cur.sp).team
    let b := s.nbar team d.toNat
    (∀ i, (i = .nbarArrive p d a ∨ i = .nbarWait p d a ∨ i = .nbarArriveWait p d a) ∧ b.init = false ∨
        i = .nbarInit p d a ∧ (((s.spindle s.cur.sp).getS a.toNat).toNat = 0 ∨ 1023 < ((s.spindle s.cur.sp).getS a.toNat).toNat ∨ b.arrived ≠ 0) →
      Issues i s → CanFault (s.executing i) s → ∃ u, exec i s = .next (rcvEvalAll u s.cur.sp) ∧ Parks (s.executing i) 1 0x02#8 0#7 0#64 s u) ∧
    (Issues (.nbarInit p d a) s → 0 < ((s.spindle s.cur.sp).getS a.toNat).toNat → ((s.spindle s.cur.sp).getS a.toNat).toNat ≤ 1023 → b.arrived = 0 →
      exec (.nbarInit p d a) s = .next ((s.advance 1).setNbar team d.toNat
        { init := true, expected := ((s.spindle s.cur.sp).getS a.toNat).toNat, arrived := 0, bytes := 0#48, phase := b.phase })) ∧
    (Issues (.nbarArrive p d a) s → b.init = true → ∃ w, MemoryOnly (s.advance 1) w ∧
      (∀ ea ln x, l1Find w.mem (s.spindle s.cur.sp).core ea ln = some x → x.line.dirty = 0#128) ∧
      exec (.nbarArrive p d a) s = .next (settleIssue (.nbarArrive p d a) (s.executing (.nbarArrive p d a))
        (nbarArrive (w.modSp s.cur.sp (fun sp => sp.setSD a.toNat b.token)) team d.toNat 0))) ∧
    (Issues (.nbarArriveWait p d a) s → b.init = true → ∃ w, MemoryOnly (s.advance 1) w ∧
      (∀ ea ln x, l1Find w.mem (s.spindle s.cur.sp).core ea ln = some x → x.line.dirty = 0#128) ∧
      exec (.nbarArriveWait p d a) s = .next (settleIssue (.nbarArriveWait p d a) (s.executing (.nbarArriveWait p d a))
        (nbarArrive (holdLanes (w.modSp s.cur.sp (fun sp => sp.setSD a.toNat b.token)) (s.executing (.nbarArriveWait p d a)) (.nbar d.toNat a.toNat b.phase))
          team d.toNat 0))) ∧
    (Issues (.nbarWait p d a) s → b.init = true → b.phase ≠ ((s.spindle s.cur.sp).getSD a.toNat).getLsbD 0 → ∃ w, MemoryOnly (s.advance 1) w ∧
      (∀ ea ln x, l1Find w.mem (s.spindle s.cur.sp).core ea ln = some x → x.owned = true ∨ x.isSealed = true) ∧
      exec (.nbarWait p d a) s = .next (w.modSp s.cur.sp (fun sp => sp.setSD a.toNat b.token))) ∧
    (Issues (.nbarWait p d a) s → b.init = true → b.phase = ((s.spindle s.cur.sp).getSD a.toNat).getLsbD 0 →
      ∃ u, exec (.nbarWait p d a) s = .next (rcvEvalAll u s.cur.sp) ∧
        Computes (.nbarWait p d a) 1 { lane := fun _ y => { y with st := .held (.nbar d.toNat a.toNat b.phase), pc := s.cur.pc } } s u)

/-- An arrival at a named barrier: short of the expected count it counts; the last one resets the count, toggles the phase and releases the
lanes of live spindles that wait for another phase, each spindle's register pair taking the new token (07 R179). -/
def Obligations.Arrivals : Prop :=
  ∀ (s : State) (t n bytes : Nat), t < s.teams.length → n < (s.team t).nbars.length →
    let b := s.nbar t n
    (b.arrived + 1 < b.expected → nbarArrive s t n bytes = s.setNbar t n { b with arrived := b.arrived + 1, bytes := b.bytes + BitVec.ofNat 48 bytes }) ∧
    (b.expected ≤ b.arrived + 1 →
      (nbarArrive s t n bytes).nbar t n = { b with arrived := 0, bytes := b.bytes + BitVec.ofNat 48 bytes, phase := !b.phase } ∧
      ∀ i, takesPart s t i → (s.spindle i).lanes.length = 32 →
        (∀ l < 32, (nbarArrive s t n bytes).lane i l = if waitsAt n (!b.phase) (s.lane i l).st then releasedLane s (s.lane i l) else s.lane i l) ∧
        ((∀ l < 32, ∀ k ph, (s.lane i l).st = .held (.nbar n k ph) → k % 2 = 0) →
          ∀ l < 32, ∀ k ph, (s.lane i l).st = .held (.nbar n k ph) → ph ≠ !b.phase →
            ((nbarArrive s t n bytes).spindle i).getSD k = ((nbarArrive s t n bytes).nbar t n).token) ∧
        (∀ r, (∀ l < 32, ∀ k ph, (s.lane i l).st = .held (.nbar n k ph) → ph ≠ !b.phase → r ≠ k ∧ r ≠ k + 1) →
          ((nbarArrive s t n bytes).spindle i).getS r = (s.spindle i).getS r) ∧
        ((nbarArrive s t n bytes).spindle i).v = (s.spindle i).v ∧ ((nbarArrive s t n bytes).spindle i).p = (s.spindle i).p)

/-- `GBAR n` holds the lanes of a member of group n, which goes on once every member with live lanes has arrived; a spindle that is no member
raises RESERVED_FIELD (07 R181). That an arrival stands until the release is log entry 91. -/
def Obligations.Groups : Prop :=
  ∀ (s : State) (p : Pfx) (n : BitVec 8) (mask : Nat) (s1 : State), Issues (.gbar p n) s →
    let team := (s.spindle s.cur.sp).team
    let m := (s.liveSpindles team).filter (fun i => mask.testBit (s.spindle i).idx)
    groupMask (s.advance 1) team n.toNat = .ok s1 mask →
    MemoryOnly (s.advance 1) s1 ∧
    (mask.testBit (s.spindle s.cur.sp).idx = true →
      exec (.gbar p n) s = .next (settleIssue (.gbar p n) (s.executing (.gbar p n))
        (evalGroup (holdLanes s1 (s.executing (.gbar p n)) (.gbar n.toNat)) team n.toNat mask)) ∧
      (Lacks (.gbar p n) (.gbar n.toNat) m s → ∃ t, exec (.gbar p n) s = .next t ∧ Waiting (.gbar p n) (.gbar n.toNat) s t) ∧
      (s.cur.sp ∈ m → CompletesArrival (.gbar p n) (.gbar n.toNat) s → (∀ k ∈ m, k ≠ s.cur.sp → (s.spindle k).standsAt (.gbar n.toNat) = true) →
        ∃ t, exec (.gbar p n) s = .next t ∧ Released (.gbar p n) (.gbar n.toNat) m s t)) ∧
    (mask.testBit (s.spindle s.cur.sp).idx = false → CanFault (s.executing (.gbar p n)) s →
      ∃ u, exec (.gbar p n) s = .next (rcvEvalAll u s.cur.sp) ∧ Parks (s.executing (.gbar p n)) 1 0x02#8 0#7 0#64 s u)

/-- An engine command whose operands fit is accepted, with the words that its registers hold, and its flag's count rises; while the queue is full
it waits, whatever its operands are (08 R183, R185, R187; 12 R281). A solo `MMA` carries its spindle's share of B, the registers of every live lane (08 R197).
A member of a gang opens a latch with its share, and the last one makes the command of all the shares; a spindle that its own list does not name, and one whose
list names a spindle of another rank, raise GANG_MISMATCH (08 R199). That the queue counts every command not completed is
log entry 52. -/
def Obligations.EngineCommands : Prop :=
  ∀ (s : State) (i : Instr) (e : Engine) (f : Nat) (ok : Prop), Issues i s → ChargesFlag s 2 false f → engineCommand s i = some (e, ok) →
    (ok → ¬ QueueFull s (s.spindle s.cur.sp).core e → ∃ t c, exec i s = .next t ∧ Accepts i 2 e f s s t c ∧ c.kregs = (s.spindle s.cur.sp).k ∧
      ∀ p d a b fmt amode zc tr ct, i = .mma p d a b fmt amode zc tr ct → ∃ sh, c.shares = [sh] ∧ GivesShare s b fmt sh) ∧
    (QueueFull s (s.spindle s.cur.sp).core e → ∃ t, exec i s = .next t ∧ StaysBack s t) ∧
    (∀ p d a b fmt amode zc tr ct, i = .mma p d a b fmt amode zc tr ct →
      let sp := s.spindle s.cur.sp
      2 ≤ gangSize sp.gang → sp.vpoison = [] → MmaFits s (gangSize sp.gang) d a fmt amode tr ct → ¬ QueueFull s sp.core .matrix →
      let clash := ∃ x ∈ s.spindles, x.team = sp.team ∧ x.st ≠ .ended ∧ gangNames sp.gang x.idx ∧ x.crank ≠ sp.crank
      (¬ gangNames sp.gang sp.idx ∨ clash → CanFault (s.executing i) s →
        ∃ u, exec i s = .next (rcvEvalAll u s.cur.sp) ∧ Parks (s.executing i) 2 0x16#8 0#7 0#64 s u) ∧
      (gangNames sp.gang sp.idx → ¬ clash → (∀ l ∈ s.latches, l.team = sp.team → ∀ m ∈ l.members, m.sp ≠ s.cur.sp) →
        ((∀ l ∈ coreLatches s, l.team = sp.team → ¬ gangNames l.gang sp.idx) → (coreLatches s).length < 8 →
          ∃ ls l m, exec i s = .next { s.modSp s.cur.sp (fun y => { y with lanes := ls }.setFlag f (y.flag f + 1#6)) with latches := s.latches ++ [l] } ∧
            (∀ k < 32, ls.getD k Lane.blank = if s.cur.lanes.getLsbD k then movedLane s 2 k else s.lane s.cur.sp k) ∧
            l.core = sp.core ∧ l.team = sp.team ∧ l.gang = sp.gang ∧ l.w0 = s.cur.w0 ∧ l.w1 = s.cur.w1 ∧ l.bad = false ∧ l.members = [m] ∧
            m.sp = s.cur.sp ∧ m.lanes = s.executing i ∧ m.flag = f ∧ m.sregs = sp.s ∧ GivesShare s b fmt m.share) ∧
        (∀ l, (coreLatches s).filter (fun x => x.team == sp.team) = [l] → l.gang = sp.gang → l.bad = false → l.members.length + 1 = gangSize sp.gang →
          l.w0.extractLsb' 0 28 = s.cur.w0.extractLsb' 0 28 → l.w1 = s.cur.w1 →
          ∃ ls c sh, exec i s = .next { s.modSp s.cur.sp (fun y => { y with lanes := ls }.setFlag f (y.flag f + 1#6)) with
              latches := s.latches.erase l, cmds := s.cmds ++ [c], nextId := s.nextId + 1 } ∧
            (∀ k < 32, ls.getD k Lane.blank = if s.cur.lanes.getLsbD k then movedLane s 2 k else s.lane s.cur.sp k) ∧
            c.engine = .matrix ∧ c.instr = i ∧ c.st = .queued ∧ c.id = s.nextId ∧ GivesShare s b fmt sh ∧
            c.shares.Perm (l.members.map (·.share) ++ [sh]) ∧ c.charges.Perm (l.members.map (fun m => (m.sp, m.flag)) ++ [(s.cur.sp, f)]))))

/-- `SOPEN` takes a free cursor of its core and starts a command on it, or writes a false predicate when there is none; the commands on a
cursor name a VALID stream register, and `SCLOSE` clears VALID; each waits while the queue is full (10 R236-R241). That the queue counts every
command not completed is log entry 52. -/
def Obligations.Cursors : Prop :=
  ∀ (s : State) (f : Nat), ChargesFlag s 1 false f →
    let sp := s.spindle s.cur.sp
    (∀ p d a lc q, Issues (.sopen p d a lc q) s → (sp.getK d.toNat).getLsbD 7 = false → (sp.getSD a.toNat).toNat % 16 = 0 →
      ((∀ n < Config.cursorCount, s.cursor sp.core n ≠ none) → ¬ QueueFull s sp.core .ple →
        ∃ t, exec (.sopen p d a lc q) s = .next t ∧
          Computes (.sopen p d a lc q) 1 { p := fun r _ => if r = q.toNat then some false else none } s t) ∧
      ((∃ n < Config.cursorCount, s.cursor sp.core n = none) → ¬ QueueFull s sp.core .ple →
        ∃ t c u, exec (.sopen p d a lc q) s = .next t ∧ u.num < Config.cursorCount ∧ s.cursor sp.core u.num = none ∧
          u.core = sp.core ∧ u.team = sp.team ∧ u.sp = s.cur.sp ∧ u.base = sp.getSD a.toNat ∧ u.lc = lc ∧
          Accepts (.sopen p d a lc q) 1 .ple f s { s.modSp s.cur.sp (fun y =>
            (y.setPred q.toNat (s.executing (.sopen p d a lc q)) (BitVec.allOnes 32)).setK d.toNat (BitVec.ofNat 8 (128 + u.num))) with cursors := s.cursors ++ [u] } t c ∧
          c.kregs = cellSet sp.k d.toNat (BitVec.ofNat 8 (128 + u.num)))) ∧
    (∀ p d a lc q, Issues (.sopen p d a lc q) s → QueueFull s sp.core .ple → ∃ t, exec (.sopen p d a lc q) s = .next t ∧ StaysBack s t) ∧
    (∀ i a, Issues i s → cursorOf i = some a → (sp.getK a.toNat).getLsbD 7 = true →
      (¬ QueueFull s sp.core .ple → ∃ t c b, exec i s = .next t ∧ Accepts i 1 .ple f s b t c ∧ c.kregs = sp.k ∧
        ((∀ p, i ≠ .sclose p a) → b = s) ∧
        ∀ p, i = .sclose p a → b = { s.modSp s.cur.sp (fun y => y.setK a.toNat (y.getK a.toNat &&& 0x7F#8)) with
          cursors := s.cursors.map (fun (u : Cursor) => if u.core = sp.core ∧ u.num = (sp.getK a.toNat).toNat % 64 ∧ u.saved = false then { u with closing := true } else u) }) ∧
      (QueueFull s sp.core .ple → ∃ t, exec i s = .next t ∧ StaysBack s t))

/-- A spawn whose entry is a held header starts a command with one thread for each executing lane, with its registers' words; `LAUNCH` of an
aligned record starts a command for the distributor (11 R252, R267). That `LAUNCH.REL` writes back the core's
lines as it issues is log entry 60. -/
def Obligations.SpawnCommands : Prop :=
  ∀ (s : State) (f : Nat), ChargesFlag s 2 false f → (s.teamOf s.cur.sp).rollb = false →
    let sp := s.spindle s.cur.sp
    (∀ p a eoff, Issues (.spawn p a eoff) s → TargetHeld s (packetAt s eoff) → ∃ t c, exec (.spawn p a eoff) s = .next t ∧
      Accepts (.spawn p a eoff) 2 .spawn f s s t c ∧
      c.threads = (lanesOf (s.executing (.spawn p a eoff))).map (fun l =>
        { entry := packetAt s eoff, domain := 0#64, args := [sp.getV a.toNat l, sp.getV (a.toNat + 1) l, sp.getV (a.toNat + 2) l, sp.getV (a.toNat + 3) l], seq := 0#32, ordered := false, slot := 0 })) ∧
    (∀ p d a b eoff, Issues (.spawno p d a b eoff) s → TargetHeld s (packetAt s eoff) → (sp.getSD b.toNat).toNat % 8 = 0 →
      ∃ t c, exec (.spawno p d a b eoff) s = .next t ∧ Accepts (.spawno p d a b eoff) 2 .spawn f s s t c ∧
        c.threads = (lanesOf (s.executing (.spawno p d a b eoff))).map (fun l =>
          { entry := packetAt s eoff, domain := sp.getSD b.toNat, args := [sp.getV a.toNat l, sp.getV (a.toNat + 1) l, sp.getV (a.toNat + 2) l, sp.getV (a.toNat + 3) l],
            seq := sp.getV d.toNat l, ordered := true, slot := 0 })) ∧
    (∀ p d a ct, Issues (.launch p d a ct) s → BarReady s ct → (sp.getSD a.toNat).toNat % 64 = 0 →
      ∃ t c w, exec (.launch p d a ct) s = .next t ∧ Accepts (.launch p d a ct) 2 .distributor f s w t c ∧
        MemoryOnly (s.advance 2) w ∧ ((ct.rel = false ∨ ct.scope = 0#3) → w = s.advance 2) ∧
        (ct.rel = true → ct.scope ≠ 0#3 → ∀ ea ln x, l1Find w.mem sp.core ea ln = some x → x.line.dirty = 0#128))

/-- `TXB` opens a transaction with a checkpoint in lanes whose fallback is a held header; `TXE` holds the lanes that have one and lets the
others go on; `TXA n` sends them to their fallback with the checkpoint's registers; `TXS` writes the status word. A `TXB` in a transaction raises RESERVED_FIELD,
and so do `TXB` and `TXE` of an ordered thread; where its transaction is open it is undone instead, as `TXA` undoes it, and the thread starts again serially (11
R256, R258, R259, R261, R262; 14 R332, R338, R339). -/
def Obligations.Transactions : Prop :=
  ∀ (s : State) (p : Pfx),
    (∀ mode foff, Issues (.txb p mode foff) s → TargetHeld s (packetAt s foff) →
      (∀ l < 32, (s.executing (.txb p mode foff)).getLsbD l = true → (s.lane s.cur.sp l).spec = false) →
      ArenaRoom s (s.spindle s.cur.sp).team (txNeed s (s.executing (.txb p mode foff))) →
      ∃ t, exec (.txb p mode foff) s = .next t ∧
        (∀ l < 32, if (s.executing (.txb p mode foff)).getLsbD l then ∃ x, OpensTx s l mode (packetAt s foff) x ∧ t.lane s.cur.sp l =
            { movedLane s 2 l with
              tx := true, txn := some x, restart := false,
              txatt := if (s.lane s.cur.sp l).restart then BitVec.ofNat 4 (min 15 ((s.lane s.cur.sp l).txatt.toNat + 1)) else 0#4,
              txstat := if (s.lane s.cur.sp l).restart then (s.lane s.cur.sp l).txstat else { committed := false, cause := 0#3, xcode := 0#7, fcause := 0#8 } }
          else t.lane s.cur.sp l = if s.cur.lanes.getLsbD l then movedLane s 2 l else s.lane s.cur.sp l) ∧
        ∃ ls tc ch, t = (s.modSp s.cur.sp (fun sp => { sp with lanes := ls, txchunks := tc })).modTeam (s.spindle s.cur.sp).team (fun x => { x with chunks := ch })) ∧
    (Issues (.txe p) s → (∀ l < 32, (s.executing (.txe p)).getLsbD l = true → (s.lane s.cur.sp l).spec = false) →
      ∃ u, exec (.txe p) s = .next (settleIssue (.txe p) (s.executing (.txe p)) u) ∧
        Touches (fun l y => if (s.executing (.txe p)).getLsbD l && y.tx then { movedLane s 1 l with st := .held .txe, pc := s.cur.pc }
          else inFragment s (fun l _ => movedLane s 1 l) l y) s u) ∧
    (∀ (n : BitVec 7) (x : Nat → Txn), Issues (.txa p n) s → s.mem.hostHeld = [] →
      (∀ l < 32, (s.executing (.txa p n)).getLsbD l = true → (s.lane s.cur.sp l).spec = false ∧
        ((s.lane s.cur.sp l).tx = true → (s.lane s.cur.sp l).txn = some (x l) ∧ (x l).chkV.Pairwise (fun a b => a.1 < b.1))) →
      ∃ t, exec (.txa p n) s = .next t ∧ t.tokens = s.tokens ∧
        (∀ l < 32, t.lane s.cur.sp l = if (s.executing (.txa p n)).getLsbD l && (s.lane s.cur.sp l).tx then abortedLane s n (x l) (movedLane s 1 l)
          else if s.cur.lanes.getLsbD l then movedLane s 1 l else s.lane s.cur.sp l) ∧
        Rewound (s.executing (.txa p n) &&& maskBy (fun l => (s.lane s.cur.sp l).tx)) x s t) ∧
    (∀ mode foff, Stands (.txb p mode foff) s → (∀ l < 32, (s.executing (.txb p mode foff)).getLsbD l = true → (s.lane s.cur.sp l).tx = true) →
      CanFault (s.executing (.txb p mode foff)) s → ∃ u, exec (.txb p mode foff) s = .next (rcvEvalAll u s.cur.sp) ∧
        Parks (s.executing (.txb p mode foff)) 2 0x02#8 0#7 0#64 s u) ∧
    (∀ i n, i = .txe p ∧ n = 1 ∨ (∃ mode foff, i = .txb p mode foff) ∧ n = 2 → Issues i s → CanFault (s.executing i) s →
      (∀ l < 32, (s.executing i).getLsbD l = true → (s.lane s.cur.sp l).spec = true) →
      ∃ u, exec i s = .next (rcvEvalAll u s.cur.sp) ∧ Parks (s.executing i) n 0x02#8 0#7 0#64 s u) ∧
    (∀ i n c xc fc (x : Nat → Txn), Stands i s → orderedAbort i = some (n, c, xc, fc) → s.mem.hostHeld = [] → DomainGood s → (s.spindle s.cur.sp).trapped = none →
      (s.spindle s.cur.sp).st ≠ .ended →
      (∀ l < 32, (s.executing i).getLsbD l = true → (s.lane s.cur.sp l).spec = true ∧ (s.lane s.cur.sp l).tx = true ∧ (s.lane s.cur.sp l).txn = some (x l) ∧
        (x l).chkV.Pairwise (fun a b => a.1 < b.1)) →
      ∃ u, exec i s = .next (rcvEvalAll u s.cur.sp) ∧
        (∀ l < 32, u.lane s.cur.sp l = if (s.executing i).getLsbD l then serialAgain s c xc fc (x l) (movedLane s n l) else if s.cur.lanes.getLsbD l then movedLane s n l
          else s.lane s.cur.sp l) ∧
        (∀ l < 32, (s.executing i).getLsbD l = true → ∃ k ∈ u.tokens, k.sp = s.cur.sp ∧ k.lane = l ∧ k.seq = (s.lane s.cur.sp l).seq ∧ k.granted = false) ∧
        Rewound (s.executing i) x s u) ∧
    (∀ d, Issues (.txs p d) s → ∃ t, exec (.txs p d) s = .next t ∧
      Computes (.txs p d) 1 { v := fun r l => to32 d (statusWord (s.lane s.cur.sp l)) r } s t)

/-- `REGGROW` takes chunks at once when no request waits and the arena has them, and waits in the team's queue otherwise; `REGSHRINK` gives
chunks back once the flags are clear. A waiting request ends with a grant or, for the oldest spindle of a stuck quadrant, fails (11 R263,
R264). -/
def Obligations.RegisterAllotment : Prop :=
  ∀ (s : State) (p : Pfx) (d : Reg) (n : BitVec 7),
    let sp := s.spindle s.cur.sp
    let k := n.toNat
    (Issues (.reggrow p d n) s → 1 ≤ k → k ≤ 7 → sp.vcount + 16 * (sp.growPending + k) ≤ 128 →
      (growFirst s sp.team = none → ArenaRoom s sp.team k → s.mem.hostHeld = [] → ∃ t, exec (.reggrow p d n) s = .next t ∧
        (∀ l < 32, t.lane s.cur.sp l = if s.cur.lanes.getLsbD l then movedLane s 1 l else s.lane s.cur.sp l) ∧
        (∀ q < 7, ∀ l < 32, ((t.spindle s.cur.sp).pred q).getLsbD l = if q = d.toNat % 8 ∧ (s.executing (.reggrow p d n)).getLsbD l = true then true
          else (sp.pred q).getLsbD l) ∧
        (∀ r, ∀ l < 32, (t.spindle s.cur.sp).getV r l = if r < sp.vcount then sp.getV r l else 0#32) ∧
        ∃ ls q v m rc new ch b, new.length = k ∧ b = { (s.modSp s.cur.sp (fun sp =>
          { sp with vcount := sp.vcount + 16 * k, chunks := sp.chunks ++ new, p := q, v := v, vpoison := m, lanes := ls })).modTeam
          sp.team (fun x => { x with chunks := ch }) with rcache := rc } ∧ MemoryOnly b t) ∧
      (growFirst s sp.team ≠ none ∨ ¬ ArenaRoom s sp.team k → ∃ u, exec (.reggrow p d n) s = .next (rcvEvalAll { u.modTeam sp.team (fun x =>
          { x with growq := x.growq ++ [s.nextId] }) with nextId := s.nextId + 1 } s.cur.sp) ∧
        Touches (fun l y => if (s.executing (.reggrow p d n)).getLsbD l then { movedLane s 1 l with st := .held (.reggrow (d.toNat % 8) k s.nextId), pc := s.cur.pc }
          else inFragment s (fun l _ => movedLane s 1 l) l y) s u)) ∧
    (Issues (.regshrink p n) s → 1 ≤ k → k ≤ 7 → 16 + 16 * (sp.shrinkPending + k) ≤ sp.vcount →
      (sp.flagsClear = true → ∃ t, exec (.regshrink p n) s = .next t ∧
        (∀ l < 32, t.lane s.cur.sp l = if s.cur.lanes.getLsbD l then movedLane s 1 l else s.lane s.cur.sp l) ∧
        (t.spindle s.cur.sp).vcount = sp.vcount - 16 * k ∧ (t.spindle s.cur.sp).chunks = sp.chunks.take (sp.chunks.length - k) ∧
        (∀ r, ∀ l < 32, (t.spindle s.cur.sp).getV r l = if r < sp.vcount - 16 * k then sp.getV r l else 0#32) ∧
        ∃ ls v m ch c rc, t = { (s.modSp s.cur.sp (fun sp => { sp with vcount := sp.vcount - 16 * k, chunks := c, v := v, vpoison := m, lanes := ls })).modTeam
          sp.team (fun x => { x with chunks := ch }) with rcache := rc }) ∧
      (sp.flagsClear = false → ∃ u, exec (.regshrink p n) s = .next (rcvEvalAll { u with nextId := s.nextId + 1 } s.cur.sp) ∧
        Touches (fun l y => if (s.executing (.regshrink p n)).getLsbD l then { movedLane s 1 l with st := .held (.regshrink k s.nextId), pc := s.cur.pc }
          else inFragment s (fun l _ => movedLane s 1 l) l y) s u)) ∧
    (∀ i id g pd m, growFirst s (s.spindle i).team = some id → (s.spindle i).growId = some id → (s.spindle i).st = .resident →
      (s.team (s.spindle i).team).st = .running →
      i < s.spindles.length → (s.spindle i).team < s.teams.length → (s.spindle i).growLanes = (g, pd, m) → g ≠ 0#32 → ArenaRoom s (s.spindle i).team m →
      ∃ t, exec (.reggrowGrant i) s = .next t ∧ (t.spindle i).vcount = (s.spindle i).vcount + 16 * m ∧
        (∀ l < 32, g.getLsbD l = true → pd < 7 → ((t.spindle i).pred pd).getLsbD l = true) ∧
        (t.team (s.spindle i).team).growq = (s.team (s.spindle i).team).growq.filter (fun y => y != id)) ∧
    (∀ i id g pd m, growStuck s i = true → (s.spindle i).growId = some id → i < s.spindles.length → (s.spindle i).team < s.teams.length → (s.spindle i).growLanes = (g, pd, m) →
      ∃ t, exec (.reggrowFail i) s = .next t ∧ (t.spindle i).vcount = (s.spindle i).vcount ∧
        (∀ l < 32, g.getLsbD l = true → pd < 7 → ((t.spindle i).pred pd).getLsbD l = false) ∧
        (t.team (s.spindle i).team).growq = (s.team (s.spindle i).team).growq.filter (fun y => y != id))

/-- `MFS` reads a system register for its lanes or once; `MTS` of a value that the register takes makes it read as that value and leaves every
other system register as it was, but for DEADLINE_USED under DEADLINE; SRSEED reseeds every lane's generator, and a value with a nonzero reserved field raises
RESERVED_FIELD. The clocks read TIME and CYCLE, under W once the spindle's earlier work was complete as the chain issued (11 R265, R266; 01 R23-R25; 02 R54; 03
R71), as log entry 103 says. -/
def Obligations.SystemRegisters : Prop :=
  ∀ (s : State) (p : Pfx) (d : Reg),
    let sp := s.spindle s.cur.sp
    (∀ w64 num, Issues (.mfs p d false w64 num) s → ∃ t, exec (.mfs p d false w64 num) s = .next t ∧
      Computes (.mfs p d false w64 num) 1 { v := fun r l => toVD w64 d (sysRead s s.cur.sp l num.toNat) r } s t) ∧
    (∀ w64 num, Issues (.mfs p d true w64 num) s → ∃ t, exec (.mfs p d true w64 num) s = .next t ∧
      Computes (.mfs p d true w64 num) 1
        { s := toVD w64 d (sysRead s s.cur.sp (lowestLane (s.executing (.mfs p d true w64 num))) num.toNat) } s t) ∧
    (∀ w64 num, Issues (.mts p d true w64 num) s → sp.team < s.teams.length → (s.team sp.team).part < s.parts.length →
      (s.team sp.team).launch < s.launches.length →
      sysBad num.toNat (if w64 then sp.getSD d.toNat else (sp.getS d.toNat).setWidth 64) = false →
      ∃ t, exec (.mts p d true w64 num) s = .next t ∧
        (∀ l < 32, sysRead t s.cur.sp l num.toNat = if w64 then sp.getSD d.toNat else (sp.getS d.toNat).setWidth 64) ∧
        (∀ m, m ≠ num.toNat → (num = 0x28#8 → m ≠ 0x29) → ∀ l < 32, sysRead t s.cur.sp l m = sysRead s s.cur.sp l m) ∧
        (num = 0x03#8 → ∀ l < 32, (t.lane s.cur.sp l).rng = srSeed (sp.getS d.toNat) l) ∧
        (t.spindle s.cur.sp).v = sp.v ∧ (t.spindle s.cur.sp).s = sp.s ∧ (t.spindle s.cur.sp).p = sp.p ∧ (t.spindle s.cur.sp).f = sp.f ∧
        (∀ l < 32, (t.lane s.cur.sp l).pc = if s.cur.lanes.getLsbD l then s.cur.pc + 4#64 else (s.lane s.cur.sp l).pc) ∧
        t.mem = s.mem ∧ ∀ k, k ≠ s.cur.sp → t.spindle k = s.spindle k) ∧
    (∀ w64 num, Issues (.mts p d true w64 num) s → CanFault (s.executing (.mts p d true w64 num)) s →
      sysBad num.toNat (if w64 then sp.getSD d.toNat else (sp.getS d.toNat).setWidth 64) = true →
      ∃ u, exec (.mts p d true w64 num) s = .next (rcvEvalAll u s.cur.sp) ∧ Parks (s.executing (.mts p d true w64 num)) 1 0x02#8 0#7 0#64 s u) ∧
    (∀ w64 num, Stands (.mts p d false w64 num) s → CanFault (s.executing (.mts p d false w64 num)) s →
      (∀ l < 32, (s.executing (.mts p d false w64 num)).getLsbD l = true → sysBad num.toNat (sp.getVD w64 d.toNat l) = true) →
      ∃ u, exec (.mts p d false w64 num) s = .next (rcvEvalAll u s.cur.sp) ∧ Parks (s.executing (.mts p d false w64 num)) 1 0x02#8 0#7 0#64 s u) ∧
    (∀ w64 num, Issues (.mts p d false w64 num) s →
      (∀ l < 32, (s.executing (.mts p d false w64 num)).getLsbD l = true → sysBad num.toNat (sp.getVD w64 d.toNat l) = false) →
      ∃ t, exec (.mts p d false w64 num) s = .next t ∧ Computes (.mts p d false w64 num) 1
        { lane := fun l y => if num = 0x02#8 then { y with fpflags := (sp.getVD w64 d.toNat l).setWidth 6 }
          else if num = 0x0A#8 then { y with tcause := (sp.getVD w64 d.toNat l).setWidth 9 } else y } s t) ∧
    (∀ w, (w = true → s.cur.clear = true) →
      (Issues (.clkTime p d w) s → ∃ t, exec (.clkTime p d w) s = .next t ∧
        Computes (.clkTime p d w) 1 { s := to64 d (BitVec.ofNat 64 s.clock.ns) } s t) ∧
      (Issues (.clkCycle p d w) s → ∃ t, exec (.clkCycle p d w) s = .next t ∧
        Computes (.clkCycle p d w) 1 { s := to64 d (BitVec.ofNat 64 (s.clock.cycle - (cellGet s.clock.coreBase sp.core).toNat)) } s t)) ∧
    (s.cur.clear = false →
      (Issues (.clkTime p d true) s → ∃ t, exec (.clkTime p d true) s = .next t ∧ StaysBack s t) ∧
      (Issues (.clkCycle p d true) s → ∃ t, exec (.clkCycle p d true) s = .next t ∧ StaysBack s t))

/-- Predicate 7 reads as true in every lane, as a guard too, and a write of it is discarded; the rest of the instruction happens (01 R15). -/
def Obligations.PredicateSeven : Prop :=
  (∀ (sp : Spindle), sp.pred 7 = BitVec.allOnes 32) ∧
  (∀ (s : State) (p : Pfx), p.g = 7#3 → s.execLanes p = s.cur.lanes) ∧
  (∀ (sp : Spindle) (m b : LaneMask), sp.setPred 7 m b = sp) ∧
  (∀ (s : State) (p : Pfx) (a b : Reg) (cmp : BitVec 4) (w64 imm : Bool) (q : BitVec 3) (bop : BitVec 2) (e : BitVec 3),
    Issues (.icmp p 7#7 a b cmp w64 imm q bop e) s → ∃ t n x, exec (.icmp p 7#7 a b cmp w64 imm q bop e) s = .next t ∧
      predResult (s.spindle s.cur.sp) (s.executing (.icmp p 7#7 a b cmp w64 imm q bop e)) (.icmp p 7#7 a b cmp w64 imm q bop e) = some (n, x) ∧
      Computes (.icmp p 7#7 a b cmp w64 imm q bop e) n x s t ∧
      (∀ r < 7, ∀ l < 32, r ≠ e.toNat → ((t.spindle s.cur.sp).pred r).getLsbD l = ((s.spindle s.cur.sp).pred r).getLsbD l) ∧
      ∀ l < 32, (s.executing (.icmp p 7#7 a b cmp w64 imm q bop e)).getLsbD l = true → e ≠ 7#3 → ∀ y, x.p 7 l = some y →
        ((t.spindle s.cur.sp).pred e.toNat).getLsbD l = !y)

/-- A trap that can be delivered starts the handler at TRAPVEC, with the frame record naming CAUSE and LMASK, once the device has written the
image and the frame; without a frame area it kills the team; and while a flag of the spindle counts, the spindle stops and waits (11 R269-R272). -/
def Obligations.TrapDelivery : Prop :=
  ∀ (s : State) (i : Nat) (cause : BitVec 16), i < s.spindles.length → (s.spindle i).lanes.length = 32 → trapReady s i = true →
    (∀ l < 32, (s.lane i l).pendingTrap = true → (s.lane i l).tx = false) →
    cause = BitVec.ofNat 16 ((s.lane i (lowestLane (lmask s i))).tcode.toNat * 512 +
      (if (lanesOf (lmask s i)).any (fun l => (s.lane i l).deferred.isSome) then 256 else 0) + (s.lane i (lowestLane (lmask s i))).cause.toNat) →
    (∀ t, (s.partOf i).tframe ≠ 0#64 → (s.partOf i).trapvec ≠ 0#64 → FrameTaken s i (lmask s i) cause t →
      exec (.trapDelivery i) s = .next t ∧ HandlerRuns s i (lmask s i) cause t) ∧
    (∀ u : State, (u.spindle i) = s.spindle i → frameRecord u i (lmask s i) false / 2 ^ 32 % 2 ^ 32 = (lmask s i).toNat ∧
      frameRecord u i (lmask s i) false % 2 ^ 8 = (s.lane i (lowestLane (lmask s i))).cause.toNat) ∧
    (∀ s1, (s.partOf i).tframe = 0#64 → (s.spindle i).team < s.teams.length → writeImage s i = .ok s1 () →
      ∃ t, exec (.trapDelivery i) s = .next t ∧ (t.team (s.spindle i).team).st = .killed ∧ (t.spindle i).st = .ended) ∧
    ∀ f : Cells 6, let u : State := s.modSp i (fun sp => { sp with f := f })
      (u.spindle i).flagsClear = false → (s.spindle i).stopped = false →
      exec (.trapDelivery i) u = .next (u.modSp i (fun sp => { sp with stopped := true }))

/-- `ERET` ends the handler: the trapped image comes back with its edits, the lanes of LMASK go on at their image PCs, at or just after the
trapped word, with the privilege of FLAGS.PRIV, a serial thread without its granted token to wait for it, and the others keep their states. While a flag of the
handler counts it waits, or, behind words of its own chain, issues again (log entry 29); outside a handler it raises RESERVED_FIELD (11 R274; 14 R339; 01 R38). -/
def Obligations.TrapReturn : Prop :=
  ∀ (s : State) (p : Pfx), Issues (.eret p) s →
    (∀ (r : Trapped) (s1 s2 s3 : State) (fl : Nat) (u v : List (Nat × BitVec 4)),
      (s.spindle s.cur.sp).trapped = some r → (s.spindle s.cur.sp).flagsClear = true →
      putLines (s.advance 1) s.me (handlerLines (s.advance 1) s.cur.sp r.frame) = .ok s1 () →
      devRead s1 s.me (r.frame + 18#64) 1 = .ok s2 fl →
      readImage (s2.modSp s.cur.sp (fun sp => shownTrapped sp r)) s.cur.sp = .ok s3 (u, v) → (∀ x ∈ u, x.2 = 0#4) →
      let sp := clearReleased r.wrel (applyImage (s3.spindle s.cur.sp) (u.map (·.1)) v)
      let token (l : Nat) : Option TokenReq := s3.tokens.find? (fun k => k.sp == s.cur.sp && k.lane == l)
      r.lanes.length = 32 → (∀ l < 32, r.lmask.getLsbD l = true → (sp.lane l).st ≠ .exited →
        ((sp.lane l).pc = r.epc.getD l 0#64 ∨ (sp.lane l).pc = r.epc.getD l 0#64 + 4#64 ∨ (sp.lane l).pc = r.epc.getD l 0#64 + 8#64) ∧
        ((sp.lane l).serial = true → token l ≠ none)) →
      (∀ l < 32, r.lmask.getLsbD l = false → (sp.lane l).rel = none) →
      ∃ w, exec (.eret p) s = .next (settleIssue (.eret p) (s.executing (.eret p)) (rcvEvalAll w s.cur.sp)) ∧
        (∀ l < 32, w.lane s.cur.sp l = if r.lmask.getLsbD l && (sp.lane l).st != .exited
          then { sp.lane l with st := (if (sp.lane l).serial && (token l).any (fun k => !k.granted) then .held .serial else .eligible), priv := fl.testBit 0,
                                record := none, pendingTrap := false, stamp := s.clock.cycle } else sp.lane l) ∧
        (sp.trapped = none ∧ sp.vcount = r.vcount ∧ sp.chunks = r.chunks ∧ sp.flagsClear = true) ∧
        ∃ ls, w = s3.modSp s.cur.sp (fun _ => { sp with lanes := ls })) ∧
    ((s.spindle s.cur.sp).trapped ≠ none → (s.spindle s.cur.sp).flagsClear = false →
      (s.cur.chained = true → exec (.eret p) s = .next s) ∧ (s.cur.chained = false → ∃ t, exec (.eret p) s = .next t ∧ StaysBack s t)) ∧
    (CanFault (s.executing (.eret p)) s → ∃ u, exec (.eret p) s = .next (rcvEvalAll u s.cur.sp) ∧ Parks (s.executing (.eret p)) 1 0x02#8 0#7 0#64 s u)

/-- The device's completions: an operation writes its results in the lanes that live and its flag falls; a held instruction lets its lanes go
on; a header whose flags are clear lets its lanes issue; a command starts when nothing before it conflicts and completes with its results. Of what an engine
does: `MMA` of a format that is no MX one adds A times B to every element of C's region of the faceplate, `CPY` brings a window of the scratchpad into a faceplate
region, `STEND` reads its cursor, and a fault leaves the queue with a report of its cause (03 R74-R76; 07 R151; 08 R186, R188, R190, R197, R202; 10 R241; 11 R263). -/
def Obligations.Completions : Prop :=
  ∀ (s : State),
    (∀ o, s.ops.find? (fun y => y.id == o.id) = some o → o.sp < s.spindles.length → (o.writes.map (·.1)).Nodup →
      (o.pwrites.map (fun y => (y.1, y.2.1))).Nodup →
      ∃ t, exec (.operationCompletion o.id) s = .next t ∧ (t.spindle o.sp).flag o.flag = (s.spindle o.sp).flag o.flag - 1#6 ∧
        (∀ r, ∀ l < 32, (t.spindle o.sp).getV r l = if (s.lane o.sp l).st = .exited then (s.spindle o.sp).getV r l
          else ((o.writes.find? (fun y => y.1 == 32 * r + l)).map (·.2)).getD ((s.spindle o.sp).getV r l)) ∧
        (∀ q < 7, ∀ l < 32, ((t.spindle o.sp).pred q).getLsbD l = if (s.lane o.sp l).st = .exited then ((s.spindle o.sp).pred q).getLsbD l
          else ((o.pwrites.find? (fun y => y.1 == q && y.2.1 == l)).map (·.2.2)).getD (((s.spindle o.sp).pred q).getLsbD l)) ∧
        ∃ v p f m, t = { s.modSp o.sp (fun sp => { sp with v := v, p := p, f := f, vpoison := m }) with ops := s.ops.filter (fun y => y.id != o.id) }) ∧
    (∀ i l n, i < s.spindles.length → (s.spindle i).lanes.length = 32 → s.active i = true → l < 32 → (s.lane i l).st = .held (.completing n) →
      ∃ t ls, exec (.holdingInstructionCompletion i l) s = .next t ∧ t = s.modSp i (fun sp => { sp with lanes := ls }) ∧
        ∀ k < 32, t.lane i k = if (s.lane i k).st = .held (.completing n) ∧ (s.lane i k).pc = (s.lane i l).pc
          then { s.lane i k with st := .eligible, pc := (s.lane i k).pc + BitVec.ofNat 64 (4 * n), stamp := s.clock.cycle } else s.lane i k) ∧
    (∀ i l n id, i < s.spindles.length → (s.spindle i).lanes.length = 32 → s.active i = true → l < 32 → (s.lane i l).st = .held (.regshrink n id) →
      (s.spindle i).flagsClear = true →
      ∃ t, exec (.holdingInstructionCompletion i l) s = .next t ∧ (t.spindle i).vcount = (s.spindle i).vcount - 16 * n ∧
        t.lane i l = releasedLane s (s.lane i l)) ∧
    (∀ i l h, i < s.spindles.length → (s.spindle i).lanes.length = 32 → s.active i = true → l < 32 → (s.lane i l).st = .header →
      (fetchWord s i (s.lane i l).pc).2 = .word h → (∀ n < 12, h.getLsbD (9 + n) = true → (s.spindle i).flag n = 0#6) →
      ∃ t, exec (.clauseWaitRelease i) s = .next t ∧ t.lane i l = { s.lane i l with st := .eligible } ∧
        ∀ k < 32, (s.lane i k).st ≠ .header → t.lane i k = s.lane i k) ∧
    (∀ c, s.cmds.find? (fun y => y.id == c.id) = some c → startable s c = true → (s.team c.team).st = .running →
      (∃ t, exec (.commandStart c.id 0) s = .next t) ∧
      ∀ r cause addr, c.acq = false → runCmd (startRun s c 0) 0 = .fault r cause addr → ∃ u, exec (.commandStart c.id 0) s = .next (evalBarriers u r.settle.cmd.team) ∧
        u.cmds = r.settle.s.cmds.filter (fun y => y.id != r.settle.cmd.id) ∧
        ∃ x ∈ u.reports, x.team = r.settle.cmd.team ∧ x.info.cause = cause ∧ x.info.addr = BitVec.ofNat 64 addr ∧ x.info.wspidx = (r.settle.s.spindle r.settle.cmd.sp).idx) ∧
    (∀ c p d a u, Starts s c → c.instr = .stend p d a → s.cursor c.core ((cellGet c.kregs a.toNat).toNat % 64) = some u →
      exec (.commandStart c.id 0) s = .next { s with
        free := s.free + 1, cmds := s.cmds.map (fun y => if y.id == c.id then { c with st := .ran, parts := [], pwrite := some (d.toNat, u.st != .ready) } else y) }) ∧
    (∀ c p d a b fmt zc tr ct, Starts s c → c.instr = .mma p d a b fmt false zc tr ct → fmt.toNat < 8 → (∀ sh ∈ c.shares, sh.poison = false) →
      let ra := c.region a
      let rc := c.region d
      let w := if fmt = 1#4 then 8 else 4
      ra.rows = 128 → rc.rows = 128 → ra.overlaps rc = false → ra.col0 + ra.cols ≤ 256 → rc.col0 + rc.cols ≤ 256 → w * (32 * c.shares.length) = rc.width →
      ∃ t, exec (.commandStart c.id 0) s = .next t ∧ FaceFrame s t c rc ∧
        ∀ row < 128, ∀ col < 32 * c.shares.length, faceBytes t c (rc.row0 + row) (4 * rc.col0 + w * col) w =
          productSum fmt.toNat (faceBytes s c (ra.row0 + row) (4 * ra.col0) ra.width) (((mmaColumns c fmt.toNat).getD col none).getD (zeroColumn fmt.toNat))
            (if zc then 0 else faceBytes s c (rc.row0 + row) (4 * rc.col0 + w * col) w) % 2 ^ (8 * w)) ∧
    (∀ c p d a b esz ct, Starts s c → c.instr = .cpy p d a b 2#2 1#2 esz ct →
      let rc := c.region d
      let n := shapeOf (c.sd b.toNat)
      let e := 2 ^ esz.toNat
      rc.col0 + rc.cols ≤ 256 → n.1 * e ≤ rc.width → n.2.1 ≤ rc.rows → n.2.2 = 1 →
      ∃ t, exec (.commandStart c.id 0) s = .next t ∧ FaceFrame s t c rc ∧
        ∀ i < n.1, ∀ j < n.2.1, faceBytes t c (rc.row0 + j) (4 * rc.col0 + i * e) e = shareBytes s c ((c.layout a).at e i j 0) e) ∧
    (∀ c, s.cmds.find? (fun y => y.id == c.id) = some c → completable s c = true →
      (∃ t, exec (.commandCompletion c.id) s = .next t) ∧
      ∀ f, c.sp < s.spindles.length → (s.spindle c.sp).st ≠ .ended → c.charges = [(c.sp, f)] → c.bar = none → c.launch = none → (∀ p a, c.instr ≠ .sclose p a) →
        (c.swrites.map (·.1)).Nodup → ∃ u, exec (.commandCompletion c.id) s = .next (evalBarriers u c.team) ∧
        u.cmds = s.cmds.filter (fun y => y.id != c.id) ∧ (u.spindle c.sp).flag f = (s.spindle c.sp).flag f - 1#6 ∧
        (∀ r, (u.spindle c.sp).getS r = ((c.swrites.find? (fun y => y.1 == r)).map (·.2)).getD ((s.spindle c.sp).getS r)) ∧
        (∀ q b, c.pwrite = some (q, b) → q < 7 → ∀ l < 32, ((u.spindle c.sp).pred q).getLsbD l =
          if c.lanes.getLsbD l = true ∧ (s.lane c.sp l).st ≠ .exited then b else ((s.spindle c.sp).pred q).getLsbD l) ∧
        (u.spindle c.sp).v = (s.spindle c.sp).v ∧ (u.spindle c.sp).lanes = (s.spindle c.sp).lanes ∧ u.mem = s.mem)

/-- The fetches: a chain whose words are at hand changes nothing; a rights miss changes only memory and holds the leaf that the walk gives; the
fetch of an absent register line that the spindle's next chain waits for makes it present and gives its lanes the line's words; one that no chain
waits for leaves the state as it is, as log entry 4 says (03 R463; 12 R288-R291; 18 R389). -/
def Obligations.Fetches : Prop :=
  ∀ (s : State),
    (∀ i l, s.active i = true → (s.lane i l).st.canIssue = true →
      (∃ t, exec (.instructionFetch i l) s = .next t) ∧
      ∀ ws, (let c : Issue := { sp := i, lanes := (fragmentOf (s.spindle i) ((s.spindle i).lanesIn LaneSt.canIssue) l).1, pc := (s.lane i l).pc,
                                w0 := 0#32, w1 := 0#32, chained := false, more := false, rest := [],
                                clear := false }
             fetchChain { s with cur := c } i 3 (s.lane i l).pc = ({ s with cur := c }, .words ws)) → exec (.instructionFetch i l) s = .next s) ∧
    (∀ core ea va p, partFor s core ea = some p → rightsFind s.mem core ea (va % 2 ^ 57 / 4096) = none →
      ∃ m ts, exec (.rightsMissReturn core ea va) s = .next { s with mem := m, teams := ts } ∧
        ∀ e lv, walk s (some p.pnum) ea (va % 2 ^ 57 / 4096) = .leaf e lv →
          ∃ x, rightsFind m core ea (va % 2 ^ 57 / 4096) = some x ∧ x.leaf = lessFrame e) ∧
    (∀ i reg, i < s.spindles.length → s.active i = true → reg < (s.spindle i).vcount → rcHas s i reg = false →
      (reg ∉ (s.spindle i).want → exec (.registerLineFetch i reg) s = .next s) ∧
      (reg ∈ (s.spindle i).want → (∃ t, exec (.registerLineFetch i reg) s = .next t) ∧
      ∀ s1 s2 v, rcRoom s (s.spindle i).core 1 = .ok s1 () → devReadLine s1 (s.who i) (s.vectorVa i reg) = .ok s2 v →
        ∃ t, exec (.registerLineFetch i reg) s = .next t ∧ rcHas t i reg = true ∧ reg ∉ (t.spindle i).want ∧ cellGet (t.spindle i).vpoison reg = v.2 ∧
          ∀ r, ∀ l < 32, (t.spindle i).getV r l = if r = reg then BitVec.ofNat 32 (v.1 / 2 ^ (32 * l)) else (s.spindle i).getV r l))

/-- The ends and pauses of spindles and lanes: a spindle without live lanes ends and closes its cursors; one whose live lanes all wait leaves
its slot, and returns to one when a lane can go on; a satisfied monitor, an elapsed sleep and an elapsed back-off let their lane go on; before its time
an expiry leaves the state as it is, as log entry 4 says (05 R123, R126; 07 R170, R171; 10 R230; 11 R260). -/
def Obligations.SpindleEvents : Prop :=
  ∀ (s : State) (i : Nat), i < s.spindles.length → (s.spindle i).lanes.length = 32 →
    ((s.spindle i).st = .resident → (s.spindle i).inHandler = false → (∀ l < 32, (s.lane i l).st = .exited) → (s.spindle i).flagsClear = true →
      (s.teamOf i).st.holds = true → (∃ t, exec (.spindleEnd i) s = .next t) ∧
      ∀ s1, (s.teamOf i).rollb = false → writeImage (closeCursors s i) i = .ok s1 () →
        ∃ u, exec (.spindleEnd i) s = .next (evalBarriers u (s.spindle i).team) ∧ (u.spindle i).st = .ended ∧ ∀ c ∈ u.cursors, c.sp ≠ i) ∧
    (s.active i = true → (s.spindle i).inHandler = false → (∃ l < 32, (s.lane i l).st ≠ .exited) →
      (∀ l < 32, (s.lane i l).st = .exited ∨ (s.lane i l).st = .waiting) → (s.spindle i).flagsClear = true → (∀ l < 32, (s.lane i l).pendingTrap = false) →
      (∃ t, exec (.spindleDormant i) s = .next t) ∧
      ∀ s1, writeImage s i = .ok s1 () → exec (.spindleDormant i) s = .next (s1.modSp i (fun y => { y with st := .dormant }))) ∧
    (∀ q k, freePlace s (s.spindle i).core = some (q, k) → (s.spindle i).st = .dormant → wakes (s.spindle i) = true → (s.teamOf i).st = .running →
      (∃ t, exec (.dormantReturn i) s = .next t) ∧
      ∀ s1 u v, readImage s i = .ok s1 (u, v) → (∀ x ∈ u, x.2 = 0#4) →
        ∃ w, exec (.dormantReturn i) s = .next (rcvEvalAll w i) ∧ (w.spindle i).st = .resident ∧ (w.spindle i).quad = q ∧ (w.spindle i).slot = k ∧
          ∀ l < 32, ∀ x, (s.lane i l).rel = some x → (w.lane i l).st = .eligible ∧ (w.lane i l).pc = x.pc) ∧
    (∀ l m v, l < 32 → (s.spindle i).st = .resident → (s.spindle i).inHandler = false → (s.spindle i).trapped = none → (s.teamOf i).st.holds = true →
      (s.lane i l).st = .waiting → (s.lane i l).monitor = some m → (s.lane i l).rel = none →
      (m.acq = false ∨ m.scope = 0#3 ∨ (s.partOf i).bindtab &&& ~~~0xFFF#64 = 0#64) → s.mem.hostHeld = [] → s.links.down = [] →
      locked s m.ea (lnOf m.va) = false →
      l1Find s.mem (s.spindle i).core m.ea (lnOf m.va) = none →
      (∃ h, homeFind s.mem m.ea (lnOf m.va) = some h ∧ byteMask (offOf m.va) (if m.w64 then 8 else 4) &&& ~~~h.line.valid = 0#128 ∧ h.owner = none ∧
        h.undo = [] ∧ marksHit h.line (byteMask (offOf m.va) (if m.w64 then 8 else 4)) = 0#4 ∧
        v = BitVec.ofNat 64 (lineBytesGet h.line.data (offOf m.va) (if m.w64 then 8 else 4))) →
      (if m.w64 then compares m.cmp v m.operand else compares m.cmp (v.setWidth 32 : Word) (m.operand.setWidth 32)) = true →
      ∃ t, exec (.monitorRelease i l) s = .next t ∧
        t.lane i l = { s.lane i l with st := .eligible, pc := (s.lane i l).pc + 8#64, monitor := none, stamp := s.clock.cycle } ∧
        ∀ r, (t.spindle i).getV r l = (if m.w64 then (if r = m.dest then some (v.extractLsb' 0 32) else if r = m.dest + 1 then some (v.extractLsb' 32 32) else none)
          else (if r = m.dest then some (v.setWidth 32) else none)).getD ((s.spindle i).getV r l)) ∧
    (∀ die slice, s.clock.ns % 2048 = 0 → (Config.monitorCount ≤ monitorsUsed s (watchers s die slice) ∨ (watchers s die slice).any (watchesHost s) = true) →
      ∃ t, exec (.monitorRecheck die slice) s = .next t) ∧
    (∀ l til, l < 32 → s.active i = true → til ≤ s.clock.cycle →
      ((s.lane i l).st = .sleeping til → exec (.sleepExpiry i l) s = .next (s.modLane i l (fun y => { y with st := .eligible, stamp := s.clock.cycle }))) ∧
      ((s.lane i l).st = .backoff til → exec (.backoffExpiry i l) s = .next (s.modLane i l (fun y => { y with st := .eligible, stamp := s.clock.cycle })))) ∧
    (∀ l til, s.clock.cycle < til →
      ((s.lane i l).st = .sleeping til → exec (.sleepExpiry i l) s = .next s) ∧
      ((s.lane i l).st = .backoff til → exec (.backoffExpiry i l) s = .next s))

/-- Commits, tokens and spawn bins: a spindle whose transactional lanes are all held at `TXE` commits: a lane whose sets meet a lower lane's aborts
with LANE, one whose read bytes, or the version of whose line, have changed with VALIDATE, and one that passes puts its bytes at the homes; a thread whose number is NEXT takes the
domain's token; a bin becomes ready at its timer, and a ready bin becomes a spindle whose lanes hold the threads' arguments (11 R253, R254,
R259; 14 R328-R340). -/
def Obligations.ThreadEvents : Prop :=
  ∀ (s : State),
    (∀ i m, i < s.spindles.length → (s.spindle i).lanes.length = 32 → m = commitLanes (s.spindle i) → m ≠ 0#32 → s.active i = true → (s.spindle i).inHandler = false →
      waitingCommit s i = none → (∃ t, exec (.txCommit i) s = .next t) ∧
      (s.mem.commits = [] → (∀ l < 32, m.getLsbD l = true → (s.lane i l).txReads = [] ∧ (s.lane i l).txWrites = []) →
        ∃ u ls, exec (.txCommit i) s = .next (rcvEvalAll u i) ∧ u = s.modSp i (fun sp => { sp with lanes := ls }) ∧
          ∀ l < 32, u.lane i l = if m.getLsbD l then committedLane s (s.lane i l) else s.lane i l) ∧
      ((lockLines s i m [] (commitWinners (s.spindle i) (lanesOf m)).2).stop = none →
        ∃ u, exec (.txCommit i) s = .next (rcvEvalAll u i) ∧ ∀ l < 32, m.getLsbD l = true →
          (∃ k < l, m.getLsbD k = true ∧ txConflict (s.lane i k) (s.lane i l) = true) → ∀ x, (s.lane i l).txn = some x →
            u.lane i l = retriedLane s i 1#3 x (s.lane i l)) ∧
      (∀ l x y h, l < 32 → m = laneBit l → s.mem.commits = [] → (s.lane i l).txn = some x → CommitHome s i y.ea y.ln h →
        (x.ts = false → x.reads = [y] → x.writes = [] → marksHit h.line y.mask = 0#4 →
          ∃ u, exec (.txCommit i) s = .next (rcvEvalAll u i) ∧
            ((∀ k < 128, y.mask.getLsbD k = true → h.line.data.extractLsb' (8 * k) 8 = y.data.extractLsb' (8 * k) 8) → u.lane i l = committedLane s (s.lane i l)) ∧
            (∀ k < 128, y.mask.getLsbD k = true → h.line.data.extractLsb' (8 * k) 8 ≠ y.data.extractLsb' (8 * k) 8 → u.lane i l = retriedLane s i 2#3 x (s.lane i l))) ∧
        (x.ts = true → x.reads = [y] → x.writes = [] → ∃ u, exec (.txCommit i) s = .next (rcvEvalAll u i) ∧
          u.lane i l = if h.version ≤ x.start then committedLane s (s.lane i l) else retriedLane s i 2#3 x (s.lane i l)) ∧
        (∀ e, x.ts = false → x.reads = [] → x.writes = [y] → (s.teamOf i).rollb = false →
          rightsFind s.mem (s.spindle i).core y.ea (pageOfLn y.ln) = some e → leafW e.leaf = true → sealedPage s.mem y.ea (pageOfLn y.ln) = false →
          ∃ u g, exec (.txCommit i) s = .next (rcvEvalAll u i) ∧ u.lane i l = committedLane s (s.lane i l) ∧ homeFind u.mem y.ea y.ln = some g ∧
            ∀ k < 128, g.line.data.extractLsb' (8 * k) 8 = if y.mask.getLsbD k then y.data.extractLsb' (8 * k) 8 else h.line.data.extractLsb' (8 * k) 8))) ∧
    (∀ k s1 hit, s.tokens.find? (fun y => y.ea == k.ea && y.va.toNat == k.va.toNat && y.seq.toNat == k.seq.toNat && tokenReady s y) = some k →
      (∀ c ∈ s.mem.commits, c.sp ≠ k.sp) → domainNext s k.sp k.va = .ok s1 (k.seq, hit) →
      (∃ t, exec (.commitTokenMessage k.ea k.va.toNat k.seq.toNat) s = .next t) ∧
      ((s.lane k.sp k.lane).st = .held .serial → exec (.commitTokenMessage k.ea k.va.toNat k.seq.toNat) s = .next
        (rcvEvalAll ({ s1 with tokens := s1.tokens.map (fun x => if x == k then { k with granted := true } else x) }.modLane k.sp k.lane (fun y =>
          { y with st := .eligible, stamp := s1.clock.cycle })) k.sp))) ∧
    (∀ ea va k0 s1 next hit,
      s.tokens.find? (fun k => k.ea == ea && k.va.toNat == va && (servedDomains s).contains (k.ea, k.va) && decide (k.since + 16384 ≤ s.clock.ns)) = some k0 →
      domainNext s k0.sp k0.va = .ok s1 (next, hit) →
      let due (k : TokenReq) : Prop := k.ea = ea ∧ k.va.toNat = va ∧ (k.ea, k.va) ∈ servedDomains s ∧ k.seq = next ∧ k.since + 16384 ≤ s.clock.ns
      (∃ k ∈ s.tokens, due k) → ∃ t, exec (.tokenRegeneration ea va) s = .next t ∧
        ∀ (n : Nat) (k : TokenReq), s.tokens[n]? = some k → (due k → t.tokens[n]? = some { k with since := s.clock.ns }) ∧ (¬ due k → t.tokens[n]? = some k)) ∧
    (∀ core n b, s.bins.find? (fun y => y.core == core && y.num == n && !y.saved) = some b → b.ready = none → b.threads ≠ [] → (s.team b.team).st = .running →
      b.start + (max 64 ((s.team b.team).spawntimer.toNat % 65536) - b.elapsed) ≤ s.clock.cycle →
      exec (.spawnBinTimer core n) s = .next { s with bins := s.bins.map (fun y => if y == b
        then { b with ready := some (b.start + (max 64 ((s.team b.team).spawntimer.toNat % 65536) - b.elapsed)) } else y) }) ∧
    (∀ core n b q k idx, s.bins.find? (fun y => y.core == core && y.num == n && !y.saved) = some b → (∀ sp ∈ s.spindles, sp.st = .ended → sp.uchunk = 0) →
      freePlace s core = some (q, k) → freeIndex s b.team = some idx → ArenaRoom s b.team (1 + (s.launchOf b.team).info.vcount / 16) → binTurn s b = true →
      (∃ t, exec (.binLaunch core n) s = .next t) ∧
      (b.ordered = false → ∃ t, exec (.binLaunch core n) s = .next t ∧ t.spindles.length = s.spindles.length + 1 ∧
        (t.spindle s.spindles.length).team = b.team ∧ (t.spindle s.spindles.length).idx = idx ∧ (t.spindle s.spindles.length).core = core ∧
        (t.spindle s.spindles.length).st = .resident ∧
        ∀ l < 32, ((t.lane s.spindles.length l).st = if l < b.threads.length then .eligible else .exited) ∧
          ∀ x, b.threads[l]? = some x → (t.lane s.spindles.length l).pc = b.entry ∧
            ∀ j w, x.args[j]? = some w → (t.spindle s.spindles.length).getV j l = w))

/-- The events of copies and homes: a lease that has ended leaves at most the core's own dirty bytes, a write-back leaves none dirty, and a
home serves a core's read or request for ownership that the rights allow (13 R303-R306). -/
def Obligations.HomeEvents : Prop :=
  ∀ (s : State) (core ea ln : Nat),
    (∀ x, l1Find s.mem core ea ln = some x → x.owned = false → x.serves s.clock.ns = false → x.line.dirty = 0#128 ∨ x ≠ x.ownOnly →
      ∃ l1, exec (.leaseExpiry core ea ln) s = .next { s with mem := { s.mem with l1 := l1 } } ∧
        (∀ k < 128, copyByte l1 core ea ln k = if x.line.dirty.getLsbD k = true then some (x.line.data.extractLsb' (8 * k) 8, true) else none) ∧
        ∀ c e n, (c, e, n) ≠ (core, ea, ln) → ∀ k < 128, copyByte l1 c e n k = copyByte s.mem.l1 c e n k) ∧
    (∀ x, l1Find s.mem core ea ln = some x → x.line.dirty ≠ 0#128 →
      ∃ t, exec (.homeWriteback core ea ln) s = .next t ∧ MemoryOnly s t ∧ ∀ y, l1Find t.mem core ea ln = some y → y.line.dirty = 0#128) ∧
    (∀ own k x h, locked s ea ln = false → (s.mem.l1.filter (fun y => y.core == core)).length < Config.l1Lines → teamOn s core ea = some k → rightsFind s.mem core ea (pageOfLn ln) = some x →
      (if own then leafW x.leaf = true ∧ leafLock x.leaf = false ∧ sealedPage s.mem ea (pageOfLn ln) = false ∧ leafClass x.leaf ≠ 0
       else leafR x.leaf = true ∧ min 3 (leafLcap x.leaf) ≠ 0 ∧ leaseLen s.leaseL1 (min 3 (leafLcap x.leaf)) ≠ some 0) →
      homeFind s.mem ea ln = some h → h.line.valid = BitVec.allOnes 128 → h.owner = none → h.undo = [] → s.mem.hostHeld = [] →
      s.links.down = [] → (own = true → moving s ea (pageOfLn ln) = false) → l1Find s.mem core ea ln = none →
      ∃ t, exec (.homeOwnershipRequest core ea ln own) s = .next t ∧ MemoryOnly s t ∧
        ∃ y, l1Find t.mem core ea ln = some y ∧ y.owned = own ∧ y.line.data = h.line.data)

/-- The host and other devices: a snoop gives a cached host line back and ends the copy under INV; a host access of an unmapped address acts at
memory; a response ends the host's copy, and brings its dirty bytes to the home, or to memory; rows from the fabric are served where the rights allow, their
marks as log entry 104 says, and answered with the cause where they do not, and acknowledgements count off a command's positions (08 R204, R206; 19 R413,
R414). -/
def Obligations.HostTraffic : Prop :=
  ∀ (s : State),
    (∀ pa inv ea ln h, Config.hostBase ≤ pa / 128 * 128 → pa / 128 * 128 < Config.hostTop → fencedHost s = false → lineOfPa s (pa / 128 * 128) = some (ea, ln) →
      homeFind s.mem ea ln = some h → locked s ea ln = false → ∃ t r, exec (.hostSnoop pa inv) s = .next t ∧ t.hostReplies = s.hostReplies ++ [.host (pa / 128 * 128) r] ∧
        (inv = true → homeFind t.mem ea ln = none) ∧
        (h.owner = none → h.line.valid = BitVec.allOnes 128 → r % 2 ^ 1024 = h.line.data.toNat)) ∧
    (∀ off size write data poison pa, pa = s.adeol.hdm.toNat / 2 ^ 30 % 2 ^ 22 * 2 ^ 30 + off → size ≠ 0 → pa % 128 + size ≤ 128 →
      off + size ≤ s.adeol.hdm.toNat % 2 ^ 16 * 2 ^ 30 → fencedHost s = false →
      (∃ t, exec (.hostMemAccess off size write data poison) s = .next t) ∧
      (s.adeol.astbase.getLsbD 0 = false →
        (write = false → ∃ r, exec (.hostMemAccess off size write data poison) s = .next { s with hostReplies := s.hostReplies ++ [.host pa r] } ∧
          r % 2 ^ (8 * size) = bytesGet s.mem.phys pa size) ∧
        (write = true → ∃ m, exec (.hostMemAccess off size write data poison) s = .next { s with mem := m } ∧
          ∀ k, bytesGet m.phys k 1 = if pa ≤ k ∧ k < pa + size then data / 2 ^ (8 * (k - pa)) % 256 else bytesGet s.mem.phys k 1))) ∧
    (∀ pa dirty data poison, fencedHost s = false → pa / 128 * 128 < Config.hostTop →
      let k := pa / 128
      let given : MemSys := { s.mem with hostHeld := s.mem.hostHeld.filter (· != k), hostWait := s.mem.hostWait.filter (fun x => x.1 != k) }
      (s.mem.hostHeld.contains k = true ∨ s.mem.hostWait.any (fun x => x.1 == k) = true →
        (dirty = false → exec (.cxlHostResponse pa dirty data poison) s = .next { s with mem := given }) ∧
        (∀ ea ln h, dirty = true → lineOfPa s (128 * k) = some (ea, ln) → homeFind s.mem ea ln = some h →
          ∃ t g, exec (.cxlHostResponse pa dirty data poison) s = .next t ∧ (poison = 0#4 → t.mem.hostHeld = given.hostHeld ∧ t.mem.hostWait = given.hostWait ∧
            homeFind t.mem ea ln = some g ∧ g.line.data = data ∧ g.version = s.clock.ns))) ∧
      (s.mem.hostHeld.contains k = false → s.mem.hostWait.any (fun x => x.1 == k) = false → Config.hostBase ≤ 128 * k →
        lineOfPa s (128 * k) = none → ∃ t, exec (.cxlHostResponse pa dirty data poison) s = .next t ∧
          (poison = 0#4 → s.mem.moves = [] → ∀ j < 128, bytesGet t.mem.phys (128 * k + j) 1 = (data.extractLsb' (8 * j) 8).toNat))) ∧
    (∀ asid va size tag h e, 0 < size → offOf (BitVec.ofNat 64 va) + size ≤ 128 →
      let ea := eaOf (BitVec.ofNat 14 asid) (BitVec.ofNat 64 va)
      fabricCheck s ea (BitVec.ofNat 64 va) false = .ok s e → s.mem.hostHeld = [] → s.links.down = [] → locked s ea (lnOf (BitVec.ofNat 64 va)) = false →
      homeFind s.mem ea (lnOf (BitVec.ofNat 64 va)) = some h → h.line.valid = BitVec.allOnes 128 → h.owner = none → h.undo = [] →
      ∃ r z, exec (.fabricGatherRequest asid va size tag) s = .next { s with hostReplies := s.hostReplies ++ [.row tag r z] } ∧ (leafET e = false → z = 0) ∧
        r % 2 ^ (8 * size) = lineBytesGet h.line.data (offOf (BitVec.ofNat 64 va)) size) ∧
    (∀ asid va size tag, (∃ t, exec (.fabricGatherRequest asid va size tag) s = .next t) ∧
      (0 < size → canonical (BitVec.ofNat 64 va) = false →
        exec (.fabricGatherRequest asid va size tag) s = .next { s with hostReplies := s.hostReplies ++ [.acknowledgement tag 9] })) ∧
    (∀ asid va rop head data poison, (∃ t, exec (.fabricScatterWrite asid va rop head data poison) s = .next t) ∧
      (0 < head.size → canonical (BitVec.ofNat 64 va) = false →
        exec (.fabricScatterWrite asid va rop head data poison) s = .next { s with hostReplies := s.hostReplies ++ [.acknowledgement head.tag 9] })) ∧
    (∀ id pos answer poison c, s.cmds.find? (fun y => y.id == id && y.remote.any (fun x => x.1 == pos)) = some c →
      (∃ t, exec (.fabricAcknowledgement id pos answer poison) s = .next t) ∧
      ∀ data z, answer = .row data z → (∀ p d a b lk t, c.instr ≠ .gathf p d a b lk t) → exec (.fabricAcknowledgement id pos answer poison) s = .next
        { s with cmds := s.cmds.map (fun y => if y.id == id then { c with remote := c.remote.filter (fun x => x.1 != pos) } else y) })

/-- The links: a retrain brings its link up and counts, but for a Lamvo port's first training; a failure takes a link down; a party that has let something
wait for ISOLTO.TIMEOUT is fenced, and before that time nothing happens; a host whose link is down is fenced. That what waits behind a failed UCIe link goes
on once it trains is log entry 80 (19 R412, R416-R421; 22 R459). -/
def Obligations.Links : Prop :=
  ∀ (s : State),
    (∀ q < 16, (∃ t, exec (.linkRetrain (.lamvo q)) s = .next t ∧ (cellGet t.adeol.lport q).getLsbD 63 = true ∧
        (cellGet t.adeol.lport q).extractLsb' 32 18 = Config.portPeer q ∧ t.links.trained = insertNat s.links.trained q ∧
        (cellGet t.adeol.lport q).toNat % 2 ^ 16 = (if s.links.trained.contains q then min 0xFFFF ((cellGet s.adeol.lport q).toNat % 2 ^ 16 + 1)
          else (cellGet s.adeol.lport q).toNat % 2 ^ 16) ∧ (∀ k, k ≠ q → cellGet t.adeol.lport k = cellGet s.adeol.lport k) ∧
        LifeCounts s t (if s.links.trained.contains q then [0x20 + q] else [])) ∧
      ∃ t, exec (.linkFailure (.lamvo q)) s = .next t ∧ (cellGet t.adeol.lport q).getLsbD 63 = false ∧
        (∀ k < 63, (cellGet t.adeol.lport q).getLsbD k = (cellGet s.adeol.lport q).getLsbD k) ∧ ∀ k, k ≠ q → cellGet t.adeol.lport k = cellGet s.adeol.lport k) ∧
    (∀ i < 6, (∃ t, exec (.linkRetrain (.ucie i)) s = .next t ∧ LifeCounts s t [0x10 + i] ∧ i ∉ t.links.down ∧ (∀ x ∈ t.mem.hostWait, x.1 < dieKey 0) ∧
        t = { s with nvm := t.nvm, links := { s.links with down := t.links.down }, mem := { s.mem with hostWait := t.mem.hostWait } }) ∧
      ∃ t, exec (.linkFailure (.ucie i)) s = .next t ∧ i ∈ t.links.down ∧ t = { s with links := { s.links with down := t.links.down } }) ∧
    (fencedHost s = false → ∃ t, exec .hostLinkDown s = .next t ∧ fencedHost t = true ∧ t.mem.hostHeld = [] ∧ ∀ x ∈ t.mem.hostWait, dieKey 0 ≤ x.1) ∧
    (∀ party, overdue s party = false → exec (.isolationTimeout party) s = .next s) ∧
    (∀ x ∈ s.mem.hostWait, x.2 + max 1 (s.adeol.isolto.toNat % 2 ^ 32) * 1000 ≤ s.clock.ns →
      (x.1 < dieKey 0 → fencedHost s = false → ∃ t, exec (.isolationTimeout .host) s = .next t ∧ fencedHost t = true ∧ t.mem.hostHeld = []) ∧
      (∀ d < 4, x.1 = dieKey d → fencedDie s d = false → ∃ t, exec (.isolationTimeout (.die d)) s = .next t ∧ fencedDie t d = true)) ∧
    (∀ n, n ∉ s.deadDevices → (∃ c ∈ s.cmds, ∃ x ∈ c.remote, x.2 = n ∧ c.asked + max 1 (s.adeol.isolto.toNat % 2 ^ 32) * 1000 ≤ s.clock.ns) →
      ∃ t, exec (.isolationTimeout (.device n)) s = .next t ∧ n ∈ t.deadDevices)

/-- The translation command queue serves its oldest command, once the writes to its registers that stand by have taken effect: each operation completes it with its status, one that is malformed or of no
operation with 2, and any while translation is off with 3; invalidations leave no entry for the range; a MIGRATE of a page that cannot move completes with 3, and
one that can begins its move, which locks the leaves, copies the frames and gives each leaf its new frame and home, but is abandoned with 3 where a leaf has changed; a
placement interval ends with its counts halved. No commit holds a line, and a move of the placement unit is as log entry 65 says, which entry 66 names as the model's steps (18 R395, R398, R399,
R403-R407, R409). -/
def Obligations.TranslationQueue : Prop :=
  ∀ (s : State), s.mem.commits = [] → s.links.down = [] →
    (∀ c, s.mem.moves = [] → tcqHead (takeWrites s) = some c →
      let w : State := takeWrites s
      let e : Instr := if c.op = 1 then .tcqInval else if c.op = 2 then .tcqResume else if c.op = 3 then .tcqFail else if c.op = 4 then .tcqMigrate
        else if c.op = 5 then .tcqRetire else .tcqBadOp
      (w.adeol.astbase.getLsbD 0 = false → exec e s = .next (tcqDone w c 3)) ∧
      (w.adeol.astbase.getLsbD 0 = true → c.bad = true → exec e s = .next (tcqDone w c 2)) ∧
      (w.adeol.astbase.getLsbD 0 = true → c.bad = false →
        (c.op ≠ 4 → ∃ u, exec e s = .next (tcqDone u c (if 1 ≤ c.op ∧ c.op ≤ 5 then 1 else 2)) ∧
          (c.op = 1 → (∀ x ∈ u.mem.rights, c.range.meets x.ea x.page x.span = false) ∧ ∀ x ∈ u.mem.tlb, c.range.meets x.ea x.page x.span = false) ∧
          (c.op = 5 → (∀ x ∈ u.mem.rights, x.ea = c.range.ea → 2 ^ 45 ≤ x.page ∨ x.span = 0) ∧
            ∀ x ∈ u.mem.tlb, x.ea = c.range.ea → 2 ^ 45 ≤ x.page ∨ x.span = 0) ∧
          (c.op = 0 ∨ 5 < c.op → u = w)) ∧
        (c.op = 4 → migrateMoves (dropEntries w c.range) c = none → exec e s = .next (tcqDone (dropEntries w c.range) c 3)) ∧
        (∀ l, c.op = 4 → migrateMoves (dropEntries w c.range) c = some l →
          (∀ x ∈ l, frameFits x.frame (levelOf x.span) (x.first / x.span) (leafContig x.leaf) = true ∧ leafFramesOk (dropEntries w c.range) x.frame (levelOf x.span) = true) →
          fencedDie w c.home = false → fencedHost w = false →
          ∃ t v, exec e s = .next t ∧ t.mem.moves = [v] ∧ v.ea = c.range.ea ∧ v.home = c.home ∧ v.leaves = l ∧ v.step = 1 ∧ v.ordered = true))) ∧
    (∀ v c, s.mem.moves = [v] → v.ordered = true → v.since < s.clock.cycle →
      (v.step = 1 → ∃ t, exec .tcqMigrate s = .next t ∧ t.mem.moves = [{ v with step := 2, since := s.clock.cycle }] ∧
        ∀ x ∈ v.leaves, ∀ y ∈ t.mem.rights, (x.range v.ea).meets y.ea y.page y.span = true → leafLock y.leaf = true) ∧
      (∀ x, v.step = 3 → v.leaves = [x] → baseOf x.leaf + 4096 * x.span ≤ x.frame ∨ x.frame + 4096 * x.span ≤ baseOf x.leaf → Memory.wf s.mem.phys →
        ∃ t, exec .tcqMigrate s = .next t ∧ t.mem.moves = [{ v with step := 4, since := s.clock.cycle }] ∧
          (∀ k < 4096 * x.span, bytesGet t.mem.phys (x.frame + k) 1 = bytesGet s.mem.phys (baseOf x.leaf + k) 1) ∧
          ∀ a, ¬ (x.frame ≤ a ∧ a < x.frame + 4096 * x.span) → bytesGet t.mem.phys a 1 = bytesGet s.mem.phys a 1) ∧
      (v.step = 4 → tcqHead (abandonMove s v) = some c → (∃ x ∈ v.leaves, BitVec.ofNat 64 (paRead s x.slot 8) ≠ lockedLeaf x.leaf) →
        exec .tcqMigrate s = .next (tcqDone (abandonMove s v) c 3)) ∧
      (v.step = 6 → tcqHead (finishMove s v) = some c → exec .tcqMigrate s = .next (tcqDone (finishMove s v) c 1))) ∧
    (s.mem.moves = [] → s.due.place ≤ s.clock.ns → ∃ t, exec .placementInterval s = .next t ∧
      t.due.place = s.due.place + max 1 (s.adeol.place.toNat / 2 ^ 16 % 2 ^ 16) * 1000 ∧
      (s.adeol.place.getLsbD 63 = false → t = { s with
        mem := { s.mem with counters := s.mem.counters.map (fun c => { c with c0 := c.c0 / 2, c1 := c.c1 / 2, c2 := c.c2 / 2, c3 := c.c3 / 2 }) },
        due := { s.due with place := t.due.place } }))

/-- The distributor: its cycle comes every 16 ns; of a partition's one launch it admits one whose energy the reserve covers, or a root launch, and not another; its
teams then wait, and one that a pavilion has room for is dispatched there, on its cores with room in ascending order, in the first such pavilion of its own die
and then of the others; a team that stops is suspended with no spindle in a slot; a team that has waited goes to the
die with the most free slots and joins its queues; a dependence is satisfied by its word's value; and a team whose threads are gone ends (17
R358-R374; 22 R456). -/
def Obligations.Distribution : Prop :=
  ∀ (s : State),
    (s.distNext ≤ s.clock.ns → ∃ t, exec .distributorCycle s = .next t ∧ t.distNext = (s.clock.ns / 16 + 1) * 16) ∧
    (∀ l, AloneReady s l → s.teams = [] → l.root = false → (s.part 0).energyres < (l.info.energy : Int) →
      exec .distributorCycle s = .next { s with distNext := (s.clock.ns / 16 + 1) * 16 }) ∧
    (∀ l, AloneReady s l → s.teams = [] → l.root = true ∨ (l.info.energy : Int) ≤ (s.part 0).energyres →
      (∀ v ∈ (s.part 0).pavs, ∀ k < 8, coreUsable s (8 * v + k) = false) → ∃ t, exec .distributorCycle s = .next t ∧ (t.launch 0).st = .admitted ∧
        t.teams.length = l.info.teams ∧ ∀ k < l.info.teams, (t.team k).st = .pending ∧ (t.team k).launch = 0 ∧ (t.team k).idx = k ∧ (t.team k).qdie = l.die ∧
          (t.team k).prio = BitVec.ofNat 4 l.prio) ∧
    (∀ l v cores u, AloneWaiting s l → placeFresh l.info (pavOrder (s.part 0) (s.team 0).qdie) ((s.part 0).pavs.map (fun w => (w, pavRoom s w))) = some (v, cores) →
      dispatchTeam { s with distNext := (s.clock.ns / 16 + 1) * 16 } 0 v cores = .ok u () →
      exec .distributorCycle s = .next u ∧ (u.team 0).st = .running ∧ (u.team 0).ranks = cores ∧ (u.launch 0).st = .running ∧
      v ∈ (s.part 0).pavs ∧ cores.Pairwise (· < ·) ∧ cores.length ∈ l.info.counts ∧ (∀ c ∈ cores, c / 8 = v ∧ HasRoom s l.info cores.length c) ∧
      (∀ w ∈ (s.part 0).pavs, (dieOfPav w = (s.team 0).qdie ∧ (dieOfPav v ≠ (s.team 0).qdie ∨ w < v)) → ∀ n ∈ l.info.counts,
        ¬ ∃ c : List Nat, c.Nodup ∧ c.length = n ∧ ∀ x ∈ c, x / 8 = w ∧ HasRoom s l.info n x) ∧
      (l.info.spindles = 1 → ArenaRoom s 0 (1 + l.info.vcount / 16) → ∃ sp, u.spindles[s.spindles.length]? = some sp ∧ sp.team = 0 ∧ sp.idx = 0 ∧
        sp.core = cores.headD 0 ∧ sp.st = .resident ∧ sp.entry = l.info.entry ∧ sp.vcount = l.info.vcount ∧
        ∀ k < 32, (sp.lanes.getD k Lane.blank).st = .eligible ∧ (sp.lanes.getD k Lane.blank).pc = l.info.entry)) ∧
    (∀ k, (s.team k).st = .suspending → stopsLate s k = false → (∃ t, exec (.teamSuspend k) s = .next t) ∧
      ∀ u, suspendTeam s k = .ok u () → exec (.teamSuspend k) s = .next (haltStep u (u.team k).part) ∧ (u.team k).st = .suspended ∧
        ∀ sp ∈ u.spindles, sp.team = k → sp.st ≠ .resident) ∧
    (∀ k, waitsForPlace s k = true → (s.team k).since + 20000 ≤ s.clock.ns → bestDie s (s.team k).part ≠ (s.team k).qdie →
      ∃ t, exec (.teamMigrationDie k) s = .next t ∧ t.distMsgs = s.distMsgs ++ [k] ∧ (t.team k).qdie = bestDie s (s.team k).part) ∧
    (∀ k, k ∈ s.distMsgs → k < s.teams.length → messageBefore s k = false → ∃ t, exec (.distributorMessage k) s = .next t ∧ t.distMsgs = s.distMsgs.erase k ∧
      (t.team k).since = s.clock.ns) ∧
    (∀ n d a v h, (s.launch n).st = .waiting → (s.launch n).sat[d]? = some false → (s.launch n).abandoned = false →
      (s.part (s.launch n).part).haltReason = 0 → (s.launch n).info.deps[d]? = some (a, v) → wordAccess s (s.launch n).part a false = .usable →
      s.mem.hostHeld = [] → s.links.down = [] → locked s (eaOf (s.part (s.launch n).part).asid a) (lnOf a) = false →
      homeFind s.mem (eaOf (s.part (s.launch n).part).asid a) (lnOf a) = some h → h.owner = none → h.undo = [] →
      marksHit h.line (byteMask (offOf a) 8) = 0#4 → v ≤ lineBytesGet h.line.data (offOf a) 8 →
      ∃ t, exec (.dependenceSatisfied n d) s = .next t ∧ (t.launch n).sat = (s.launch n).sat.set d true ∧
        (t.launch n).st = if ((s.launch n).sat.set d true).all id then .ready else .waiting) ∧
    (∀ k, k < s.teams.length → teamDone s k = true → ∃ t, exec (.teamEnd k) s = .next t ∧ (t.team k).st = .ended)

/-- Errors, energy, the clock, lifetime records and the rotation scan: an error marks the named sectors where it strikes and nothing else of the data, and one in an
engine ends its command with ENGINE_FAULT; a tick charges the teams by their cycles and requests, rounded as log entry 125 says, and the partitions by what is
left; the clock keeps POWERCAP; a minute counts in one bin of each die's temperature and of its supply. DURATION counts as log entry 101 says (08 R186; 21 R430,
R446-R448; 22 R454-R459). -/
def Obligations.DeviceEvents : Prop :=
  ∀ (s : State),
    (baseOf s.adeol.errring = 0 →
     (∀ pa m, pa < Config.hbmTop → s.mem.moves = [] → ∃ t, exec (.poisonMark (.hbm pa m)) s = .next t ∧ t.mem.phys = s.mem.phys ∧
        ∀ j, j ∈ t.mem.marks ↔ j ∈ s.mem.marks ∨ ∃ i < 4, m.getLsbD i = true ∧ j = pa / 128 * 4 + i) ∧
     (∀ core ea ln m x, l1Find s.mem core ea ln = some x → ∃ t, exec (.poisonMark (.l1 core ea ln m)) s = .next t ∧
        l1Find t.mem core ea ln = some { x with line := { x.line with poison := x.line.poison ||| m } }) ∧
     (∀ ea ln m h, homeFind s.mem ea ln = some h →
       (∃ t, exec (.poisonMark (.l2 ea ln m)) s = .next t ∧ homeFind t.mem ea ln = some { h with line := { h.line with poison := h.line.poison ||| m } }) ∧
       ∃ t, exec (.poisonMark (.hostData ea ln m)) s = .next t ∧ homeFind t.mem ea ln = some { h with line := { h.line with poison := h.line.poison ||| m } }) ∧
     (∀ ea ln m b, bufFind s.mem ea ln = some b → ∃ t, exec (.poisonMark (.buffer ea ln m)) s = .next t ∧
        bufFind t.mem ea ln = some { b with line := { b.line with poison := b.line.poison ||| m } })) ∧
    ((∀ i reg m, i < s.spindles.length → (s.spindle i).st = .resident → reg < (s.spindle i).vcount → ∃ t, exec (.poisonMark (.regLine i reg m)) s = .next t ∧
       cellGet (t.spindle i).vpoison reg = cellGet (s.spindle i).vpoison reg ||| m ∧ (t.spindle i).v = (s.spindle i).v) ∧
     (∀ i line m, i < s.spindles.length → (s.spindle i).st = .resident → line < 16 → ∃ t, exec (.poisonMark (.uniLine i line m)) s = .next t ∧
       cellGet (t.spindle i).upoison line = cellGet (s.spindle i).upoison line ||| m ∧ (t.spindle i).s = (s.spindle i).s) ∧
     (∀ c, s.cmds.find? (fun y => y.id == c.id) = some c → ∃ u, exec (.poisonMark (.engine c.id)) s = .next (evalBarriers u c.team) ∧ (∀ y ∈ u.cmds, y.id ≠ c.id) ∧
       ∃ x ∈ u.reports, x.team = c.team ∧ x.info.cause = 0x0D#8 ∧ x.info.wspidx = (s.spindle c.sp).idx) ∧
     (∀ k rank line m, k < s.teams.length → (s.team k).st.holds = true → rank < (s.team k).cores → 128 * line < (s.team k).share →
       ∃ t, exec (.poisonMark (.scratch k rank line m)) s = .next t ∧ (t.team k).scratch = (s.team k).scratch ∧ ∀ j, j ∈ (t.team k).scratchPoison ↔
         j ∈ (s.team k).scratchPoison ∨ ∃ i < 4, m.getLsbD i = true ∧ j = scratchKeyOf rank (128 * line) / 32 + i) ∧
     (∀ k rank line m, k < s.teams.length → (s.team k).st.holds = true → rank < (s.team k).cores → line < 8 * (s.team k).tiles →
       ∃ t, exec (.poisonMark (.face k rank line m)) s = .next t ∧ (t.team k).face = (s.team k).face ∧ ∀ j, j ∈ (t.team k).facePoison ↔
         j ∈ (s.team k).facePoison ∨ ∃ i < 4, m.getLsbD i = true ∧ j = faceKey rank (line / 8) (128 * (line % 8)) / 32 + i)) ∧
    (∀ cores rest, s.due.energy ≤ s.clock.ns → (∀ x ∈ cores, 0 ≤ x.2) → (∀ x ∈ rest, 0 ≤ x.2) →
      (∀ c (e : Int), 0 ≤ e → (∀ k, 0 ≤ corePart s c k e) ∧ ((List.range s.teams.length).map (fun k => corePart s c k e)).sum ≤ e) ∧
      ∃ t, exec (.energyTick cores rest) s = .next t ∧ t.due.energy = s.due.energy + 1000 ∧ t.mem.served = [] ∧
        (∀ k < s.teams.length, (t.team k).energyused = (s.team k).energyused + ((cores.map (fun c => corePart s c.1 k c.2)).sum +
          chargeOf rest 1 * (cellGet s.mem.served k).toNat / max 1 (s.mem.served.map (·.2.toNat)).sum).toNat) ∧
        ∀ p < s.parts.length, (t.part p).energyres = if (s.part p).halted then (s.part p).energyres
          else min ((s.part p).energyres + (cellGet s.adeol.erate (lowPav (s.part p))).toNat) (cellGet s.adeol.emax (lowPav (s.part p))).toNat -
            ((((List.range s.teams.length).filter (fun k => (s.team k).part == p)).map (teamCharge s cores (chargeOf rest 1))).sum +
              ((cores.filter (fun c => (s.part p).pavs.contains (c.1 / 8))).map (fun c => c.2 - ((List.range s.teams.length).map (fun k => corePart s c.1 k c.2)).sum)).sum +
              chargeOf rest 0 * (s.part p).pavs.length / max 1 (s.parts.map (·.pavs.length)).sum)) ∧
    (∀ w, s.meter.watts = some w →
      (s.adeol.powercap.toNat < w → 1250 ≤ s.clock.mhz →
        exec (.powerThrottle true) s = .next { s with clock := { s.clock with mhz := s.clock.mhz - 250 }, meter := { s.meter with watts := none } }) ∧
      (w ≤ s.adeol.powercap.toNat → exec (.powerThrottle true) s = .next s) ∧
      (s.clock.mhz ≤ 3750 → w * (s.clock.mhz + 250) ≤ s.adeol.powercap.toNat * s.clock.mhz →
        exec (.powerThrottle false) s = .next { s with clock := { s.clock with mhz := s.clock.mhz + 250 }, meter := { s.meter with watts := none } })) ∧
    (∀ temps volts, s.due.minute ≤ s.clock.ns → temps.length = 4 → volts.length = 4 → ∃ t, exec (.lifetimeMinute temps volts) s = .next t ∧
      t = { s with nvm := t.nvm, due := { s.due with minute := s.due.minute + 60_000_000_000 } } ∧
      LifeCounts s t ((List.range 4).map (fun d => 0x3000 + 16 * d + binOf 40 5 (temps.getD d 0)) ++ (List.range 4).map (fun d => 0x3100 + 16 * d + binOf 600 25 (volts.getD d 0)) ++
        if s.due.minute % 3_600_000_000_000 = 0 then [0] else [])) ∧
    (s.due.commit ≤ s.clock.ns → (s.nvm.pend.map (·.1)).Nodup → ∃ t, exec .lifetimeCommit s = .next t ∧ t.nvm.pend = [] ∧ t.due.commit = s.due.commit + 600_000_000_000 ∧
      ∀ k, cellGet t.nvm.life k = cellGet s.nvm.life k + cellGet s.nvm.pend k) ∧
    (∀ c, nextScan s = some c → s.adeol.scanctl.getLsbD 63 = true → baseOf s.adeol.scanrec ≠ 0 → s.scan.core = none → s.scan.began + scanPeriod s ≤ s.clock.ns →
      ∃ t, exec .scanStart s = .next t ∧ t.scan.core = some c ∧ t.scan.began = s.clock.ns) ∧
    (∀ c pass, s.scan.core = some c → coreFree s c = true → s.scan.held + s.adeol.scanctl.toNat % 2 ^ 32 * 1_000_000 ≤ s.clock.ns →
      ∃ t, exec (.scanEnd pass) s = .next t ∧ t.scan.core = none ∧ (pass = false → fencedCore t c = true) ∧
        cellGet t.clock.coreBase c = BitVec.ofNat 64 s.clock.cycle)

/-- The controller's commands and registers: a partition is configured, started, halted, and a team killed; attestation commits its index, up to
2^20, and then signs with it; a register takes a value without reserved bits and reads as it, by its own rule, a register of the translation block from the next
command on; once the host is fenced, or in recovery, nothing is written (17 R357, R376, R380; 18 R409-R411; 19 R419, R421; 22 R450-R460). -/
def Obligations.ControllerCommands : Prop :=
  ∀ (s : State),
    (∀ pnum pavs share, pnum < 2 ^ 16 → partNum s pnum = none → pavs ≠ [] → pavs.Nodup → (∀ v ∈ pavs, v < 24 ∧ ∀ x ∈ s.parts, v ∉ x.pavs) → hostWorks s = true →
      ∃ t, exec (.adeolPartitionConfig pnum pavs share) s = .next t ∧ t.parts.length = s.parts.length + 1 ∧ (t.part s.parts.length).pavs = pavs ∧
        (t.part s.parts.length).pnum.toNat = pnum ∧ (t.part s.parts.length).share = share ∧ (t.part s.parts.length).started = false) ∧
    (∀ part asid record p, partNum (takeWrites s) part = some p → (s.part p).started = false ∨ (s.part p).halted = true → asid < 2 ^ 14 → fencedHost s = false →
      let w : State := takeWrites s
      let fresh : State := w.modPart p (fun x =>
        { Partition.blank with pnum := x.pnum, pavs := x.pavs, share := x.share, energyres := x.energyres, started := true, asid := BitVec.ofNat 14 asid })
      (w.adeol.astbase.getLsbD 0 = false → exec (.adeolPartitionStart part asid record) s = .next { w with hostReplies := w.hostReplies ++ [.start part 0xFF] }) ∧
      (∀ u1 v u2, w.adeol.astbase.getLsbD 0 = true → s.nvm.recovery = false → readRoot fresh p (BitVec.ofNat 64 record) = .ok u1 v → recordCheck u1 p 0 v = .ok u2 none →
        p < s.parts.length → ∃ t, exec (.adeolPartitionStart part asid record) s = .next t ∧ t.launches.length = u2.launches.length + 1 ∧
          (t.launch u2.launches.length).root = true ∧ (t.launch u2.launches.length).part = p ∧ (t.launch u2.launches.length).info = recordOf v)) ∧
    (∀ k, k < s.teams.length → (s.team k).st.over = false → fencedHost s = false → ∃ t, exec (.adeolKill k) s = .next t ∧ (t.team k).st = .killed) ∧
    (∀ part p, partNum s part = some p → (s.part p).started = true → (s.part p).haltReason = 0 → fencedHost s = false →
      ∃ t, exec (.adeolHalt part) s = .next t ∧ (t.part p).haltReason = 3 ∧ (t.part p).haltTime = s.clock.ns) ∧
    (∀ nonce, (hostWorks s = true → s.signing = none →
        (s.nvm.attidx < 2 ^ 20 → ∃ t, exec (.attest nonce) s = .next t ∧ t.nvm = { s.nvm with attidx := s.nvm.attidx + 1 } ∧ t.signing = some (s.nvm.attidx, nonce) ∧
          t.hostReplies = s.hostReplies) ∧
        (2 ^ 20 ≤ s.nvm.attidx → exec (.attest nonce) s = .next { s with hostReplies := s.hostReplies ++ [.attest none] })) ∧
      ∀ k, s.signing = some (k, nonce) → ∃ r, exec (.attest nonce) s = .next { s with signing := none, hostReplies := s.hostReplies ++ [.attest (some r)] } ∧
        r % 2 ^ 32 = k % 2 ^ 32 ∧ r < 2 ^ (8 * 2820)) ∧
    (∀ v : DWord, hostWorks s = true →
      (∃ t, exec (.astbaseWrite v) s = .next t ∧ t.adeol.astbase = s.adeol.astbase ∧ (s.adeol.staged = [] →
        let a : DWord := adeolRead t .translation 0x000
        (v &&& ~~~0x000F_FFFF_FFFF_F001#64 ≠ 0#64 → a = s.adeol.astbase) ∧
        (v &&& ~~~0x000F_FFFF_FFFF_F001#64 = 0#64 → v.getLsbD 0 = true → v &&& 0x000F_FFFF_FFFF_F000#64 ≠ 0#64 → s.adeol.rmapbase &&& 0x000F_FFFF_FFFF_F000#64 ≠ 0#64 → a = v) ∧
        (v &&& ~~~0x000F_FFFF_FFFF_F001#64 = 0#64 → v.getLsbD 0 = false → a = if s.adeol.astbase.getLsbD 0 = true ∧ s.parts ≠ [] then s.adeol.astbase else v))) ∧
      (∃ a, exec (.hdmWrite v) s = .next { s with adeol := { s.adeol with hdm := a } } ∧ (v &&& ~~~0x000F_FFFF_C000_FFFF#64 ≠ 0#64 → a = s.adeol.hdm)) ∧
      (∃ a, exec (.powercapWrite v) s = .next { s with adeol := { s.adeol with powercap := a } } ∧
        (v.toNat ≤ 3200 → (s.adeol.erate.map (·.2.toNat)).sum ≤ v.toNat → a = v) ∧ (3200 < v.toNat → a = s.adeol.powercap)) ∧
      (∀ p < 24, ∃ a, exec (.erateWrite p v) s = .next { s with adeol := { s.adeol with erate := a } } ∧
        (v.toNat < 2 ^ 16 → ((cellSet s.adeol.erate p v).map (·.2.toNat)).sum ≤ s.adeol.powercap.toNat → cellGet a p = v ∧ ∀ k, k ≠ p → cellGet a k = cellGet s.adeol.erate k) ∧
        (2 ^ 16 ≤ v.toNat ∨ s.adeol.powercap.toNat < ((cellSet s.adeol.erate p v).map (·.2.toNat)).sum → a = s.adeol.erate)) ∧
      (∃ a, exec (.dumpbaseWrite v) s = .next { s with adeol := { s.adeol with dumpbase := a } } ∧
        (v &&& ~~~0x000F_FFFF_FFFF_0001#64 = 0#64 → v.toNat / 65536 * 65536 < Config.hbmTop → a = v)) ∧
      exec (.haltstatClear v) s = .next { s with adeol := { s.adeol with
        haltstat := if v &&& ~~~0xFF_FFFF#64 ≠ 0#64 then s.adeol.haltstat else s.adeol.haltstat &&& ~~~v } }) ∧
    (∀ block off v, hostWorks s = false → exec (.adeolRegisterWrite block off v) s = .next s) ∧
    (∀ block off v, (block = .service → off ≠ 0x028) → ∃ t, exec (.adeolRegisterWrite block off v) s = .next t ∧ t = { s with adeol := t.adeol }) ∧
    (∀ block off mask (v : DWord), hostWorks s = true → (block, off, mask) ∈ [(AdeolBlock.translation, 0x008, 0x000F_FFFF_FFFF_F000#64), (.translation, 0x018, 0x000F_FFFF_FFFF_F0FF#64),
        (.translation, 0x020, 0x000F_FFFF_FFFF_F0FF#64), (.translation, 0x040, 0x000F_FFFF_FFFF_F0FF#64), (.translation, 0x060, 0x000F_FFFF_FFFF_F0FF#64),
        (.translation, 0x068, 0x80FF_FFFF_FFFF_0000#64), (.fabric, 0x100, 0xFFFF_FFFF#64), (.fabric, 0x118, 0x000F_FFFF_FFFF_F000#64), (.error, 0x000, 0xFFFF_FFFF#64),
        (.error, 0x010, 0x000F_FFFF_FFFF_F0FF#64), (.error, 0x020, 0x8000_FFFF_FFFF_FFFF#64), (.error, 0x028, 0x000F_FFFF_FFFF_F000#64), (.service, 0x018, 0xFFFF#64)] →
      ∃ t, exec (.adeolRegisterWrite block off v) s = .next t ∧
        adeolRead t block off = (if v &&& ~~~mask = 0#64 then v else adeolRead s block off))

/-- The resets: power loss and cold reset empty the device and HBM and count, a warm re-entry halts every partition first and keeps memory, and recovery ends
only with an image that the boot ROM accepts and with memory that trains. That host memory stays, and that marks of HBM end, is log entry 78; that a bring-up whose image fails
ends in phase 2, log entry 77 (22 R459-R461). -/
def Obligations.Resets : Prop :=
  ∀ (s : State),
    (∃ t, exec .powerLoss s = .next t ∧ t.spindles = [] ∧ t.teams = [] ∧ t.parts = [] ∧ t.mem.l1 = [] ∧ t.mem.home = [] ∧ LifeCounts { s with nvm := { s.nvm with pend := [] } } t [1] ∧
      (∀ c ∈ t.mem.phys, Config.hostBase ≤ c.1) ∧ t.devnum = s.devnum) ∧
    (∀ ms ≤ 5000, ∃ t, exec (.coldReset ms) s = .next t ∧ t.spindles = [] ∧ t.teams = [] ∧ t.parts = [] ∧ t.mem.l1 = [] ∧ t.mem.home = [] ∧ t.nvm.pend = [] ∧
      (∀ c ∈ t.mem.phys, Config.hostBase ≤ c.1) ∧ t.adeol.astbase = 0#64 ∧
      (t.nvm.recovery = false → Config.shake256 s.nvm.image.key = Config.fusedKeyHash ∧
        Config.xmssVerify s.nvm.image.key (measureImage s.nvm.image) s.nvm.image.signature = true ∧ s.nvm.fwmin ≤ s.nvm.image.version ∧
        t.nvm.fwmin = max s.nvm.fwmin s.nvm.image.minver)) ∧
    (∀ image, s.nvm.recovery = true → image.ms ≤ 5000 → ∃ t, exec (.firmwareImage image) s = .next t ∧
      (t.nvm.recovery = false ↔ Config.shake256 image.key = Config.fusedKeyHash ∧ Config.xmssVerify image.key (measureImage image) image.signature = true ∧
        s.nvm.fwmin ≤ image.version ∧ Config.memoryTrains s.free = true)) ∧
    (∀ ms ≤ 5000, s.nvm.recovery = false → s.mem.moves = [] → (∀ p ∈ s.parts, p.started = false) →
      ∃ t, exec (.warmReentry ms) s = .next t ∧ t.spindles = [] ∧ t.teams = [] ∧ t.mem.l1 = [] ∧ t.mem.home = [] ∧ t.nvm.pend = [] ∧
        (measureImage s.nvm.image ≠ s.nvm.measurement → t.nvm.recovery = true) ∧
        (t.nvm.recovery = false → t.parts = s.parts ∧ t.clock.ns = s.clock.ns + ms * 1_000_000 ∧ t.adeol.astbase = (takeWrites s).adeol.astbase ∧
          t.adeol.powercap = s.adeol.powercap ∧ t.adeol.erate = s.adeol.erate ∧
          (s.adeol.staged = [] → s.mem.l1 = [] → s.mem.home = [] → s.mem.buf = [] → s.adeol.dumpbase.getLsbD 0 = false → t.mem.phys = s.mem.phys ∧ t.mem.marks = s.mem.marks))) ∧
    (∀ ms ≤ 5000, s.nvm.recovery = false → s.mem.moves = [] → s.adeol.staged = [] → (∃ p ∈ s.parts, p.started = true ∧ p.halted = false ∧ p.haltReason ≠ 0) →
      (∀ p ∈ s.parts, p.started = true → p.haltReason ≠ 0) → exec (.warmReentry ms) s = .next { s with reentry := some ms })
end

