-- ==== Sys2Proof/Laws/Arena.lean ====
section
/-! SUPPORT. What taking chunks of a register arena can do: a grant is all or none and changes the team alone, and so do the copies of a
rollback interval's snapshot. -/

namespace Sys2Proof.Machine

open Sys2Proof

theorem takeChunks_some {s u : State} {t n : Nat} {l : List Nat} (h : takeChunks s t n = some (u, l)) :
    l.length = n ∧ u = s.modTeam t (fun x => { x with chunks := l.foldl insertNat x.chunks }) := by
  unfold takeChunks at h
  dsimp only at h
  split at h
  · rename_i e
    simp only [Option.some.injEq, Prod.mk.injEq] at h
    obtain ⟨rfl, rfl⟩ := h
    exact ⟨e, rfl⟩
  · cases h

theorem State.modTeam_modTeam (s : State) (t : Nat) (f g : Team → Team) : (s.modTeam t f).modTeam t g = s.modTeam t (fun x => g (f x)) := by
  simp only [State.modTeam, List.modify_modify_eq]
  rfl

theorem copyUnits_team (s : State) (t : Nat) : copyUnits s t = s ∨ ∃ f : Team → Team, copyUnits s t = s.modTeam t f := by
  unfold copyUnits
  split
  · exact .inl rfl
  · split
    · exact .inl rfl
    · dsimp only
      split
      · exact .inr ⟨_, rfl⟩
      · rename_i e
        obtain ⟨_, rfl⟩ := takeChunks_some e
        exact .inr ⟨_, State.modTeam_modTeam ..⟩

theorem copyUnits_mem (s : State) (t : Nat) : (copyUnits s t).mem = s.mem := by
  obtain h | ⟨f, h⟩ := copyUnits_team s t <;> rw [h] <;> rfl

end Sys2Proof.Machine
end

