-- ==== Sys2Proof/Laws/Cells.lean ====
section
/-! SUPPORT. Laws of sparse files, of byte files and of lane masks: read after write, and the one form that every write
keeps. -/

namespace Sys2Proof.Machine

open Sys2Proof

variable {w : Nat}

-- Read after write

theorem cellGet_erase_same (c : List (Nat × BitVec w)) (k : Nat) : cellGet (cellErase c k) k = 0#w := by
  induction c with
  | nil => rfl
  | cons a r ih =>
    obtain ⟨a, v⟩ := a
    simp only [cellErase]
    split
    · exact ih
    · simp only [cellGet, ih]
      rw [if_neg ‹_›]

theorem cellGet_erase_other (c : List (Nat × BitVec w)) {k j : Nat} (h : j ≠ k) : cellGet (cellErase c k) j = cellGet c j := by
  induction c with
  | nil => rfl
  | cons a r ih =>
    obtain ⟨a, v⟩ := a
    simp only [cellErase]
    split
    · subst a
      rw [ih]
      simp only [cellGet]
      rw [if_neg (fun e => h e.symm)]
    · simp only [cellGet, ih]

/-- No cell of the file has this key. -/
def cellFree (c : List (Nat × BitVec w)) (k : Nat) : Prop := ∀ x ∈ c, x.1 ≠ k

theorem cellFree_erase (c : List (Nat × BitVec w)) (k : Nat) : cellFree (cellErase c k) k := by
  induction c with
  | nil => intro x h; cases h
  | cons a r ih =>
    obtain ⟨a, v⟩ := a
    simp only [cellErase]
    split
    · exact ih
    · intro x h
      rcases List.mem_cons.1 h with rfl | h
      · assumption
      · exact ih x h

theorem cellGet_insert (c : List (Nat × BitVec w)) (k j : Nat) (x : BitVec w) (h : cellFree c k) :
    cellGet (cellInsert c k x) j = if j = k then x else cellGet c j := by
  induction c with
  | nil =>
    simp only [cellInsert, cellGet]
    by_cases e : j = k
    · rw [if_pos e.symm, if_pos e]
    · rw [if_neg (fun q => e q.symm), if_neg e]
  | cons a r ih =>
    obtain ⟨a, v⟩ := a
    have ha : a ≠ k := h (a, v) (List.mem_cons_self ..)
    have hr : cellFree r k := fun y hy => h y (List.mem_cons_of_mem _ hy)
    simp only [cellInsert]
    split
    · simp only [cellGet]
      by_cases e : j = k
      · rw [if_pos e.symm, if_pos e]
      · rw [if_neg (fun q => e q.symm), if_neg e]
    · simp only [cellGet, ih hr]
      by_cases e : a = j
      · rw [if_pos e, if_pos e, if_neg (fun q => ha (e.trans q))]
      · rw [if_neg e, if_neg e]

/-- A cell reads as it was written last; every other cell reads as before. -/
theorem cellGet_set (c : List (Nat × BitVec w)) (k j : Nat) (x : BitVec w) :
    cellGet (cellSet c k x) j = if j = k then x else cellGet c j := by
  unfold cellSet
  split
  · by_cases e : j = k
    · subst e
      rw [if_pos rfl, cellGet_erase_same]
      exact Eq.symm ‹_›
    · rw [if_neg e, cellGet_erase_other c e]
  · rw [cellGet_insert _ _ _ _ (cellFree_erase c k)]
    by_cases e : j = k
    · rw [if_pos e, if_pos e]
    · rw [if_neg e, if_neg e, cellGet_erase_other c e]

@[simp] theorem cellGet_set_same (c : List (Nat × BitVec w)) (k : Nat) (x : BitVec w) : cellGet (cellSet c k x) k = x := by
  rw [cellGet_set, if_pos rfl]

theorem cellGet_set_other (c : List (Nat × BitVec w)) {k j : Nat} (x : BitVec w) (h : j ≠ k) :
    cellGet (cellSet c k x) j = cellGet c j := by
  rw [cellGet_set, if_neg h]

theorem cellSets_nil (c : List (Nat × BitVec w)) : cellSets c [] = c := rfl
theorem cellSets_cons (c : List (Nat × BitVec w)) (x : Nat × BitVec w) (l : List (Nat × BitVec w)) :
    cellSets c (x :: l) = cellSets (cellSet c x.1 x.2) l := rfl

/-- A cell that no write of a list names reads as before. -/
theorem cellGet_sets_other (c : List (Nat × BitVec w)) (l : List (Nat × BitVec w)) (j : Nat) (h : ∀ x ∈ l, x.1 ≠ j) :
    cellGet (cellSets c l) j = cellGet c j := by
  induction l generalizing c with
  | nil => rfl
  | cons x l ih =>
    rw [cellSets_cons, ih _ (fun y hy => h y (List.mem_cons_of_mem _ hy)),
      cellGet_set_other _ _ (fun e => h x (List.mem_cons_self ..) e.symm)]

/-- A cell that one write of a list names, and no later one, reads as that write. -/
theorem cellGet_sets_mem (c : List (Nat × BitVec w)) (l : List (Nat × BitVec w)) (j : Nat) (v : BitVec w)
    (hm : (j, v) ∈ l) (hu : ∀ x ∈ l, x.1 = j → x.2 = v) : cellGet (cellSets c l) j = v := by
  induction l generalizing c with
  | nil => cases hm
  | cons x l ih =>
    rw [cellSets_cons]
    by_cases hl : (j, v) ∈ l
    · exact ih _ hl (fun y hy => hu y (List.mem_cons_of_mem _ hy))
    · have hx : x = (j, v) := by
        rcases List.mem_cons.1 hm with e | e
        · exact e.symm
        · exact absurd e hl
      have : ∀ y ∈ l, y.1 ≠ j := by
        intro y hy e
        apply hl
        have := hu y (List.mem_cons_of_mem _ hy) e
        rw [← this, ← e]
        exact hy
      rw [cellGet_sets_other _ _ _ this, hx, cellGet_set_same]

-- The canonical form

/-- The keys of a file are all above k. -/
def cellsAbove (c : List (Nat × BitVec w)) (k : Nat) : Prop := ∀ x ∈ c, k < x.1

theorem cellsWf_cons (k : Nat) (v : BitVec w) (r : List (Nat × BitVec w)) :
    cellsWf ((k, v) :: r) = true ↔ v ≠ 0#w ∧ cellsAbove r k ∧ cellsWf r = true := by
  induction r generalizing k v with
  | nil => simp [cellsWf, cellsAbove]
  | cons y r ih =>
    obtain ⟨k', v'⟩ := y
    simp only [cellsWf, Bool.and_eq_true, decide_eq_true_eq, bne_iff_ne]
    constructor
    · rintro ⟨⟨h1, h2⟩, h3⟩
      refine ⟨h1, ?_, h3⟩
      intro x hx
      rcases List.mem_cons.1 hx with rfl | hx
      · exact h2
      · exact Nat.lt_trans h2 (((ih k' v').1 h3).2.1 x hx)
    · rintro ⟨h1, h2, h3⟩
      exact ⟨⟨h1, h2 (k', v') (List.mem_cons_self ..)⟩, h3⟩

theorem mem_cellErase {c : List (Nat × BitVec w)} {k : Nat} {x : Nat × BitVec w} (h : x ∈ cellErase c k) : x ∈ c := by
  induction c with
  | nil => exact h
  | cons a r ih =>
    obtain ⟨a, v⟩ := a
    simp only [cellErase] at h
    split at h
    · exact List.mem_cons_of_mem _ (ih h)
    · rcases List.mem_cons.1 h with rfl | h
      · exact List.mem_cons_self ..
      · exact List.mem_cons_of_mem _ (ih h)

theorem cellsWf_erase (c : List (Nat × BitVec w)) (k : Nat) (h : cellsWf c = true) : cellsWf (cellErase c k) = true := by
  induction c with
  | nil => rfl
  | cons a r ih =>
    obtain ⟨a, v⟩ := a
    obtain ⟨h1, h2, h3⟩ := (cellsWf_cons ..).1 h
    simp only [cellErase]
    split
    · exact ih h3
    · exact (cellsWf_cons ..).2 ⟨h1, fun x hx => h2 x (mem_cellErase hx), ih h3⟩

theorem mem_cellInsert {c : List (Nat × BitVec w)} {k : Nat} {v : BitVec w} {x : Nat × BitVec w} (h : x ∈ cellInsert c k v) :
    x = (k, v) ∨ x ∈ c := by
  induction c with
  | nil => simpa [cellInsert] using h
  | cons a r ih =>
    obtain ⟨a, u⟩ := a
    simp only [cellInsert] at h
    split at h
    · simpa using h
    · rcases List.mem_cons.1 h with rfl | h
      · exact .inr (List.mem_cons_self ..)
      · exact (ih h).imp id (List.mem_cons_of_mem _)

theorem cellsWf_insert (c : List (Nat × BitVec w)) (k : Nat) (v : BitVec w) (h : cellsWf c = true) (hv : v ≠ 0#w) (hf : cellFree c k) :
    cellsWf (cellInsert c k v) = true := by
  induction c with
  | nil => exact (cellsWf_cons ..).2 ⟨hv, fun x hx => (List.not_mem_nil hx).elim, rfl⟩
  | cons a r ih =>
    obtain ⟨a, u⟩ := a
    obtain ⟨h1, h2, h3⟩ := (cellsWf_cons ..).1 h
    have ha : a ≠ k := hf (a, u) (List.mem_cons_self ..)
    simp only [cellInsert]
    split
    · rename_i hk
      refine (cellsWf_cons ..).2 ⟨hv, ?_, h⟩
      intro x hx
      rcases List.mem_cons.1 hx with rfl | hx
      · exact hk
      · exact Nat.lt_trans hk (h2 x hx)
    · refine (cellsWf_cons ..).2 ⟨h1, ?_, ih h3 (fun y hy => hf y (List.mem_cons_of_mem _ hy))⟩
      intro x hx
      rcases mem_cellInsert hx with rfl | hx
      · show a < k
        omega
      · exact h2 x hx

/-- A write keeps the canonical form. -/
theorem cellsWf_set (c : List (Nat × BitVec w)) (k : Nat) (v : BitVec w) (h : cellsWf c = true) : cellsWf (cellSet c k v) = true := by
  unfold cellSet
  split
  · exact cellsWf_erase c k h
  · exact cellsWf_insert _ _ _ (cellsWf_erase c k h) ‹_› (cellFree_erase c k)

theorem cellsWf_sets (c l : List (Nat × BitVec w)) (h : cellsWf c = true) : cellsWf (cellSets c l) = true := by
  induction l generalizing c with
  | nil => exact h
  | cons x l ih => exact ih _ (cellsWf_set _ _ _ h)

theorem cellsWf_filter (c : List (Nat × BitVec w)) (p : Nat × BitVec w → Bool) (h : cellsWf c = true) : cellsWf (c.filter p) = true := by
  induction c with
  | nil => rfl
  | cons a r ih =>
    obtain ⟨a, v⟩ := a
    obtain ⟨h1, h2, h3⟩ := (cellsWf_cons ..).1 h
    simp only [List.filter_cons]
    split
    · exact (cellsWf_cons ..).2 ⟨h1, fun x hx => h2 x (List.mem_filter.1 hx).1, ih h3⟩
    · exact ih h3

/-- A write of n bytes keeps the canonical form. -/
theorem memoryWf_bytesSet (m : Memory) (a n v : Nat) (h : Memory.wf m) : Memory.wf (bytesSet m a n v) := by
  unfold bytesSet
  generalize List.range n = l
  induction l generalizing m with
  | nil => exact h
  | cons i l ih => exact ih _ (cellsWf_set _ _ _ h)

/-- The bytes outside a write of n bytes read as before. -/
theorem cellGet_bytesSet_other (m : List (Nat × Byte)) (a n v k : Nat) (h : k < a ∨ a + n ≤ k) : cellGet (bytesSet m a n v) k = cellGet m k := by
  unfold bytesSet
  have hl : ∀ i ∈ List.range n, i < n := fun i hi => List.mem_range.1 hi
  generalize List.range n = l at hl
  induction l generalizing m with
  | nil => rfl
  | cons i l ih =>
    rw [List.foldl_cons, ih _ (fun j hj => hl j (List.mem_cons_of_mem _ hj)), cellGet_set_other]
    have := hl i (List.mem_cons_self ..)
    omega

-- Lane masks

theorem mem_lanesOf (m : LaneMask) (l : Nat) : l ∈ lanesOf m ↔ l < 32 ∧ m.getLsbD l = true := by
  simp [lanesOf]

theorem lanesOf_nodup (m : LaneMask) : (lanesOf m).Nodup := List.Pairwise.filter _ List.nodup_range

theorem lanesOf_zero : lanesOf 0#32 = [] := by decide

/-- A mask with a lane has a first one. -/
theorem lanesOf_ne_nil {m : LaneMask} (h : m ≠ 0#32) : lanesOf m ≠ [] := by
  intro e
  apply h
  ext i hi
  have : ¬ i ∈ lanesOf m := by simp [e]
  rw [mem_lanesOf] at this
  have hb : m.getLsbD i = false := by
    cases hm : m.getLsbD i
    · rfl
    · exact absurd ⟨hi, hm⟩ this
  rw [← BitVec.getLsbD_eq_getElem hi, hb]
  simp

theorem getLsbD_laneBit (l k : Nat) (hl : l < 32) : (laneBit l).getLsbD k = decide (k = l) := by
  unfold laneBit
  rw [BitVec.getLsbD_ofNat, Nat.testBit_two_pow]
  by_cases h : k = l
  · subst h; simp [hl]
  · simp [h, Ne.symm h]

theorem testBit_orFold (f : Nat → Bool) (l : List Nat) (a k : Nat) :
    (l.foldl (fun acc i => if f i then acc ||| 2 ^ i else acc) a).testBit k = (a.testBit k || l.any (fun i => i == k && f i)) := by
  induction l generalizing a with
  | nil => simp
  | cons i l ih =>
    rw [List.foldl_cons, ih, List.any_cons]
    by_cases hf : f i = true
    · rw [if_pos hf, Nat.testBit_or, Nat.testBit_two_pow, hf]
      by_cases e : i = k
      · simp [e]
      · have : (i == k) = false := by simpa using e
        simp [e, this]
    · rw [if_neg hf]
      simp [hf]

/-- A lane is in `maskBy f` exactly when f holds of it. -/
@[simp] theorem getLsbD_maskBy (f : Nat → Bool) (l : Nat) (h : l < 32) : (maskBy f).getLsbD l = f l := by
  unfold maskBy
  rw [BitVec.getLsbD_ofNat, testBit_orFold]
  simp only [h, decide_true, Bool.true_and, Nat.zero_testBit, Bool.false_or]
  cases hf : f l
  · rw [List.any_eq_false]
    intro x _
    by_cases e : x = l
    · subst e; simp [hf]
    · simp [e]
  · rw [List.any_eq_true]
    exact ⟨l, List.mem_range.2 h, by simp [hf]⟩

/-- The lowest lane of a mask that has one is a lane of it. -/
theorem lowestLane_mem {m : LaneMask} (h : m ≠ 0#32) : lowestLane m < 32 ∧ m.getLsbD (lowestLane m) = true := by
  unfold lowestLane
  cases e : lanesOf m with
  | nil => exact absurd e (lanesOf_ne_nil h)
  | cons a r => exact (mem_lanesOf m a).1 (by rw [e]; exact List.mem_cons_self ..)

end Sys2Proof.Machine
end

