-- ==== Sys2Proof/Laws/State.lean ====
section
/-! SUPPORT. The small laws of the state's updates: what each named update leaves alone, field by field, and what a place
of the state reads after an update of it. -/

namespace Sys2Proof.Machine

open Sys2Proof

-- State.modSp

@[simp] theorem State.modSp_cur (s : State) (i : Nat) (f : Spindle → Spindle) : (s.modSp i f).cur = s.cur := rfl
@[simp] theorem State.modSp_agenda (s : State) (i : Nat) (f : Spindle → Spindle) : (s.modSp i f).agenda = s.agenda := rfl
@[simp] theorem State.modSp_turn (s : State) (i : Nat) (f : Spindle → Spindle) : (s.modSp i f).turn = s.turn := rfl
@[simp] theorem State.modSp_picks (s : State) (i : Nat) (f : Spindle → Spindle) : (s.modSp i f).picks = s.picks := rfl
@[simp] theorem State.modSp_quiet (s : State) (i : Nat) (f : Spindle → Spindle) : (s.modSp i f).quiet = s.quiet := rfl
@[simp] theorem State.modSp_ports (s : State) (i : Nat) (f : Spindle → Spindle) : (s.modSp i f).ports = s.ports := rfl
@[simp] theorem State.modSp_rcache (s : State) (i : Nat) (f : Spindle → Spindle) : (s.modSp i f).rcache = s.rcache := rfl
@[simp] theorem State.modSp_free (s : State) (i : Nat) (f : Spindle → Spindle) : (s.modSp i f).free = s.free := rfl
@[simp] theorem State.modSp_nextId (s : State) (i : Nat) (f : Spindle → Spindle) : (s.modSp i f).nextId = s.nextId := rfl
@[simp] theorem State.modSp_clock (s : State) (i : Nat) (f : Spindle → Spindle) : (s.modSp i f).clock = s.clock := rfl
@[simp] theorem State.modSp_teams (s : State) (i : Nat) (f : Spindle → Spindle) : (s.modSp i f).teams = s.teams := rfl
@[simp] theorem State.modSp_launches (s : State) (i : Nat) (f : Spindle → Spindle) : (s.modSp i f).launches = s.launches := rfl
@[simp] theorem State.modSp_parts (s : State) (i : Nat) (f : Spindle → Spindle) : (s.modSp i f).parts = s.parts := rfl
@[simp] theorem State.modSp_ops (s : State) (i : Nat) (f : Spindle → Spindle) : (s.modSp i f).ops = s.ops := rfl
@[simp] theorem State.modSp_cmds (s : State) (i : Nat) (f : Spindle → Spindle) : (s.modSp i f).cmds = s.cmds := rfl
@[simp] theorem State.modSp_latches (s : State) (i : Nat) (f : Spindle → Spindle) : (s.modSp i f).latches = s.latches := rfl
@[simp] theorem State.modSp_cursors (s : State) (i : Nat) (f : Spindle → Spindle) : (s.modSp i f).cursors = s.cursors := rfl
@[simp] theorem State.modSp_bins (s : State) (i : Nat) (f : Spindle → Spindle) : (s.modSp i f).bins = s.bins := rfl
@[simp] theorem State.modSp_tokens (s : State) (i : Nat) (f : Spindle → Spindle) : (s.modSp i f).tokens = s.tokens := rfl
@[simp] theorem State.modSp_mem (s : State) (i : Nat) (f : Spindle → Spindle) : (s.modSp i f).mem = s.mem := rfl
@[simp] theorem State.modSp_adeol (s : State) (i : Nat) (f : Spindle → Spindle) : (s.modSp i f).adeol = s.adeol := rfl
@[simp] theorem State.modSp_nvm (s : State) (i : Nat) (f : Spindle → Spindle) : (s.modSp i f).nvm = s.nvm := rfl
@[simp] theorem State.modSp_scan (s : State) (i : Nat) (f : Spindle → Spindle) : (s.modSp i f).scan = s.scan := rfl
@[simp] theorem State.modSp_links (s : State) (i : Nat) (f : Spindle → Spindle) : (s.modSp i f).links = s.links := rfl
@[simp] theorem State.modSp_meter (s : State) (i : Nat) (f : Spindle → Spindle) : (s.modSp i f).meter = s.meter := rfl
@[simp] theorem State.modSp_signing (s : State) (i : Nat) (f : Spindle → Spindle) : (s.modSp i f).signing = s.signing := rfl
@[simp] theorem State.modSp_reentry (s : State) (i : Nat) (f : Spindle → Spindle) : (s.modSp i f).reentry = s.reentry := rfl
@[simp] theorem State.modSp_leaseL1 (s : State) (i : Nat) (f : Spindle → Spindle) : (s.modSp i f).leaseL1 = s.leaseL1 := rfl
@[simp] theorem State.modSp_leaseL2 (s : State) (i : Nat) (f : Spindle → Spindle) : (s.modSp i f).leaseL2 = s.leaseL2 := rfl
@[simp] theorem State.modSp_devnum (s : State) (i : Nat) (f : Spindle → Spindle) : (s.modSp i f).devnum = s.devnum := rfl
@[simp] theorem State.modSp_deadDevices (s : State) (i : Nat) (f : Spindle → Spindle) : (s.modSp i f).deadDevices = s.deadDevices := rfl
@[simp] theorem State.modSp_due (s : State) (i : Nat) (f : Spindle → Spindle) : (s.modSp i f).due = s.due := rfl
@[simp] theorem State.modSp_distNext (s : State) (i : Nat) (f : Spindle → Spindle) : (s.modSp i f).distNext = s.distNext := rfl
@[simp] theorem State.modSp_distMsgs (s : State) (i : Nat) (f : Spindle → Spindle) : (s.modSp i f).distMsgs = s.distMsgs := rfl
@[simp] theorem State.modSp_hostReplies (s : State) (i : Nat) (f : Spindle → Spindle) : (s.modSp i f).hostReplies = s.hostReplies := rfl
@[simp] theorem State.modSp_reports (s : State) (i : Nat) (f : Spindle → Spindle) : (s.modSp i f).reports = s.reports := rfl

-- State.modTeam

@[simp] theorem State.modTeam_cur (s : State) (t : Nat) (f : Team → Team) : (s.modTeam t f).cur = s.cur := rfl
@[simp] theorem State.modTeam_agenda (s : State) (t : Nat) (f : Team → Team) : (s.modTeam t f).agenda = s.agenda := rfl
@[simp] theorem State.modTeam_turn (s : State) (t : Nat) (f : Team → Team) : (s.modTeam t f).turn = s.turn := rfl
@[simp] theorem State.modTeam_picks (s : State) (t : Nat) (f : Team → Team) : (s.modTeam t f).picks = s.picks := rfl
@[simp] theorem State.modTeam_quiet (s : State) (t : Nat) (f : Team → Team) : (s.modTeam t f).quiet = s.quiet := rfl
@[simp] theorem State.modTeam_ports (s : State) (t : Nat) (f : Team → Team) : (s.modTeam t f).ports = s.ports := rfl
@[simp] theorem State.modTeam_rcache (s : State) (t : Nat) (f : Team → Team) : (s.modTeam t f).rcache = s.rcache := rfl
@[simp] theorem State.modTeam_free (s : State) (t : Nat) (f : Team → Team) : (s.modTeam t f).free = s.free := rfl
@[simp] theorem State.modTeam_nextId (s : State) (t : Nat) (f : Team → Team) : (s.modTeam t f).nextId = s.nextId := rfl
@[simp] theorem State.modTeam_clock (s : State) (t : Nat) (f : Team → Team) : (s.modTeam t f).clock = s.clock := rfl
@[simp] theorem State.modTeam_spindles (s : State) (t : Nat) (f : Team → Team) : (s.modTeam t f).spindles = s.spindles := rfl
@[simp] theorem State.modTeam_launches (s : State) (t : Nat) (f : Team → Team) : (s.modTeam t f).launches = s.launches := rfl
@[simp] theorem State.modTeam_parts (s : State) (t : Nat) (f : Team → Team) : (s.modTeam t f).parts = s.parts := rfl
@[simp] theorem State.modTeam_ops (s : State) (t : Nat) (f : Team → Team) : (s.modTeam t f).ops = s.ops := rfl
@[simp] theorem State.modTeam_cmds (s : State) (t : Nat) (f : Team → Team) : (s.modTeam t f).cmds = s.cmds := rfl
@[simp] theorem State.modTeam_latches (s : State) (t : Nat) (f : Team → Team) : (s.modTeam t f).latches = s.latches := rfl
@[simp] theorem State.modTeam_cursors (s : State) (t : Nat) (f : Team → Team) : (s.modTeam t f).cursors = s.cursors := rfl
@[simp] theorem State.modTeam_bins (s : State) (t : Nat) (f : Team → Team) : (s.modTeam t f).bins = s.bins := rfl
@[simp] theorem State.modTeam_tokens (s : State) (t : Nat) (f : Team → Team) : (s.modTeam t f).tokens = s.tokens := rfl
@[simp] theorem State.modTeam_mem (s : State) (t : Nat) (f : Team → Team) : (s.modTeam t f).mem = s.mem := rfl
@[simp] theorem State.modTeam_adeol (s : State) (t : Nat) (f : Team → Team) : (s.modTeam t f).adeol = s.adeol := rfl
@[simp] theorem State.modTeam_nvm (s : State) (t : Nat) (f : Team → Team) : (s.modTeam t f).nvm = s.nvm := rfl
@[simp] theorem State.modTeam_scan (s : State) (t : Nat) (f : Team → Team) : (s.modTeam t f).scan = s.scan := rfl
@[simp] theorem State.modTeam_links (s : State) (t : Nat) (f : Team → Team) : (s.modTeam t f).links = s.links := rfl
@[simp] theorem State.modTeam_meter (s : State) (t : Nat) (f : Team → Team) : (s.modTeam t f).meter = s.meter := rfl
@[simp] theorem State.modTeam_signing (s : State) (t : Nat) (f : Team → Team) : (s.modTeam t f).signing = s.signing := rfl
@[simp] theorem State.modTeam_reentry (s : State) (t : Nat) (f : Team → Team) : (s.modTeam t f).reentry = s.reentry := rfl
@[simp] theorem State.modTeam_leaseL1 (s : State) (t : Nat) (f : Team → Team) : (s.modTeam t f).leaseL1 = s.leaseL1 := rfl
@[simp] theorem State.modTeam_leaseL2 (s : State) (t : Nat) (f : Team → Team) : (s.modTeam t f).leaseL2 = s.leaseL2 := rfl
@[simp] theorem State.modTeam_devnum (s : State) (t : Nat) (f : Team → Team) : (s.modTeam t f).devnum = s.devnum := rfl
@[simp] theorem State.modTeam_deadDevices (s : State) (t : Nat) (f : Team → Team) : (s.modTeam t f).deadDevices = s.deadDevices := rfl
@[simp] theorem State.modTeam_due (s : State) (t : Nat) (f : Team → Team) : (s.modTeam t f).due = s.due := rfl
@[simp] theorem State.modTeam_distNext (s : State) (t : Nat) (f : Team → Team) : (s.modTeam t f).distNext = s.distNext := rfl
@[simp] theorem State.modTeam_distMsgs (s : State) (t : Nat) (f : Team → Team) : (s.modTeam t f).distMsgs = s.distMsgs := rfl
@[simp] theorem State.modTeam_hostReplies (s : State) (t : Nat) (f : Team → Team) : (s.modTeam t f).hostReplies = s.hostReplies := rfl
@[simp] theorem State.modTeam_reports (s : State) (t : Nat) (f : Team → Team) : (s.modTeam t f).reports = s.reports := rfl

-- State.modPart

@[simp] theorem State.modPart_cur (s : State) (p : Nat) (f : Partition → Partition) : (s.modPart p f).cur = s.cur := rfl
@[simp] theorem State.modPart_agenda (s : State) (p : Nat) (f : Partition → Partition) : (s.modPart p f).agenda = s.agenda := rfl
@[simp] theorem State.modPart_turn (s : State) (p : Nat) (f : Partition → Partition) : (s.modPart p f).turn = s.turn := rfl
@[simp] theorem State.modPart_picks (s : State) (p : Nat) (f : Partition → Partition) : (s.modPart p f).picks = s.picks := rfl
@[simp] theorem State.modPart_quiet (s : State) (p : Nat) (f : Partition → Partition) : (s.modPart p f).quiet = s.quiet := rfl
@[simp] theorem State.modPart_ports (s : State) (p : Nat) (f : Partition → Partition) : (s.modPart p f).ports = s.ports := rfl
@[simp] theorem State.modPart_rcache (s : State) (p : Nat) (f : Partition → Partition) : (s.modPart p f).rcache = s.rcache := rfl
@[simp] theorem State.modPart_free (s : State) (p : Nat) (f : Partition → Partition) : (s.modPart p f).free = s.free := rfl
@[simp] theorem State.modPart_nextId (s : State) (p : Nat) (f : Partition → Partition) : (s.modPart p f).nextId = s.nextId := rfl
@[simp] theorem State.modPart_clock (s : State) (p : Nat) (f : Partition → Partition) : (s.modPart p f).clock = s.clock := rfl
@[simp] theorem State.modPart_spindles (s : State) (p : Nat) (f : Partition → Partition) : (s.modPart p f).spindles = s.spindles := rfl
@[simp] theorem State.modPart_teams (s : State) (p : Nat) (f : Partition → Partition) : (s.modPart p f).teams = s.teams := rfl
@[simp] theorem State.modPart_launches (s : State) (p : Nat) (f : Partition → Partition) : (s.modPart p f).launches = s.launches := rfl
@[simp] theorem State.modPart_ops (s : State) (p : Nat) (f : Partition → Partition) : (s.modPart p f).ops = s.ops := rfl
@[simp] theorem State.modPart_cmds (s : State) (p : Nat) (f : Partition → Partition) : (s.modPart p f).cmds = s.cmds := rfl
@[simp] theorem State.modPart_latches (s : State) (p : Nat) (f : Partition → Partition) : (s.modPart p f).latches = s.latches := rfl
@[simp] theorem State.modPart_cursors (s : State) (p : Nat) (f : Partition → Partition) : (s.modPart p f).cursors = s.cursors := rfl
@[simp] theorem State.modPart_bins (s : State) (p : Nat) (f : Partition → Partition) : (s.modPart p f).bins = s.bins := rfl
@[simp] theorem State.modPart_tokens (s : State) (p : Nat) (f : Partition → Partition) : (s.modPart p f).tokens = s.tokens := rfl
@[simp] theorem State.modPart_mem (s : State) (p : Nat) (f : Partition → Partition) : (s.modPart p f).mem = s.mem := rfl
@[simp] theorem State.modPart_adeol (s : State) (p : Nat) (f : Partition → Partition) : (s.modPart p f).adeol = s.adeol := rfl
@[simp] theorem State.modPart_nvm (s : State) (p : Nat) (f : Partition → Partition) : (s.modPart p f).nvm = s.nvm := rfl
@[simp] theorem State.modPart_scan (s : State) (p : Nat) (f : Partition → Partition) : (s.modPart p f).scan = s.scan := rfl
@[simp] theorem State.modPart_links (s : State) (p : Nat) (f : Partition → Partition) : (s.modPart p f).links = s.links := rfl
@[simp] theorem State.modPart_meter (s : State) (p : Nat) (f : Partition → Partition) : (s.modPart p f).meter = s.meter := rfl
@[simp] theorem State.modPart_signing (s : State) (p : Nat) (f : Partition → Partition) : (s.modPart p f).signing = s.signing := rfl
@[simp] theorem State.modPart_reentry (s : State) (p : Nat) (f : Partition → Partition) : (s.modPart p f).reentry = s.reentry := rfl
@[simp] theorem State.modPart_leaseL1 (s : State) (p : Nat) (f : Partition → Partition) : (s.modPart p f).leaseL1 = s.leaseL1 := rfl
@[simp] theorem State.modPart_leaseL2 (s : State) (p : Nat) (f : Partition → Partition) : (s.modPart p f).leaseL2 = s.leaseL2 := rfl
@[simp] theorem State.modPart_devnum (s : State) (p : Nat) (f : Partition → Partition) : (s.modPart p f).devnum = s.devnum := rfl
@[simp] theorem State.modPart_deadDevices (s : State) (p : Nat) (f : Partition → Partition) : (s.modPart p f).deadDevices = s.deadDevices := rfl
@[simp] theorem State.modPart_due (s : State) (p : Nat) (f : Partition → Partition) : (s.modPart p f).due = s.due := rfl
@[simp] theorem State.modPart_distNext (s : State) (p : Nat) (f : Partition → Partition) : (s.modPart p f).distNext = s.distNext := rfl
@[simp] theorem State.modPart_distMsgs (s : State) (p : Nat) (f : Partition → Partition) : (s.modPart p f).distMsgs = s.distMsgs := rfl
@[simp] theorem State.modPart_hostReplies (s : State) (p : Nat) (f : Partition → Partition) : (s.modPart p f).hostReplies = s.hostReplies := rfl
@[simp] theorem State.modPart_reports (s : State) (p : Nat) (f : Partition → Partition) : (s.modPart p f).reports = s.reports := rfl

-- State.modLaunch

@[simp] theorem State.modLaunch_cur (s : State) (n : Nat) (f : Launch → Launch) : (s.modLaunch n f).cur = s.cur := rfl
@[simp] theorem State.modLaunch_agenda (s : State) (n : Nat) (f : Launch → Launch) : (s.modLaunch n f).agenda = s.agenda := rfl
@[simp] theorem State.modLaunch_turn (s : State) (n : Nat) (f : Launch → Launch) : (s.modLaunch n f).turn = s.turn := rfl
@[simp] theorem State.modLaunch_picks (s : State) (n : Nat) (f : Launch → Launch) : (s.modLaunch n f).picks = s.picks := rfl
@[simp] theorem State.modLaunch_quiet (s : State) (n : Nat) (f : Launch → Launch) : (s.modLaunch n f).quiet = s.quiet := rfl
@[simp] theorem State.modLaunch_ports (s : State) (n : Nat) (f : Launch → Launch) : (s.modLaunch n f).ports = s.ports := rfl
@[simp] theorem State.modLaunch_rcache (s : State) (n : Nat) (f : Launch → Launch) : (s.modLaunch n f).rcache = s.rcache := rfl
@[simp] theorem State.modLaunch_free (s : State) (n : Nat) (f : Launch → Launch) : (s.modLaunch n f).free = s.free := rfl
@[simp] theorem State.modLaunch_nextId (s : State) (n : Nat) (f : Launch → Launch) : (s.modLaunch n f).nextId = s.nextId := rfl
@[simp] theorem State.modLaunch_clock (s : State) (n : Nat) (f : Launch → Launch) : (s.modLaunch n f).clock = s.clock := rfl
@[simp] theorem State.modLaunch_spindles (s : State) (n : Nat) (f : Launch → Launch) : (s.modLaunch n f).spindles = s.spindles := rfl
@[simp] theorem State.modLaunch_teams (s : State) (n : Nat) (f : Launch → Launch) : (s.modLaunch n f).teams = s.teams := rfl
@[simp] theorem State.modLaunch_parts (s : State) (n : Nat) (f : Launch → Launch) : (s.modLaunch n f).parts = s.parts := rfl
@[simp] theorem State.modLaunch_ops (s : State) (n : Nat) (f : Launch → Launch) : (s.modLaunch n f).ops = s.ops := rfl
@[simp] theorem State.modLaunch_cmds (s : State) (n : Nat) (f : Launch → Launch) : (s.modLaunch n f).cmds = s.cmds := rfl
@[simp] theorem State.modLaunch_latches (s : State) (n : Nat) (f : Launch → Launch) : (s.modLaunch n f).latches = s.latches := rfl
@[simp] theorem State.modLaunch_cursors (s : State) (n : Nat) (f : Launch → Launch) : (s.modLaunch n f).cursors = s.cursors := rfl
@[simp] theorem State.modLaunch_bins (s : State) (n : Nat) (f : Launch → Launch) : (s.modLaunch n f).bins = s.bins := rfl
@[simp] theorem State.modLaunch_tokens (s : State) (n : Nat) (f : Launch → Launch) : (s.modLaunch n f).tokens = s.tokens := rfl
@[simp] theorem State.modLaunch_mem (s : State) (n : Nat) (f : Launch → Launch) : (s.modLaunch n f).mem = s.mem := rfl
@[simp] theorem State.modLaunch_adeol (s : State) (n : Nat) (f : Launch → Launch) : (s.modLaunch n f).adeol = s.adeol := rfl
@[simp] theorem State.modLaunch_nvm (s : State) (n : Nat) (f : Launch → Launch) : (s.modLaunch n f).nvm = s.nvm := rfl
@[simp] theorem State.modLaunch_scan (s : State) (n : Nat) (f : Launch → Launch) : (s.modLaunch n f).scan = s.scan := rfl
@[simp] theorem State.modLaunch_links (s : State) (n : Nat) (f : Launch → Launch) : (s.modLaunch n f).links = s.links := rfl
@[simp] theorem State.modLaunch_meter (s : State) (n : Nat) (f : Launch → Launch) : (s.modLaunch n f).meter = s.meter := rfl
@[simp] theorem State.modLaunch_signing (s : State) (n : Nat) (f : Launch → Launch) : (s.modLaunch n f).signing = s.signing := rfl
@[simp] theorem State.modLaunch_reentry (s : State) (n : Nat) (f : Launch → Launch) : (s.modLaunch n f).reentry = s.reentry := rfl
@[simp] theorem State.modLaunch_leaseL1 (s : State) (n : Nat) (f : Launch → Launch) : (s.modLaunch n f).leaseL1 = s.leaseL1 := rfl
@[simp] theorem State.modLaunch_leaseL2 (s : State) (n : Nat) (f : Launch → Launch) : (s.modLaunch n f).leaseL2 = s.leaseL2 := rfl
@[simp] theorem State.modLaunch_devnum (s : State) (n : Nat) (f : Launch → Launch) : (s.modLaunch n f).devnum = s.devnum := rfl
@[simp] theorem State.modLaunch_deadDevices (s : State) (n : Nat) (f : Launch → Launch) : (s.modLaunch n f).deadDevices = s.deadDevices := rfl
@[simp] theorem State.modLaunch_due (s : State) (n : Nat) (f : Launch → Launch) : (s.modLaunch n f).due = s.due := rfl
@[simp] theorem State.modLaunch_distNext (s : State) (n : Nat) (f : Launch → Launch) : (s.modLaunch n f).distNext = s.distNext := rfl
@[simp] theorem State.modLaunch_distMsgs (s : State) (n : Nat) (f : Launch → Launch) : (s.modLaunch n f).distMsgs = s.distMsgs := rfl
@[simp] theorem State.modLaunch_hostReplies (s : State) (n : Nat) (f : Launch → Launch) : (s.modLaunch n f).hostReplies = s.hostReplies := rfl
@[simp] theorem State.modLaunch_reports (s : State) (n : Nat) (f : Launch → Launch) : (s.modLaunch n f).reports = s.reports := rfl

-- State.modLane

@[simp] theorem State.modLane_cur (s : State) (i l : Nat) (f : Lane → Lane) : (s.modLane i l f).cur = s.cur := rfl
@[simp] theorem State.modLane_agenda (s : State) (i l : Nat) (f : Lane → Lane) : (s.modLane i l f).agenda = s.agenda := rfl
@[simp] theorem State.modLane_turn (s : State) (i l : Nat) (f : Lane → Lane) : (s.modLane i l f).turn = s.turn := rfl
@[simp] theorem State.modLane_picks (s : State) (i l : Nat) (f : Lane → Lane) : (s.modLane i l f).picks = s.picks := rfl
@[simp] theorem State.modLane_quiet (s : State) (i l : Nat) (f : Lane → Lane) : (s.modLane i l f).quiet = s.quiet := rfl
@[simp] theorem State.modLane_ports (s : State) (i l : Nat) (f : Lane → Lane) : (s.modLane i l f).ports = s.ports := rfl
@[simp] theorem State.modLane_rcache (s : State) (i l : Nat) (f : Lane → Lane) : (s.modLane i l f).rcache = s.rcache := rfl
@[simp] theorem State.modLane_free (s : State) (i l : Nat) (f : Lane → Lane) : (s.modLane i l f).free = s.free := rfl
@[simp] theorem State.modLane_nextId (s : State) (i l : Nat) (f : Lane → Lane) : (s.modLane i l f).nextId = s.nextId := rfl
@[simp] theorem State.modLane_clock (s : State) (i l : Nat) (f : Lane → Lane) : (s.modLane i l f).clock = s.clock := rfl
@[simp] theorem State.modLane_teams (s : State) (i l : Nat) (f : Lane → Lane) : (s.modLane i l f).teams = s.teams := rfl
@[simp] theorem State.modLane_launches (s : State) (i l : Nat) (f : Lane → Lane) : (s.modLane i l f).launches = s.launches := rfl
@[simp] theorem State.modLane_parts (s : State) (i l : Nat) (f : Lane → Lane) : (s.modLane i l f).parts = s.parts := rfl
@[simp] theorem State.modLane_ops (s : State) (i l : Nat) (f : Lane → Lane) : (s.modLane i l f).ops = s.ops := rfl
@[simp] theorem State.modLane_cmds (s : State) (i l : Nat) (f : Lane → Lane) : (s.modLane i l f).cmds = s.cmds := rfl
@[simp] theorem State.modLane_latches (s : State) (i l : Nat) (f : Lane → Lane) : (s.modLane i l f).latches = s.latches := rfl
@[simp] theorem State.modLane_cursors (s : State) (i l : Nat) (f : Lane → Lane) : (s.modLane i l f).cursors = s.cursors := rfl
@[simp] theorem State.modLane_bins (s : State) (i l : Nat) (f : Lane → Lane) : (s.modLane i l f).bins = s.bins := rfl
@[simp] theorem State.modLane_tokens (s : State) (i l : Nat) (f : Lane → Lane) : (s.modLane i l f).tokens = s.tokens := rfl
@[simp] theorem State.modLane_mem (s : State) (i l : Nat) (f : Lane → Lane) : (s.modLane i l f).mem = s.mem := rfl
@[simp] theorem State.modLane_adeol (s : State) (i l : Nat) (f : Lane → Lane) : (s.modLane i l f).adeol = s.adeol := rfl
@[simp] theorem State.modLane_nvm (s : State) (i l : Nat) (f : Lane → Lane) : (s.modLane i l f).nvm = s.nvm := rfl
@[simp] theorem State.modLane_scan (s : State) (i l : Nat) (f : Lane → Lane) : (s.modLane i l f).scan = s.scan := rfl
@[simp] theorem State.modLane_links (s : State) (i l : Nat) (f : Lane → Lane) : (s.modLane i l f).links = s.links := rfl
@[simp] theorem State.modLane_meter (s : State) (i l : Nat) (f : Lane → Lane) : (s.modLane i l f).meter = s.meter := rfl
@[simp] theorem State.modLane_signing (s : State) (i l : Nat) (f : Lane → Lane) : (s.modLane i l f).signing = s.signing := rfl
@[simp] theorem State.modLane_reentry (s : State) (i l : Nat) (f : Lane → Lane) : (s.modLane i l f).reentry = s.reentry := rfl
@[simp] theorem State.modLane_leaseL1 (s : State) (i l : Nat) (f : Lane → Lane) : (s.modLane i l f).leaseL1 = s.leaseL1 := rfl
@[simp] theorem State.modLane_leaseL2 (s : State) (i l : Nat) (f : Lane → Lane) : (s.modLane i l f).leaseL2 = s.leaseL2 := rfl
@[simp] theorem State.modLane_devnum (s : State) (i l : Nat) (f : Lane → Lane) : (s.modLane i l f).devnum = s.devnum := rfl
@[simp] theorem State.modLane_deadDevices (s : State) (i l : Nat) (f : Lane → Lane) : (s.modLane i l f).deadDevices = s.deadDevices := rfl
@[simp] theorem State.modLane_due (s : State) (i l : Nat) (f : Lane → Lane) : (s.modLane i l f).due = s.due := rfl
@[simp] theorem State.modLane_distNext (s : State) (i l : Nat) (f : Lane → Lane) : (s.modLane i l f).distNext = s.distNext := rfl
@[simp] theorem State.modLane_distMsgs (s : State) (i l : Nat) (f : Lane → Lane) : (s.modLane i l f).distMsgs = s.distMsgs := rfl
@[simp] theorem State.modLane_hostReplies (s : State) (i l : Nat) (f : Lane → Lane) : (s.modLane i l f).hostReplies = s.hostReplies := rfl
@[simp] theorem State.modLane_reports (s : State) (i l : Nat) (f : Lane → Lane) : (s.modLane i l f).reports = s.reports := rfl

-- State.modMem

@[simp] theorem State.modMem_cur (s : State) (f : MemSys → MemSys) : (s.modMem f).cur = s.cur := rfl
@[simp] theorem State.modMem_agenda (s : State) (f : MemSys → MemSys) : (s.modMem f).agenda = s.agenda := rfl
@[simp] theorem State.modMem_turn (s : State) (f : MemSys → MemSys) : (s.modMem f).turn = s.turn := rfl
@[simp] theorem State.modMem_picks (s : State) (f : MemSys → MemSys) : (s.modMem f).picks = s.picks := rfl
@[simp] theorem State.modMem_quiet (s : State) (f : MemSys → MemSys) : (s.modMem f).quiet = s.quiet := rfl
@[simp] theorem State.modMem_ports (s : State) (f : MemSys → MemSys) : (s.modMem f).ports = s.ports := rfl
@[simp] theorem State.modMem_rcache (s : State) (f : MemSys → MemSys) : (s.modMem f).rcache = s.rcache := rfl
@[simp] theorem State.modMem_free (s : State) (f : MemSys → MemSys) : (s.modMem f).free = s.free := rfl
@[simp] theorem State.modMem_nextId (s : State) (f : MemSys → MemSys) : (s.modMem f).nextId = s.nextId := rfl
@[simp] theorem State.modMem_clock (s : State) (f : MemSys → MemSys) : (s.modMem f).clock = s.clock := rfl
@[simp] theorem State.modMem_spindles (s : State) (f : MemSys → MemSys) : (s.modMem f).spindles = s.spindles := rfl
@[simp] theorem State.modMem_teams (s : State) (f : MemSys → MemSys) : (s.modMem f).teams = s.teams := rfl
@[simp] theorem State.modMem_launches (s : State) (f : MemSys → MemSys) : (s.modMem f).launches = s.launches := rfl
@[simp] theorem State.modMem_parts (s : State) (f : MemSys → MemSys) : (s.modMem f).parts = s.parts := rfl
@[simp] theorem State.modMem_ops (s : State) (f : MemSys → MemSys) : (s.modMem f).ops = s.ops := rfl
@[simp] theorem State.modMem_cmds (s : State) (f : MemSys → MemSys) : (s.modMem f).cmds = s.cmds := rfl
@[simp] theorem State.modMem_latches (s : State) (f : MemSys → MemSys) : (s.modMem f).latches = s.latches := rfl
@[simp] theorem State.modMem_cursors (s : State) (f : MemSys → MemSys) : (s.modMem f).cursors = s.cursors := rfl
@[simp] theorem State.modMem_bins (s : State) (f : MemSys → MemSys) : (s.modMem f).bins = s.bins := rfl
@[simp] theorem State.modMem_tokens (s : State) (f : MemSys → MemSys) : (s.modMem f).tokens = s.tokens := rfl
@[simp] theorem State.modMem_adeol (s : State) (f : MemSys → MemSys) : (s.modMem f).adeol = s.adeol := rfl
@[simp] theorem State.modMem_nvm (s : State) (f : MemSys → MemSys) : (s.modMem f).nvm = s.nvm := rfl
@[simp] theorem State.modMem_scan (s : State) (f : MemSys → MemSys) : (s.modMem f).scan = s.scan := rfl
@[simp] theorem State.modMem_links (s : State) (f : MemSys → MemSys) : (s.modMem f).links = s.links := rfl
@[simp] theorem State.modMem_meter (s : State) (f : MemSys → MemSys) : (s.modMem f).meter = s.meter := rfl
@[simp] theorem State.modMem_signing (s : State) (f : MemSys → MemSys) : (s.modMem f).signing = s.signing := rfl
@[simp] theorem State.modMem_reentry (s : State) (f : MemSys → MemSys) : (s.modMem f).reentry = s.reentry := rfl
@[simp] theorem State.modMem_leaseL1 (s : State) (f : MemSys → MemSys) : (s.modMem f).leaseL1 = s.leaseL1 := rfl
@[simp] theorem State.modMem_leaseL2 (s : State) (f : MemSys → MemSys) : (s.modMem f).leaseL2 = s.leaseL2 := rfl
@[simp] theorem State.modMem_devnum (s : State) (f : MemSys → MemSys) : (s.modMem f).devnum = s.devnum := rfl
@[simp] theorem State.modMem_deadDevices (s : State) (f : MemSys → MemSys) : (s.modMem f).deadDevices = s.deadDevices := rfl
@[simp] theorem State.modMem_due (s : State) (f : MemSys → MemSys) : (s.modMem f).due = s.due := rfl
@[simp] theorem State.modMem_distNext (s : State) (f : MemSys → MemSys) : (s.modMem f).distNext = s.distNext := rfl
@[simp] theorem State.modMem_distMsgs (s : State) (f : MemSys → MemSys) : (s.modMem f).distMsgs = s.distMsgs := rfl
@[simp] theorem State.modMem_hostReplies (s : State) (f : MemSys → MemSys) : (s.modMem f).hostReplies = s.hostReplies := rfl
@[simp] theorem State.modMem_reports (s : State) (f : MemSys → MemSys) : (s.modMem f).reports = s.reports := rfl
@[simp] theorem State.modMem_mem (s : State) (f : MemSys → MemSys) : (s.modMem f).mem = f s.mem := rfl

-- Spindle.setV

@[simp] theorem Spindle.setV_team (sp : Spindle) (r l : Nat) (x : Word) : (sp.setV r l x).team = sp.team := rfl
@[simp] theorem Spindle.setV_idx (sp : Spindle) (r l : Nat) (x : Word) : (sp.setV r l x).idx = sp.idx := rfl
@[simp] theorem Spindle.setV_core (sp : Spindle) (r l : Nat) (x : Word) : (sp.setV r l x).core = sp.core := rfl
@[simp] theorem Spindle.setV_quad (sp : Spindle) (r l : Nat) (x : Word) : (sp.setV r l x).quad = sp.quad := rfl
@[simp] theorem Spindle.setV_slot (sp : Spindle) (r l : Nat) (x : Word) : (sp.setV r l x).slot = sp.slot := rfl
@[simp] theorem Spindle.setV_st (sp : Spindle) (r l : Nat) (x : Word) : (sp.setV r l x).st = sp.st := rfl
@[simp] theorem Spindle.setV_crank (sp : Spindle) (r l : Nat) (x : Word) : (sp.setV r l x).crank = sp.crank := rfl
@[simp] theorem Spindle.setV_age (sp : Spindle) (r l : Nat) (x : Word) : (sp.setV r l x).age = sp.age := rfl
@[simp] theorem Spindle.setV_vcount (sp : Spindle) (r l : Nat) (x : Word) : (sp.setV r l x).vcount = sp.vcount := rfl
@[simp] theorem Spindle.setV_vpoison (sp : Spindle) (r l : Nat) (x : Word) : (sp.setV r l x).vpoison = sp.vpoison := rfl
@[simp] theorem Spindle.setV_upoison (sp : Spindle) (r l : Nat) (x : Word) : (sp.setV r l x).upoison = sp.upoison := rfl
@[simp] theorem Spindle.setV_s (sp : Spindle) (r l : Nat) (x : Word) : (sp.setV r l x).s = sp.s := rfl
@[simp] theorem Spindle.setV_p (sp : Spindle) (r l : Nat) (x : Word) : (sp.setV r l x).p = sp.p := rfl
@[simp] theorem Spindle.setV_f (sp : Spindle) (r l : Nat) (x : Word) : (sp.setV r l x).f = sp.f := rfl
@[simp] theorem Spindle.setV_wpart (sp : Spindle) (r l : Nat) (x : Word) : (sp.setV r l x).wpart = sp.wpart := rfl
@[simp] theorem Spindle.setV_warr (sp : Spindle) (r l : Nat) (x : Word) : (sp.setV r l x).warr = sp.warr := rfl
@[simp] theorem Spindle.setV_wpark (sp : Spindle) (r l : Nat) (x : Word) : (sp.setV r l x).wpark = sp.wpark := rfl
@[simp] theorem Spindle.setV_k (sp : Spindle) (r l : Nat) (x : Word) : (sp.setV r l x).k = sp.k := rfl
@[simp] theorem Spindle.setV_pm (sp : Spindle) (r l : Nat) (x : Word) : (sp.setV r l x).pm = sp.pm := rfl
@[simp] theorem Spindle.setV_gang (sp : Spindle) (r l : Nat) (x : Word) : (sp.setV r l x).gang = sp.gang := rfl
@[simp] theorem Spindle.setV_ftz (sp : Spindle) (r l : Nat) (x : Word) : (sp.setV r l x).ftz = sp.ftz := rfl
@[simp] theorem Spindle.setV_srseed (sp : Spindle) (r l : Nat) (x : Word) : (sp.setV r l x).srseed = sp.srseed := rfl
@[simp] theorem Spindle.setV_txctl (sp : Spindle) (r l : Nat) (x : Word) : (sp.setV r l x).txctl = sp.txctl := rfl
@[simp] theorem Spindle.setV_bankconf (sp : Spindle) (r l : Nat) (x : Word) : (sp.setV r l x).bankconf = sp.bankconf := rfl
@[simp] theorem Spindle.setV_lanes (sp : Spindle) (r l : Nat) (x : Word) : (sp.setV r l x).lanes = sp.lanes := rfl
@[simp] theorem Spindle.setV_uchunk (sp : Spindle) (r l : Nat) (x : Word) : (sp.setV r l x).uchunk = sp.uchunk := rfl
@[simp] theorem Spindle.setV_chunks (sp : Spindle) (r l : Nat) (x : Word) : (sp.setV r l x).chunks = sp.chunks := rfl
@[simp] theorem Spindle.setV_txchunks (sp : Spindle) (r l : Nat) (x : Word) : (sp.setV r l x).txchunks = sp.txchunks := rfl
@[simp] theorem Spindle.setV_entry (sp : Spindle) (r l : Nat) (x : Word) : (sp.setV r l x).entry = sp.entry := rfl
@[simp] theorem Spindle.setV_domain (sp : Spindle) (r l : Nat) (x : Word) : (sp.setV r l x).domain = sp.domain := rfl
@[simp] theorem Spindle.setV_trapped (sp : Spindle) (r l : Nat) (x : Word) : (sp.setV r l x).trapped = sp.trapped := rfl
@[simp] theorem Spindle.setV_aged (sp : Spindle) (r l : Nat) (x : Word) : (sp.setV r l x).aged = sp.aged := rfl
@[simp] theorem Spindle.setV_stopped (sp : Spindle) (r l : Nat) (x : Word) : (sp.setV r l x).stopped = sp.stopped := rfl
@[simp] theorem Spindle.setV_want (sp : Spindle) (r l : Nat) (x : Word) : (sp.setV r l x).want = sp.want := rfl
@[simp] theorem Spindle.setV_wantPc (sp : Spindle) (r l : Nat) (x : Word) : (sp.setV r l x).wantPc = sp.wantPc := rfl
@[simp] theorem Spindle.setV_fresh (sp : Spindle) (r l : Nat) (x : Word) : (sp.setV r l x).fresh = sp.fresh := rfl
@[simp] theorem Spindle.setV_barred (sp : Spindle) (r l : Nat) (x : Word) : (sp.setV r l x).barred = sp.barred := rfl

-- Spindle.setD

@[simp] theorem Spindle.setD_team (sp : Spindle) (r l : Nat) (x : DWord) : (sp.setD r l x).team = sp.team := by
  simp only [Spindle.setD, Spindle.setV_team]
@[simp] theorem Spindle.setD_idx (sp : Spindle) (r l : Nat) (x : DWord) : (sp.setD r l x).idx = sp.idx := by
  simp only [Spindle.setD, Spindle.setV_idx]
@[simp] theorem Spindle.setD_core (sp : Spindle) (r l : Nat) (x : DWord) : (sp.setD r l x).core = sp.core := by
  simp only [Spindle.setD, Spindle.setV_core]
@[simp] theorem Spindle.setD_quad (sp : Spindle) (r l : Nat) (x : DWord) : (sp.setD r l x).quad = sp.quad := by
  simp only [Spindle.setD, Spindle.setV_quad]
@[simp] theorem Spindle.setD_slot (sp : Spindle) (r l : Nat) (x : DWord) : (sp.setD r l x).slot = sp.slot := by
  simp only [Spindle.setD, Spindle.setV_slot]
@[simp] theorem Spindle.setD_st (sp : Spindle) (r l : Nat) (x : DWord) : (sp.setD r l x).st = sp.st := by
  simp only [Spindle.setD, Spindle.setV_st]
@[simp] theorem Spindle.setD_crank (sp : Spindle) (r l : Nat) (x : DWord) : (sp.setD r l x).crank = sp.crank := by
  simp only [Spindle.setD, Spindle.setV_crank]
@[simp] theorem Spindle.setD_age (sp : Spindle) (r l : Nat) (x : DWord) : (sp.setD r l x).age = sp.age := by
  simp only [Spindle.setD, Spindle.setV_age]
@[simp] theorem Spindle.setD_vcount (sp : Spindle) (r l : Nat) (x : DWord) : (sp.setD r l x).vcount = sp.vcount := by
  simp only [Spindle.setD, Spindle.setV_vcount]
@[simp] theorem Spindle.setD_vpoison (sp : Spindle) (r l : Nat) (x : DWord) : (sp.setD r l x).vpoison = sp.vpoison := by
  simp only [Spindle.setD, Spindle.setV_vpoison]
@[simp] theorem Spindle.setD_upoison (sp : Spindle) (r l : Nat) (x : DWord) : (sp.setD r l x).upoison = sp.upoison := by
  simp only [Spindle.setD, Spindle.setV_upoison]
@[simp] theorem Spindle.setD_s (sp : Spindle) (r l : Nat) (x : DWord) : (sp.setD r l x).s = sp.s := by
  simp only [Spindle.setD, Spindle.setV_s]
@[simp] theorem Spindle.setD_p (sp : Spindle) (r l : Nat) (x : DWord) : (sp.setD r l x).p = sp.p := by
  simp only [Spindle.setD, Spindle.setV_p]
@[simp] theorem Spindle.setD_f (sp : Spindle) (r l : Nat) (x : DWord) : (sp.setD r l x).f = sp.f := by
  simp only [Spindle.setD, Spindle.setV_f]
@[simp] theorem Spindle.setD_wpart (sp : Spindle) (r l : Nat) (x : DWord) : (sp.setD r l x).wpart = sp.wpart := by
  simp only [Spindle.setD, Spindle.setV_wpart]
@[simp] theorem Spindle.setD_warr (sp : Spindle) (r l : Nat) (x : DWord) : (sp.setD r l x).warr = sp.warr := by
  simp only [Spindle.setD, Spindle.setV_warr]
@[simp] theorem Spindle.setD_wpark (sp : Spindle) (r l : Nat) (x : DWord) : (sp.setD r l x).wpark = sp.wpark := by
  simp only [Spindle.setD, Spindle.setV_wpark]
@[simp] theorem Spindle.setD_k (sp : Spindle) (r l : Nat) (x : DWord) : (sp.setD r l x).k = sp.k := by
  simp only [Spindle.setD, Spindle.setV_k]
@[simp] theorem Spindle.setD_pm (sp : Spindle) (r l : Nat) (x : DWord) : (sp.setD r l x).pm = sp.pm := by
  simp only [Spindle.setD, Spindle.setV_pm]
@[simp] theorem Spindle.setD_gang (sp : Spindle) (r l : Nat) (x : DWord) : (sp.setD r l x).gang = sp.gang := by
  simp only [Spindle.setD, Spindle.setV_gang]
@[simp] theorem Spindle.setD_ftz (sp : Spindle) (r l : Nat) (x : DWord) : (sp.setD r l x).ftz = sp.ftz := by
  simp only [Spindle.setD, Spindle.setV_ftz]
@[simp] theorem Spindle.setD_srseed (sp : Spindle) (r l : Nat) (x : DWord) : (sp.setD r l x).srseed = sp.srseed := by
  simp only [Spindle.setD, Spindle.setV_srseed]
@[simp] theorem Spindle.setD_txctl (sp : Spindle) (r l : Nat) (x : DWord) : (sp.setD r l x).txctl = sp.txctl := by
  simp only [Spindle.setD, Spindle.setV_txctl]
@[simp] theorem Spindle.setD_bankconf (sp : Spindle) (r l : Nat) (x : DWord) : (sp.setD r l x).bankconf = sp.bankconf := by
  simp only [Spindle.setD, Spindle.setV_bankconf]
@[simp] theorem Spindle.setD_lanes (sp : Spindle) (r l : Nat) (x : DWord) : (sp.setD r l x).lanes = sp.lanes := by
  simp only [Spindle.setD, Spindle.setV_lanes]
@[simp] theorem Spindle.setD_uchunk (sp : Spindle) (r l : Nat) (x : DWord) : (sp.setD r l x).uchunk = sp.uchunk := by
  simp only [Spindle.setD, Spindle.setV_uchunk]
@[simp] theorem Spindle.setD_chunks (sp : Spindle) (r l : Nat) (x : DWord) : (sp.setD r l x).chunks = sp.chunks := by
  simp only [Spindle.setD, Spindle.setV_chunks]
@[simp] theorem Spindle.setD_txchunks (sp : Spindle) (r l : Nat) (x : DWord) : (sp.setD r l x).txchunks = sp.txchunks := by
  simp only [Spindle.setD, Spindle.setV_txchunks]
@[simp] theorem Spindle.setD_entry (sp : Spindle) (r l : Nat) (x : DWord) : (sp.setD r l x).entry = sp.entry := by
  simp only [Spindle.setD, Spindle.setV_entry]
@[simp] theorem Spindle.setD_domain (sp : Spindle) (r l : Nat) (x : DWord) : (sp.setD r l x).domain = sp.domain := by
  simp only [Spindle.setD, Spindle.setV_domain]
@[simp] theorem Spindle.setD_trapped (sp : Spindle) (r l : Nat) (x : DWord) : (sp.setD r l x).trapped = sp.trapped := by
  simp only [Spindle.setD, Spindle.setV_trapped]
@[simp] theorem Spindle.setD_aged (sp : Spindle) (r l : Nat) (x : DWord) : (sp.setD r l x).aged = sp.aged := by
  simp only [Spindle.setD, Spindle.setV_aged]
@[simp] theorem Spindle.setD_stopped (sp : Spindle) (r l : Nat) (x : DWord) : (sp.setD r l x).stopped = sp.stopped := by
  simp only [Spindle.setD, Spindle.setV_stopped]
@[simp] theorem Spindle.setD_want (sp : Spindle) (r l : Nat) (x : DWord) : (sp.setD r l x).want = sp.want := by
  simp only [Spindle.setD, Spindle.setV_want]
@[simp] theorem Spindle.setD_barred (sp : Spindle) (r l : Nat) (x : DWord) : (sp.setD r l x).barred = sp.barred := by
  simp only [Spindle.setD, Spindle.setV_barred]

-- Spindle.setQ

@[simp] theorem Spindle.setQ_team (sp : Spindle) (r l : Nat) (x : BitVec 128) : (sp.setQ r l x).team = sp.team := by
  simp only [Spindle.setQ, Spindle.setD_team]
@[simp] theorem Spindle.setQ_idx (sp : Spindle) (r l : Nat) (x : BitVec 128) : (sp.setQ r l x).idx = sp.idx := by
  simp only [Spindle.setQ, Spindle.setD_idx]
@[simp] theorem Spindle.setQ_core (sp : Spindle) (r l : Nat) (x : BitVec 128) : (sp.setQ r l x).core = sp.core := by
  simp only [Spindle.setQ, Spindle.setD_core]
@[simp] theorem Spindle.setQ_quad (sp : Spindle) (r l : Nat) (x : BitVec 128) : (sp.setQ r l x).quad = sp.quad := by
  simp only [Spindle.setQ, Spindle.setD_quad]
@[simp] theorem Spindle.setQ_slot (sp : Spindle) (r l : Nat) (x : BitVec 128) : (sp.setQ r l x).slot = sp.slot := by
  simp only [Spindle.setQ, Spindle.setD_slot]
@[simp] theorem Spindle.setQ_st (sp : Spindle) (r l : Nat) (x : BitVec 128) : (sp.setQ r l x).st = sp.st := by
  simp only [Spindle.setQ, Spindle.setD_st]
@[simp] theorem Spindle.setQ_crank (sp : Spindle) (r l : Nat) (x : BitVec 128) : (sp.setQ r l x).crank = sp.crank := by
  simp only [Spindle.setQ, Spindle.setD_crank]
@[simp] theorem Spindle.setQ_age (sp : Spindle) (r l : Nat) (x : BitVec 128) : (sp.setQ r l x).age = sp.age := by
  simp only [Spindle.setQ, Spindle.setD_age]
@[simp] theorem Spindle.setQ_vcount (sp : Spindle) (r l : Nat) (x : BitVec 128) : (sp.setQ r l x).vcount = sp.vcount := by
  simp only [Spindle.setQ, Spindle.setD_vcount]
@[simp] theorem Spindle.setQ_vpoison (sp : Spindle) (r l : Nat) (x : BitVec 128) : (sp.setQ r l x).vpoison = sp.vpoison := by
  simp only [Spindle.setQ, Spindle.setD_vpoison]
@[simp] theorem Spindle.setQ_upoison (sp : Spindle) (r l : Nat) (x : BitVec 128) : (sp.setQ r l x).upoison = sp.upoison := by
  simp only [Spindle.setQ, Spindle.setD_upoison]
@[simp] theorem Spindle.setQ_s (sp : Spindle) (r l : Nat) (x : BitVec 128) : (sp.setQ r l x).s = sp.s := by
  simp only [Spindle.setQ, Spindle.setD_s]
@[simp] theorem Spindle.setQ_p (sp : Spindle) (r l : Nat) (x : BitVec 128) : (sp.setQ r l x).p = sp.p := by
  simp only [Spindle.setQ, Spindle.setD_p]
@[simp] theorem Spindle.setQ_f (sp : Spindle) (r l : Nat) (x : BitVec 128) : (sp.setQ r l x).f = sp.f := by
  simp only [Spindle.setQ, Spindle.setD_f]
@[simp] theorem Spindle.setQ_wpart (sp : Spindle) (r l : Nat) (x : BitVec 128) : (sp.setQ r l x).wpart = sp.wpart := by
  simp only [Spindle.setQ, Spindle.setD_wpart]
@[simp] theorem Spindle.setQ_warr (sp : Spindle) (r l : Nat) (x : BitVec 128) : (sp.setQ r l x).warr = sp.warr := by
  simp only [Spindle.setQ, Spindle.setD_warr]
@[simp] theorem Spindle.setQ_wpark (sp : Spindle) (r l : Nat) (x : BitVec 128) : (sp.setQ r l x).wpark = sp.wpark := by
  simp only [Spindle.setQ, Spindle.setD_wpark]
@[simp] theorem Spindle.setQ_k (sp : Spindle) (r l : Nat) (x : BitVec 128) : (sp.setQ r l x).k = sp.k := by
  simp only [Spindle.setQ, Spindle.setD_k]
@[simp] theorem Spindle.setQ_pm (sp : Spindle) (r l : Nat) (x : BitVec 128) : (sp.setQ r l x).pm = sp.pm := by
  simp only [Spindle.setQ, Spindle.setD_pm]
@[simp] theorem Spindle.setQ_gang (sp : Spindle) (r l : Nat) (x : BitVec 128) : (sp.setQ r l x).gang = sp.gang := by
  simp only [Spindle.setQ, Spindle.setD_gang]
@[simp] theorem Spindle.setQ_ftz (sp : Spindle) (r l : Nat) (x : BitVec 128) : (sp.setQ r l x).ftz = sp.ftz := by
  simp only [Spindle.setQ, Spindle.setD_ftz]
@[simp] theorem Spindle.setQ_srseed (sp : Spindle) (r l : Nat) (x : BitVec 128) : (sp.setQ r l x).srseed = sp.srseed := by
  simp only [Spindle.setQ, Spindle.setD_srseed]
@[simp] theorem Spindle.setQ_txctl (sp : Spindle) (r l : Nat) (x : BitVec 128) : (sp.setQ r l x).txctl = sp.txctl := by
  simp only [Spindle.setQ, Spindle.setD_txctl]
@[simp] theorem Spindle.setQ_bankconf (sp : Spindle) (r l : Nat) (x : BitVec 128) : (sp.setQ r l x).bankconf = sp.bankconf := by
  simp only [Spindle.setQ, Spindle.setD_bankconf]
@[simp] theorem Spindle.setQ_lanes (sp : Spindle) (r l : Nat) (x : BitVec 128) : (sp.setQ r l x).lanes = sp.lanes := by
  simp only [Spindle.setQ, Spindle.setD_lanes]
@[simp] theorem Spindle.setQ_uchunk (sp : Spindle) (r l : Nat) (x : BitVec 128) : (sp.setQ r l x).uchunk = sp.uchunk := by
  simp only [Spindle.setQ, Spindle.setD_uchunk]
@[simp] theorem Spindle.setQ_chunks (sp : Spindle) (r l : Nat) (x : BitVec 128) : (sp.setQ r l x).chunks = sp.chunks := by
  simp only [Spindle.setQ, Spindle.setD_chunks]
@[simp] theorem Spindle.setQ_txchunks (sp : Spindle) (r l : Nat) (x : BitVec 128) : (sp.setQ r l x).txchunks = sp.txchunks := by
  simp only [Spindle.setQ, Spindle.setD_txchunks]
@[simp] theorem Spindle.setQ_entry (sp : Spindle) (r l : Nat) (x : BitVec 128) : (sp.setQ r l x).entry = sp.entry := by
  simp only [Spindle.setQ, Spindle.setD_entry]
@[simp] theorem Spindle.setQ_domain (sp : Spindle) (r l : Nat) (x : BitVec 128) : (sp.setQ r l x).domain = sp.domain := by
  simp only [Spindle.setQ, Spindle.setD_domain]
@[simp] theorem Spindle.setQ_trapped (sp : Spindle) (r l : Nat) (x : BitVec 128) : (sp.setQ r l x).trapped = sp.trapped := by
  simp only [Spindle.setQ, Spindle.setD_trapped]
@[simp] theorem Spindle.setQ_aged (sp : Spindle) (r l : Nat) (x : BitVec 128) : (sp.setQ r l x).aged = sp.aged := by
  simp only [Spindle.setQ, Spindle.setD_aged]
@[simp] theorem Spindle.setQ_stopped (sp : Spindle) (r l : Nat) (x : BitVec 128) : (sp.setQ r l x).stopped = sp.stopped := by
  simp only [Spindle.setQ, Spindle.setD_stopped]
@[simp] theorem Spindle.setQ_want (sp : Spindle) (r l : Nat) (x : BitVec 128) : (sp.setQ r l x).want = sp.want := by
  simp only [Spindle.setQ, Spindle.setD_want]
@[simp] theorem Spindle.setQ_barred (sp : Spindle) (r l : Nat) (x : BitVec 128) : (sp.setQ r l x).barred = sp.barred := by
  simp only [Spindle.setQ, Spindle.setD_barred]

-- Spindle.setVs

@[simp] theorem Spindle.setVs_team (sp : Spindle) (w : List (Nat × Word)) : (sp.setVs w).team = sp.team := rfl
@[simp] theorem Spindle.setVs_idx (sp : Spindle) (w : List (Nat × Word)) : (sp.setVs w).idx = sp.idx := rfl
@[simp] theorem Spindle.setVs_core (sp : Spindle) (w : List (Nat × Word)) : (sp.setVs w).core = sp.core := rfl
@[simp] theorem Spindle.setVs_quad (sp : Spindle) (w : List (Nat × Word)) : (sp.setVs w).quad = sp.quad := rfl
@[simp] theorem Spindle.setVs_slot (sp : Spindle) (w : List (Nat × Word)) : (sp.setVs w).slot = sp.slot := rfl
@[simp] theorem Spindle.setVs_st (sp : Spindle) (w : List (Nat × Word)) : (sp.setVs w).st = sp.st := rfl
@[simp] theorem Spindle.setVs_crank (sp : Spindle) (w : List (Nat × Word)) : (sp.setVs w).crank = sp.crank := rfl
@[simp] theorem Spindle.setVs_age (sp : Spindle) (w : List (Nat × Word)) : (sp.setVs w).age = sp.age := rfl
@[simp] theorem Spindle.setVs_vcount (sp : Spindle) (w : List (Nat × Word)) : (sp.setVs w).vcount = sp.vcount := rfl
@[simp] theorem Spindle.setVs_vpoison (sp : Spindle) (w : List (Nat × Word)) : (sp.setVs w).vpoison = sp.vpoison := rfl
@[simp] theorem Spindle.setVs_upoison (sp : Spindle) (w : List (Nat × Word)) : (sp.setVs w).upoison = sp.upoison := rfl
@[simp] theorem Spindle.setVs_s (sp : Spindle) (w : List (Nat × Word)) : (sp.setVs w).s = sp.s := rfl
@[simp] theorem Spindle.setVs_p (sp : Spindle) (w : List (Nat × Word)) : (sp.setVs w).p = sp.p := rfl
@[simp] theorem Spindle.setVs_f (sp : Spindle) (w : List (Nat × Word)) : (sp.setVs w).f = sp.f := rfl
@[simp] theorem Spindle.setVs_wpart (sp : Spindle) (w : List (Nat × Word)) : (sp.setVs w).wpart = sp.wpart := rfl
@[simp] theorem Spindle.setVs_warr (sp : Spindle) (w : List (Nat × Word)) : (sp.setVs w).warr = sp.warr := rfl
@[simp] theorem Spindle.setVs_wpark (sp : Spindle) (w : List (Nat × Word)) : (sp.setVs w).wpark = sp.wpark := rfl
@[simp] theorem Spindle.setVs_k (sp : Spindle) (w : List (Nat × Word)) : (sp.setVs w).k = sp.k := rfl
@[simp] theorem Spindle.setVs_pm (sp : Spindle) (w : List (Nat × Word)) : (sp.setVs w).pm = sp.pm := rfl
@[simp] theorem Spindle.setVs_gang (sp : Spindle) (w : List (Nat × Word)) : (sp.setVs w).gang = sp.gang := rfl
@[simp] theorem Spindle.setVs_ftz (sp : Spindle) (w : List (Nat × Word)) : (sp.setVs w).ftz = sp.ftz := rfl
@[simp] theorem Spindle.setVs_srseed (sp : Spindle) (w : List (Nat × Word)) : (sp.setVs w).srseed = sp.srseed := rfl
@[simp] theorem Spindle.setVs_txctl (sp : Spindle) (w : List (Nat × Word)) : (sp.setVs w).txctl = sp.txctl := rfl
@[simp] theorem Spindle.setVs_bankconf (sp : Spindle) (w : List (Nat × Word)) : (sp.setVs w).bankconf = sp.bankconf := rfl
@[simp] theorem Spindle.setVs_lanes (sp : Spindle) (w : List (Nat × Word)) : (sp.setVs w).lanes = sp.lanes := rfl
@[simp] theorem Spindle.setVs_uchunk (sp : Spindle) (w : List (Nat × Word)) : (sp.setVs w).uchunk = sp.uchunk := rfl
@[simp] theorem Spindle.setVs_chunks (sp : Spindle) (w : List (Nat × Word)) : (sp.setVs w).chunks = sp.chunks := rfl
@[simp] theorem Spindle.setVs_txchunks (sp : Spindle) (w : List (Nat × Word)) : (sp.setVs w).txchunks = sp.txchunks := rfl
@[simp] theorem Spindle.setVs_entry (sp : Spindle) (w : List (Nat × Word)) : (sp.setVs w).entry = sp.entry := rfl
@[simp] theorem Spindle.setVs_domain (sp : Spindle) (w : List (Nat × Word)) : (sp.setVs w).domain = sp.domain := rfl
@[simp] theorem Spindle.setVs_trapped (sp : Spindle) (w : List (Nat × Word)) : (sp.setVs w).trapped = sp.trapped := rfl
@[simp] theorem Spindle.setVs_aged (sp : Spindle) (w : List (Nat × Word)) : (sp.setVs w).aged = sp.aged := rfl
@[simp] theorem Spindle.setVs_stopped (sp : Spindle) (w : List (Nat × Word)) : (sp.setVs w).stopped = sp.stopped := rfl
@[simp] theorem Spindle.setVs_want (sp : Spindle) (w : List (Nat × Word)) : (sp.setVs w).want = sp.want := rfl
@[simp] theorem Spindle.setVs_wantPc (sp : Spindle) (w : List (Nat × Word)) : (sp.setVs w).wantPc = sp.wantPc := rfl
@[simp] theorem Spindle.setVs_fresh (sp : Spindle) (w : List (Nat × Word)) : (sp.setVs w).fresh = sp.fresh := rfl
@[simp] theorem Spindle.setVs_barred (sp : Spindle) (w : List (Nat × Word)) : (sp.setVs w).barred = sp.barred := rfl

-- Spindle.setS

@[simp] theorem Spindle.setS_team (sp : Spindle) (r : Nat) (x : Word) : (sp.setS r x).team = sp.team := rfl
@[simp] theorem Spindle.setS_idx (sp : Spindle) (r : Nat) (x : Word) : (sp.setS r x).idx = sp.idx := rfl
@[simp] theorem Spindle.setS_core (sp : Spindle) (r : Nat) (x : Word) : (sp.setS r x).core = sp.core := rfl
@[simp] theorem Spindle.setS_quad (sp : Spindle) (r : Nat) (x : Word) : (sp.setS r x).quad = sp.quad := rfl
@[simp] theorem Spindle.setS_slot (sp : Spindle) (r : Nat) (x : Word) : (sp.setS r x).slot = sp.slot := rfl
@[simp] theorem Spindle.setS_st (sp : Spindle) (r : Nat) (x : Word) : (sp.setS r x).st = sp.st := rfl
@[simp] theorem Spindle.setS_crank (sp : Spindle) (r : Nat) (x : Word) : (sp.setS r x).crank = sp.crank := rfl
@[simp] theorem Spindle.setS_age (sp : Spindle) (r : Nat) (x : Word) : (sp.setS r x).age = sp.age := rfl
@[simp] theorem Spindle.setS_vcount (sp : Spindle) (r : Nat) (x : Word) : (sp.setS r x).vcount = sp.vcount := rfl
@[simp] theorem Spindle.setS_v (sp : Spindle) (r : Nat) (x : Word) : (sp.setS r x).v = sp.v := rfl
@[simp] theorem Spindle.setS_vpoison (sp : Spindle) (r : Nat) (x : Word) : (sp.setS r x).vpoison = sp.vpoison := rfl
@[simp] theorem Spindle.setS_upoison (sp : Spindle) (r : Nat) (x : Word) : (sp.setS r x).upoison = sp.upoison := rfl
@[simp] theorem Spindle.setS_p (sp : Spindle) (r : Nat) (x : Word) : (sp.setS r x).p = sp.p := rfl
@[simp] theorem Spindle.setS_f (sp : Spindle) (r : Nat) (x : Word) : (sp.setS r x).f = sp.f := rfl
@[simp] theorem Spindle.setS_wpart (sp : Spindle) (r : Nat) (x : Word) : (sp.setS r x).wpart = sp.wpart := rfl
@[simp] theorem Spindle.setS_warr (sp : Spindle) (r : Nat) (x : Word) : (sp.setS r x).warr = sp.warr := rfl
@[simp] theorem Spindle.setS_wpark (sp : Spindle) (r : Nat) (x : Word) : (sp.setS r x).wpark = sp.wpark := rfl
@[simp] theorem Spindle.setS_k (sp : Spindle) (r : Nat) (x : Word) : (sp.setS r x).k = sp.k := rfl
@[simp] theorem Spindle.setS_pm (sp : Spindle) (r : Nat) (x : Word) : (sp.setS r x).pm = sp.pm := rfl
@[simp] theorem Spindle.setS_gang (sp : Spindle) (r : Nat) (x : Word) : (sp.setS r x).gang = sp.gang := rfl
@[simp] theorem Spindle.setS_ftz (sp : Spindle) (r : Nat) (x : Word) : (sp.setS r x).ftz = sp.ftz := rfl
@[simp] theorem Spindle.setS_srseed (sp : Spindle) (r : Nat) (x : Word) : (sp.setS r x).srseed = sp.srseed := rfl
@[simp] theorem Spindle.setS_txctl (sp : Spindle) (r : Nat) (x : Word) : (sp.setS r x).txctl = sp.txctl := rfl
@[simp] theorem Spindle.setS_bankconf (sp : Spindle) (r : Nat) (x : Word) : (sp.setS r x).bankconf = sp.bankconf := rfl
@[simp] theorem Spindle.setS_lanes (sp : Spindle) (r : Nat) (x : Word) : (sp.setS r x).lanes = sp.lanes := rfl
@[simp] theorem Spindle.setS_uchunk (sp : Spindle) (r : Nat) (x : Word) : (sp.setS r x).uchunk = sp.uchunk := rfl
@[simp] theorem Spindle.setS_chunks (sp : Spindle) (r : Nat) (x : Word) : (sp.setS r x).chunks = sp.chunks := rfl
@[simp] theorem Spindle.setS_txchunks (sp : Spindle) (r : Nat) (x : Word) : (sp.setS r x).txchunks = sp.txchunks := rfl
@[simp] theorem Spindle.setS_entry (sp : Spindle) (r : Nat) (x : Word) : (sp.setS r x).entry = sp.entry := rfl
@[simp] theorem Spindle.setS_domain (sp : Spindle) (r : Nat) (x : Word) : (sp.setS r x).domain = sp.domain := rfl
@[simp] theorem Spindle.setS_trapped (sp : Spindle) (r : Nat) (x : Word) : (sp.setS r x).trapped = sp.trapped := rfl
@[simp] theorem Spindle.setS_aged (sp : Spindle) (r : Nat) (x : Word) : (sp.setS r x).aged = sp.aged := rfl
@[simp] theorem Spindle.setS_stopped (sp : Spindle) (r : Nat) (x : Word) : (sp.setS r x).stopped = sp.stopped := rfl
@[simp] theorem Spindle.setS_want (sp : Spindle) (r : Nat) (x : Word) : (sp.setS r x).want = sp.want := rfl
@[simp] theorem Spindle.setS_wantPc (sp : Spindle) (r : Nat) (x : Word) : (sp.setS r x).wantPc = sp.wantPc := rfl
@[simp] theorem Spindle.setS_fresh (sp : Spindle) (r : Nat) (x : Word) : (sp.setS r x).fresh = sp.fresh := rfl
@[simp] theorem Spindle.setS_barred (sp : Spindle) (r : Nat) (x : Word) : (sp.setS r x).barred = sp.barred := rfl

-- Spindle.setSD

@[simp] theorem Spindle.setSD_team (sp : Spindle) (r : Nat) (x : DWord) : (sp.setSD r x).team = sp.team := by
  simp only [Spindle.setSD, Spindle.setS_team]
@[simp] theorem Spindle.setSD_idx (sp : Spindle) (r : Nat) (x : DWord) : (sp.setSD r x).idx = sp.idx := by
  simp only [Spindle.setSD, Spindle.setS_idx]
@[simp] theorem Spindle.setSD_core (sp : Spindle) (r : Nat) (x : DWord) : (sp.setSD r x).core = sp.core := by
  simp only [Spindle.setSD, Spindle.setS_core]
@[simp] theorem Spindle.setSD_quad (sp : Spindle) (r : Nat) (x : DWord) : (sp.setSD r x).quad = sp.quad := by
  simp only [Spindle.setSD, Spindle.setS_quad]
@[simp] theorem Spindle.setSD_slot (sp : Spindle) (r : Nat) (x : DWord) : (sp.setSD r x).slot = sp.slot := by
  simp only [Spindle.setSD, Spindle.setS_slot]
@[simp] theorem Spindle.setSD_st (sp : Spindle) (r : Nat) (x : DWord) : (sp.setSD r x).st = sp.st := by
  simp only [Spindle.setSD, Spindle.setS_st]
@[simp] theorem Spindle.setSD_crank (sp : Spindle) (r : Nat) (x : DWord) : (sp.setSD r x).crank = sp.crank := by
  simp only [Spindle.setSD, Spindle.setS_crank]
@[simp] theorem Spindle.setSD_age (sp : Spindle) (r : Nat) (x : DWord) : (sp.setSD r x).age = sp.age := by
  simp only [Spindle.setSD, Spindle.setS_age]
@[simp] theorem Spindle.setSD_vcount (sp : Spindle) (r : Nat) (x : DWord) : (sp.setSD r x).vcount = sp.vcount := by
  simp only [Spindle.setSD, Spindle.setS_vcount]
@[simp] theorem Spindle.setSD_v (sp : Spindle) (r : Nat) (x : DWord) : (sp.setSD r x).v = sp.v := by
  simp only [Spindle.setSD, Spindle.setS_v]
@[simp] theorem Spindle.setSD_vpoison (sp : Spindle) (r : Nat) (x : DWord) : (sp.setSD r x).vpoison = sp.vpoison := by
  simp only [Spindle.setSD, Spindle.setS_vpoison]
@[simp] theorem Spindle.setSD_upoison (sp : Spindle) (r : Nat) (x : DWord) : (sp.setSD r x).upoison = sp.upoison := by
  simp only [Spindle.setSD, Spindle.setS_upoison]
@[simp] theorem Spindle.setSD_p (sp : Spindle) (r : Nat) (x : DWord) : (sp.setSD r x).p = sp.p := by
  simp only [Spindle.setSD, Spindle.setS_p]
@[simp] theorem Spindle.setSD_f (sp : Spindle) (r : Nat) (x : DWord) : (sp.setSD r x).f = sp.f := by
  simp only [Spindle.setSD, Spindle.setS_f]
@[simp] theorem Spindle.setSD_wpart (sp : Spindle) (r : Nat) (x : DWord) : (sp.setSD r x).wpart = sp.wpart := by
  simp only [Spindle.setSD, Spindle.setS_wpart]
@[simp] theorem Spindle.setSD_warr (sp : Spindle) (r : Nat) (x : DWord) : (sp.setSD r x).warr = sp.warr := by
  simp only [Spindle.setSD, Spindle.setS_warr]
@[simp] theorem Spindle.setSD_wpark (sp : Spindle) (r : Nat) (x : DWord) : (sp.setSD r x).wpark = sp.wpark := by
  simp only [Spindle.setSD, Spindle.setS_wpark]
@[simp] theorem Spindle.setSD_k (sp : Spindle) (r : Nat) (x : DWord) : (sp.setSD r x).k = sp.k := by
  simp only [Spindle.setSD, Spindle.setS_k]
@[simp] theorem Spindle.setSD_pm (sp : Spindle) (r : Nat) (x : DWord) : (sp.setSD r x).pm = sp.pm := by
  simp only [Spindle.setSD, Spindle.setS_pm]
@[simp] theorem Spindle.setSD_gang (sp : Spindle) (r : Nat) (x : DWord) : (sp.setSD r x).gang = sp.gang := by
  simp only [Spindle.setSD, Spindle.setS_gang]
@[simp] theorem Spindle.setSD_ftz (sp : Spindle) (r : Nat) (x : DWord) : (sp.setSD r x).ftz = sp.ftz := by
  simp only [Spindle.setSD, Spindle.setS_ftz]
@[simp] theorem Spindle.setSD_srseed (sp : Spindle) (r : Nat) (x : DWord) : (sp.setSD r x).srseed = sp.srseed := by
  simp only [Spindle.setSD, Spindle.setS_srseed]
@[simp] theorem Spindle.setSD_txctl (sp : Spindle) (r : Nat) (x : DWord) : (sp.setSD r x).txctl = sp.txctl := by
  simp only [Spindle.setSD, Spindle.setS_txctl]
@[simp] theorem Spindle.setSD_bankconf (sp : Spindle) (r : Nat) (x : DWord) : (sp.setSD r x).bankconf = sp.bankconf := by
  simp only [Spindle.setSD, Spindle.setS_bankconf]
@[simp] theorem Spindle.setSD_lanes (sp : Spindle) (r : Nat) (x : DWord) : (sp.setSD r x).lanes = sp.lanes := by
  simp only [Spindle.setSD, Spindle.setS_lanes]
@[simp] theorem Spindle.setSD_uchunk (sp : Spindle) (r : Nat) (x : DWord) : (sp.setSD r x).uchunk = sp.uchunk := by
  simp only [Spindle.setSD, Spindle.setS_uchunk]
@[simp] theorem Spindle.setSD_chunks (sp : Spindle) (r : Nat) (x : DWord) : (sp.setSD r x).chunks = sp.chunks := by
  simp only [Spindle.setSD, Spindle.setS_chunks]
@[simp] theorem Spindle.setSD_txchunks (sp : Spindle) (r : Nat) (x : DWord) : (sp.setSD r x).txchunks = sp.txchunks := by
  simp only [Spindle.setSD, Spindle.setS_txchunks]
@[simp] theorem Spindle.setSD_entry (sp : Spindle) (r : Nat) (x : DWord) : (sp.setSD r x).entry = sp.entry := by
  simp only [Spindle.setSD, Spindle.setS_entry]
@[simp] theorem Spindle.setSD_domain (sp : Spindle) (r : Nat) (x : DWord) : (sp.setSD r x).domain = sp.domain := by
  simp only [Spindle.setSD, Spindle.setS_domain]
@[simp] theorem Spindle.setSD_trapped (sp : Spindle) (r : Nat) (x : DWord) : (sp.setSD r x).trapped = sp.trapped := by
  simp only [Spindle.setSD, Spindle.setS_trapped]
@[simp] theorem Spindle.setSD_aged (sp : Spindle) (r : Nat) (x : DWord) : (sp.setSD r x).aged = sp.aged := by
  simp only [Spindle.setSD, Spindle.setS_aged]
@[simp] theorem Spindle.setSD_stopped (sp : Spindle) (r : Nat) (x : DWord) : (sp.setSD r x).stopped = sp.stopped := by
  simp only [Spindle.setSD, Spindle.setS_stopped]
@[simp] theorem Spindle.setSD_want (sp : Spindle) (r : Nat) (x : DWord) : (sp.setSD r x).want = sp.want := by
  simp only [Spindle.setSD, Spindle.setS_want]
@[simp] theorem Spindle.setSD_barred (sp : Spindle) (r : Nat) (x : DWord) : (sp.setSD r x).barred = sp.barred := by
  simp only [Spindle.setSD, Spindle.setS_barred]

-- Spindle.setFlag

@[simp] theorem Spindle.setFlag_team (sp : Spindle) (n : Nat) (x : BitVec 6) : (sp.setFlag n x).team = sp.team := rfl
@[simp] theorem Spindle.setFlag_idx (sp : Spindle) (n : Nat) (x : BitVec 6) : (sp.setFlag n x).idx = sp.idx := rfl
@[simp] theorem Spindle.setFlag_core (sp : Spindle) (n : Nat) (x : BitVec 6) : (sp.setFlag n x).core = sp.core := rfl
@[simp] theorem Spindle.setFlag_quad (sp : Spindle) (n : Nat) (x : BitVec 6) : (sp.setFlag n x).quad = sp.quad := rfl
@[simp] theorem Spindle.setFlag_slot (sp : Spindle) (n : Nat) (x : BitVec 6) : (sp.setFlag n x).slot = sp.slot := rfl
@[simp] theorem Spindle.setFlag_st (sp : Spindle) (n : Nat) (x : BitVec 6) : (sp.setFlag n x).st = sp.st := rfl
@[simp] theorem Spindle.setFlag_crank (sp : Spindle) (n : Nat) (x : BitVec 6) : (sp.setFlag n x).crank = sp.crank := rfl
@[simp] theorem Spindle.setFlag_age (sp : Spindle) (n : Nat) (x : BitVec 6) : (sp.setFlag n x).age = sp.age := rfl
@[simp] theorem Spindle.setFlag_vcount (sp : Spindle) (n : Nat) (x : BitVec 6) : (sp.setFlag n x).vcount = sp.vcount := rfl
@[simp] theorem Spindle.setFlag_v (sp : Spindle) (n : Nat) (x : BitVec 6) : (sp.setFlag n x).v = sp.v := rfl
@[simp] theorem Spindle.setFlag_vpoison (sp : Spindle) (n : Nat) (x : BitVec 6) : (sp.setFlag n x).vpoison = sp.vpoison := rfl
@[simp] theorem Spindle.setFlag_upoison (sp : Spindle) (n : Nat) (x : BitVec 6) : (sp.setFlag n x).upoison = sp.upoison := rfl
@[simp] theorem Spindle.setFlag_s (sp : Spindle) (n : Nat) (x : BitVec 6) : (sp.setFlag n x).s = sp.s := rfl
@[simp] theorem Spindle.setFlag_p (sp : Spindle) (n : Nat) (x : BitVec 6) : (sp.setFlag n x).p = sp.p := rfl
@[simp] theorem Spindle.setFlag_wpart (sp : Spindle) (n : Nat) (x : BitVec 6) : (sp.setFlag n x).wpart = sp.wpart := rfl
@[simp] theorem Spindle.setFlag_warr (sp : Spindle) (n : Nat) (x : BitVec 6) : (sp.setFlag n x).warr = sp.warr := rfl
@[simp] theorem Spindle.setFlag_wpark (sp : Spindle) (n : Nat) (x : BitVec 6) : (sp.setFlag n x).wpark = sp.wpark := rfl
@[simp] theorem Spindle.setFlag_k (sp : Spindle) (n : Nat) (x : BitVec 6) : (sp.setFlag n x).k = sp.k := rfl
@[simp] theorem Spindle.setFlag_pm (sp : Spindle) (n : Nat) (x : BitVec 6) : (sp.setFlag n x).pm = sp.pm := rfl
@[simp] theorem Spindle.setFlag_gang (sp : Spindle) (n : Nat) (x : BitVec 6) : (sp.setFlag n x).gang = sp.gang := rfl
@[simp] theorem Spindle.setFlag_ftz (sp : Spindle) (n : Nat) (x : BitVec 6) : (sp.setFlag n x).ftz = sp.ftz := rfl
@[simp] theorem Spindle.setFlag_srseed (sp : Spindle) (n : Nat) (x : BitVec 6) : (sp.setFlag n x).srseed = sp.srseed := rfl
@[simp] theorem Spindle.setFlag_txctl (sp : Spindle) (n : Nat) (x : BitVec 6) : (sp.setFlag n x).txctl = sp.txctl := rfl
@[simp] theorem Spindle.setFlag_bankconf (sp : Spindle) (n : Nat) (x : BitVec 6) : (sp.setFlag n x).bankconf = sp.bankconf := rfl
@[simp] theorem Spindle.setFlag_lanes (sp : Spindle) (n : Nat) (x : BitVec 6) : (sp.setFlag n x).lanes = sp.lanes := rfl
@[simp] theorem Spindle.setFlag_uchunk (sp : Spindle) (n : Nat) (x : BitVec 6) : (sp.setFlag n x).uchunk = sp.uchunk := rfl
@[simp] theorem Spindle.setFlag_chunks (sp : Spindle) (n : Nat) (x : BitVec 6) : (sp.setFlag n x).chunks = sp.chunks := rfl
@[simp] theorem Spindle.setFlag_txchunks (sp : Spindle) (n : Nat) (x : BitVec 6) : (sp.setFlag n x).txchunks = sp.txchunks := rfl
@[simp] theorem Spindle.setFlag_entry (sp : Spindle) (n : Nat) (x : BitVec 6) : (sp.setFlag n x).entry = sp.entry := rfl
@[simp] theorem Spindle.setFlag_domain (sp : Spindle) (n : Nat) (x : BitVec 6) : (sp.setFlag n x).domain = sp.domain := rfl
@[simp] theorem Spindle.setFlag_trapped (sp : Spindle) (n : Nat) (x : BitVec 6) : (sp.setFlag n x).trapped = sp.trapped := rfl
@[simp] theorem Spindle.setFlag_aged (sp : Spindle) (n : Nat) (x : BitVec 6) : (sp.setFlag n x).aged = sp.aged := rfl
@[simp] theorem Spindle.setFlag_stopped (sp : Spindle) (n : Nat) (x : BitVec 6) : (sp.setFlag n x).stopped = sp.stopped := rfl
@[simp] theorem Spindle.setFlag_want (sp : Spindle) (n : Nat) (x : BitVec 6) : (sp.setFlag n x).want = sp.want := rfl
@[simp] theorem Spindle.setFlag_wantPc (sp : Spindle) (n : Nat) (x : BitVec 6) : (sp.setFlag n x).wantPc = sp.wantPc := rfl
@[simp] theorem Spindle.setFlag_fresh (sp : Spindle) (n : Nat) (x : BitVec 6) : (sp.setFlag n x).fresh = sp.fresh := rfl
@[simp] theorem Spindle.setFlag_barred (sp : Spindle) (n : Nat) (x : BitVec 6) : (sp.setFlag n x).barred = sp.barred := rfl

-- Spindle.setK

@[simp] theorem Spindle.setK_team (sp : Spindle) (n : Nat) (x : Byte) : (sp.setK n x).team = sp.team := rfl
@[simp] theorem Spindle.setK_idx (sp : Spindle) (n : Nat) (x : Byte) : (sp.setK n x).idx = sp.idx := rfl
@[simp] theorem Spindle.setK_core (sp : Spindle) (n : Nat) (x : Byte) : (sp.setK n x).core = sp.core := rfl
@[simp] theorem Spindle.setK_quad (sp : Spindle) (n : Nat) (x : Byte) : (sp.setK n x).quad = sp.quad := rfl
@[simp] theorem Spindle.setK_slot (sp : Spindle) (n : Nat) (x : Byte) : (sp.setK n x).slot = sp.slot := rfl
@[simp] theorem Spindle.setK_st (sp : Spindle) (n : Nat) (x : Byte) : (sp.setK n x).st = sp.st := rfl
@[simp] theorem Spindle.setK_crank (sp : Spindle) (n : Nat) (x : Byte) : (sp.setK n x).crank = sp.crank := rfl
@[simp] theorem Spindle.setK_age (sp : Spindle) (n : Nat) (x : Byte) : (sp.setK n x).age = sp.age := rfl
@[simp] theorem Spindle.setK_vcount (sp : Spindle) (n : Nat) (x : Byte) : (sp.setK n x).vcount = sp.vcount := rfl
@[simp] theorem Spindle.setK_v (sp : Spindle) (n : Nat) (x : Byte) : (sp.setK n x).v = sp.v := rfl
@[simp] theorem Spindle.setK_vpoison (sp : Spindle) (n : Nat) (x : Byte) : (sp.setK n x).vpoison = sp.vpoison := rfl
@[simp] theorem Spindle.setK_upoison (sp : Spindle) (n : Nat) (x : Byte) : (sp.setK n x).upoison = sp.upoison := rfl
@[simp] theorem Spindle.setK_s (sp : Spindle) (n : Nat) (x : Byte) : (sp.setK n x).s = sp.s := rfl
@[simp] theorem Spindle.setK_p (sp : Spindle) (n : Nat) (x : Byte) : (sp.setK n x).p = sp.p := rfl
@[simp] theorem Spindle.setK_f (sp : Spindle) (n : Nat) (x : Byte) : (sp.setK n x).f = sp.f := rfl
@[simp] theorem Spindle.setK_wpart (sp : Spindle) (n : Nat) (x : Byte) : (sp.setK n x).wpart = sp.wpart := rfl
@[simp] theorem Spindle.setK_warr (sp : Spindle) (n : Nat) (x : Byte) : (sp.setK n x).warr = sp.warr := rfl
@[simp] theorem Spindle.setK_wpark (sp : Spindle) (n : Nat) (x : Byte) : (sp.setK n x).wpark = sp.wpark := rfl
@[simp] theorem Spindle.setK_pm (sp : Spindle) (n : Nat) (x : Byte) : (sp.setK n x).pm = sp.pm := rfl
@[simp] theorem Spindle.setK_gang (sp : Spindle) (n : Nat) (x : Byte) : (sp.setK n x).gang = sp.gang := rfl
@[simp] theorem Spindle.setK_ftz (sp : Spindle) (n : Nat) (x : Byte) : (sp.setK n x).ftz = sp.ftz := rfl
@[simp] theorem Spindle.setK_srseed (sp : Spindle) (n : Nat) (x : Byte) : (sp.setK n x).srseed = sp.srseed := rfl
@[simp] theorem Spindle.setK_txctl (sp : Spindle) (n : Nat) (x : Byte) : (sp.setK n x).txctl = sp.txctl := rfl
@[simp] theorem Spindle.setK_bankconf (sp : Spindle) (n : Nat) (x : Byte) : (sp.setK n x).bankconf = sp.bankconf := rfl
@[simp] theorem Spindle.setK_lanes (sp : Spindle) (n : Nat) (x : Byte) : (sp.setK n x).lanes = sp.lanes := rfl
@[simp] theorem Spindle.setK_uchunk (sp : Spindle) (n : Nat) (x : Byte) : (sp.setK n x).uchunk = sp.uchunk := rfl
@[simp] theorem Spindle.setK_chunks (sp : Spindle) (n : Nat) (x : Byte) : (sp.setK n x).chunks = sp.chunks := rfl
@[simp] theorem Spindle.setK_txchunks (sp : Spindle) (n : Nat) (x : Byte) : (sp.setK n x).txchunks = sp.txchunks := rfl
@[simp] theorem Spindle.setK_entry (sp : Spindle) (n : Nat) (x : Byte) : (sp.setK n x).entry = sp.entry := rfl
@[simp] theorem Spindle.setK_domain (sp : Spindle) (n : Nat) (x : Byte) : (sp.setK n x).domain = sp.domain := rfl
@[simp] theorem Spindle.setK_trapped (sp : Spindle) (n : Nat) (x : Byte) : (sp.setK n x).trapped = sp.trapped := rfl
@[simp] theorem Spindle.setK_aged (sp : Spindle) (n : Nat) (x : Byte) : (sp.setK n x).aged = sp.aged := rfl
@[simp] theorem Spindle.setK_stopped (sp : Spindle) (n : Nat) (x : Byte) : (sp.setK n x).stopped = sp.stopped := rfl
@[simp] theorem Spindle.setK_want (sp : Spindle) (n : Nat) (x : Byte) : (sp.setK n x).want = sp.want := rfl
@[simp] theorem Spindle.setK_wantPc (sp : Spindle) (n : Nat) (x : Byte) : (sp.setK n x).wantPc = sp.wantPc := rfl
@[simp] theorem Spindle.setK_fresh (sp : Spindle) (n : Nat) (x : Byte) : (sp.setK n x).fresh = sp.fresh := rfl
@[simp] theorem Spindle.setK_barred (sp : Spindle) (n : Nat) (x : Byte) : (sp.setK n x).barred = sp.barred := rfl

-- Spindle.setPm

@[simp] theorem Spindle.setPm_team (sp : Spindle) (n i : Nat) (x : Byte) : (sp.setPm n i x).team = sp.team := rfl
@[simp] theorem Spindle.setPm_idx (sp : Spindle) (n i : Nat) (x : Byte) : (sp.setPm n i x).idx = sp.idx := rfl
@[simp] theorem Spindle.setPm_core (sp : Spindle) (n i : Nat) (x : Byte) : (sp.setPm n i x).core = sp.core := rfl
@[simp] theorem Spindle.setPm_quad (sp : Spindle) (n i : Nat) (x : Byte) : (sp.setPm n i x).quad = sp.quad := rfl
@[simp] theorem Spindle.setPm_slot (sp : Spindle) (n i : Nat) (x : Byte) : (sp.setPm n i x).slot = sp.slot := rfl
@[simp] theorem Spindle.setPm_st (sp : Spindle) (n i : Nat) (x : Byte) : (sp.setPm n i x).st = sp.st := rfl
@[simp] theorem Spindle.setPm_crank (sp : Spindle) (n i : Nat) (x : Byte) : (sp.setPm n i x).crank = sp.crank := rfl
@[simp] theorem Spindle.setPm_age (sp : Spindle) (n i : Nat) (x : Byte) : (sp.setPm n i x).age = sp.age := rfl
@[simp] theorem Spindle.setPm_vcount (sp : Spindle) (n i : Nat) (x : Byte) : (sp.setPm n i x).vcount = sp.vcount := rfl
@[simp] theorem Spindle.setPm_v (sp : Spindle) (n i : Nat) (x : Byte) : (sp.setPm n i x).v = sp.v := rfl
@[simp] theorem Spindle.setPm_vpoison (sp : Spindle) (n i : Nat) (x : Byte) : (sp.setPm n i x).vpoison = sp.vpoison := rfl
@[simp] theorem Spindle.setPm_upoison (sp : Spindle) (n i : Nat) (x : Byte) : (sp.setPm n i x).upoison = sp.upoison := rfl
@[simp] theorem Spindle.setPm_s (sp : Spindle) (n i : Nat) (x : Byte) : (sp.setPm n i x).s = sp.s := rfl
@[simp] theorem Spindle.setPm_p (sp : Spindle) (n i : Nat) (x : Byte) : (sp.setPm n i x).p = sp.p := rfl
@[simp] theorem Spindle.setPm_f (sp : Spindle) (n i : Nat) (x : Byte) : (sp.setPm n i x).f = sp.f := rfl
@[simp] theorem Spindle.setPm_wpart (sp : Spindle) (n i : Nat) (x : Byte) : (sp.setPm n i x).wpart = sp.wpart := rfl
@[simp] theorem Spindle.setPm_warr (sp : Spindle) (n i : Nat) (x : Byte) : (sp.setPm n i x).warr = sp.warr := rfl
@[simp] theorem Spindle.setPm_wpark (sp : Spindle) (n i : Nat) (x : Byte) : (sp.setPm n i x).wpark = sp.wpark := rfl
@[simp] theorem Spindle.setPm_k (sp : Spindle) (n i : Nat) (x : Byte) : (sp.setPm n i x).k = sp.k := rfl
@[simp] theorem Spindle.setPm_gang (sp : Spindle) (n i : Nat) (x : Byte) : (sp.setPm n i x).gang = sp.gang := rfl
@[simp] theorem Spindle.setPm_ftz (sp : Spindle) (n i : Nat) (x : Byte) : (sp.setPm n i x).ftz = sp.ftz := rfl
@[simp] theorem Spindle.setPm_srseed (sp : Spindle) (n i : Nat) (x : Byte) : (sp.setPm n i x).srseed = sp.srseed := rfl
@[simp] theorem Spindle.setPm_txctl (sp : Spindle) (n i : Nat) (x : Byte) : (sp.setPm n i x).txctl = sp.txctl := rfl
@[simp] theorem Spindle.setPm_bankconf (sp : Spindle) (n i : Nat) (x : Byte) : (sp.setPm n i x).bankconf = sp.bankconf := rfl
@[simp] theorem Spindle.setPm_lanes (sp : Spindle) (n i : Nat) (x : Byte) : (sp.setPm n i x).lanes = sp.lanes := rfl
@[simp] theorem Spindle.setPm_uchunk (sp : Spindle) (n i : Nat) (x : Byte) : (sp.setPm n i x).uchunk = sp.uchunk := rfl
@[simp] theorem Spindle.setPm_chunks (sp : Spindle) (n i : Nat) (x : Byte) : (sp.setPm n i x).chunks = sp.chunks := rfl
@[simp] theorem Spindle.setPm_txchunks (sp : Spindle) (n i : Nat) (x : Byte) : (sp.setPm n i x).txchunks = sp.txchunks := rfl
@[simp] theorem Spindle.setPm_entry (sp : Spindle) (n i : Nat) (x : Byte) : (sp.setPm n i x).entry = sp.entry := rfl
@[simp] theorem Spindle.setPm_domain (sp : Spindle) (n i : Nat) (x : Byte) : (sp.setPm n i x).domain = sp.domain := rfl
@[simp] theorem Spindle.setPm_trapped (sp : Spindle) (n i : Nat) (x : Byte) : (sp.setPm n i x).trapped = sp.trapped := rfl
@[simp] theorem Spindle.setPm_aged (sp : Spindle) (n i : Nat) (x : Byte) : (sp.setPm n i x).aged = sp.aged := rfl
@[simp] theorem Spindle.setPm_stopped (sp : Spindle) (n i : Nat) (x : Byte) : (sp.setPm n i x).stopped = sp.stopped := rfl
@[simp] theorem Spindle.setPm_want (sp : Spindle) (n i : Nat) (x : Byte) : (sp.setPm n i x).want = sp.want := rfl
@[simp] theorem Spindle.setPm_wantPc (sp : Spindle) (n i : Nat) (x : Byte) : (sp.setPm n i x).wantPc = sp.wantPc := rfl
@[simp] theorem Spindle.setPm_fresh (sp : Spindle) (n i : Nat) (x : Byte) : (sp.setPm n i x).fresh = sp.fresh := rfl
@[simp] theorem Spindle.setPm_barred (sp : Spindle) (n i : Nat) (x : Byte) : (sp.setPm n i x).barred = sp.barred := rfl

-- Spindle.modLane

@[simp] theorem Spindle.modLane_team (sp : Spindle) (l : Nat) (f : Lane → Lane) : (sp.modLane l f).team = sp.team := rfl
@[simp] theorem Spindle.modLane_idx (sp : Spindle) (l : Nat) (f : Lane → Lane) : (sp.modLane l f).idx = sp.idx := rfl
@[simp] theorem Spindle.modLane_core (sp : Spindle) (l : Nat) (f : Lane → Lane) : (sp.modLane l f).core = sp.core := rfl
@[simp] theorem Spindle.modLane_quad (sp : Spindle) (l : Nat) (f : Lane → Lane) : (sp.modLane l f).quad = sp.quad := rfl
@[simp] theorem Spindle.modLane_slot (sp : Spindle) (l : Nat) (f : Lane → Lane) : (sp.modLane l f).slot = sp.slot := rfl
@[simp] theorem Spindle.modLane_st (sp : Spindle) (l : Nat) (f : Lane → Lane) : (sp.modLane l f).st = sp.st := rfl
@[simp] theorem Spindle.modLane_crank (sp : Spindle) (l : Nat) (f : Lane → Lane) : (sp.modLane l f).crank = sp.crank := rfl
@[simp] theorem Spindle.modLane_age (sp : Spindle) (l : Nat) (f : Lane → Lane) : (sp.modLane l f).age = sp.age := rfl
@[simp] theorem Spindle.modLane_vcount (sp : Spindle) (l : Nat) (f : Lane → Lane) : (sp.modLane l f).vcount = sp.vcount := rfl
@[simp] theorem Spindle.modLane_v (sp : Spindle) (l : Nat) (f : Lane → Lane) : (sp.modLane l f).v = sp.v := rfl
@[simp] theorem Spindle.modLane_vpoison (sp : Spindle) (l : Nat) (f : Lane → Lane) : (sp.modLane l f).vpoison = sp.vpoison := rfl
@[simp] theorem Spindle.modLane_upoison (sp : Spindle) (l : Nat) (f : Lane → Lane) : (sp.modLane l f).upoison = sp.upoison := rfl
@[simp] theorem Spindle.modLane_s (sp : Spindle) (l : Nat) (f : Lane → Lane) : (sp.modLane l f).s = sp.s := rfl
@[simp] theorem Spindle.modLane_p (sp : Spindle) (l : Nat) (f : Lane → Lane) : (sp.modLane l f).p = sp.p := rfl
@[simp] theorem Spindle.modLane_f (sp : Spindle) (l : Nat) (f : Lane → Lane) : (sp.modLane l f).f = sp.f := rfl
@[simp] theorem Spindle.modLane_wpart (sp : Spindle) (l : Nat) (f : Lane → Lane) : (sp.modLane l f).wpart = sp.wpart := rfl
@[simp] theorem Spindle.modLane_warr (sp : Spindle) (l : Nat) (f : Lane → Lane) : (sp.modLane l f).warr = sp.warr := rfl
@[simp] theorem Spindle.modLane_wpark (sp : Spindle) (l : Nat) (f : Lane → Lane) : (sp.modLane l f).wpark = sp.wpark := rfl
@[simp] theorem Spindle.modLane_k (sp : Spindle) (l : Nat) (f : Lane → Lane) : (sp.modLane l f).k = sp.k := rfl
@[simp] theorem Spindle.modLane_pm (sp : Spindle) (l : Nat) (f : Lane → Lane) : (sp.modLane l f).pm = sp.pm := rfl
@[simp] theorem Spindle.modLane_gang (sp : Spindle) (l : Nat) (f : Lane → Lane) : (sp.modLane l f).gang = sp.gang := rfl
@[simp] theorem Spindle.modLane_ftz (sp : Spindle) (l : Nat) (f : Lane → Lane) : (sp.modLane l f).ftz = sp.ftz := rfl
@[simp] theorem Spindle.modLane_srseed (sp : Spindle) (l : Nat) (f : Lane → Lane) : (sp.modLane l f).srseed = sp.srseed := rfl
@[simp] theorem Spindle.modLane_txctl (sp : Spindle) (l : Nat) (f : Lane → Lane) : (sp.modLane l f).txctl = sp.txctl := rfl
@[simp] theorem Spindle.modLane_bankconf (sp : Spindle) (l : Nat) (f : Lane → Lane) : (sp.modLane l f).bankconf = sp.bankconf := rfl
@[simp] theorem Spindle.modLane_uchunk (sp : Spindle) (l : Nat) (f : Lane → Lane) : (sp.modLane l f).uchunk = sp.uchunk := rfl
@[simp] theorem Spindle.modLane_chunks (sp : Spindle) (l : Nat) (f : Lane → Lane) : (sp.modLane l f).chunks = sp.chunks := rfl
@[simp] theorem Spindle.modLane_txchunks (sp : Spindle) (l : Nat) (f : Lane → Lane) : (sp.modLane l f).txchunks = sp.txchunks := rfl
@[simp] theorem Spindle.modLane_entry (sp : Spindle) (l : Nat) (f : Lane → Lane) : (sp.modLane l f).entry = sp.entry := rfl
@[simp] theorem Spindle.modLane_domain (sp : Spindle) (l : Nat) (f : Lane → Lane) : (sp.modLane l f).domain = sp.domain := rfl
@[simp] theorem Spindle.modLane_trapped (sp : Spindle) (l : Nat) (f : Lane → Lane) : (sp.modLane l f).trapped = sp.trapped := rfl
@[simp] theorem Spindle.modLane_aged (sp : Spindle) (l : Nat) (f : Lane → Lane) : (sp.modLane l f).aged = sp.aged := rfl
@[simp] theorem Spindle.modLane_stopped (sp : Spindle) (l : Nat) (f : Lane → Lane) : (sp.modLane l f).stopped = sp.stopped := rfl
@[simp] theorem Spindle.modLane_want (sp : Spindle) (l : Nat) (f : Lane → Lane) : (sp.modLane l f).want = sp.want := rfl
@[simp] theorem Spindle.modLane_wantPc (sp : Spindle) (l : Nat) (f : Lane → Lane) : (sp.modLane l f).wantPc = sp.wantPc := rfl
@[simp] theorem Spindle.modLane_fresh (sp : Spindle) (l : Nat) (f : Lane → Lane) : (sp.modLane l f).fresh = sp.fresh := rfl
@[simp] theorem Spindle.modLane_barred (sp : Spindle) (l : Nat) (f : Lane → Lane) : (sp.modLane l f).barred = sp.barred := rfl

-- Spindle.setVD

@[simp] theorem Spindle.setVD_team (sp : Spindle) (w64 : Bool) (r l : Nat) (x : DWord) : (sp.setVD w64 r l x).team = sp.team := by
  cases w64 <;> simp only [Spindle.setVD, if_true, if_false, Bool.false_eq_true, Spindle.setV_team, Spindle.setD_team]
@[simp] theorem Spindle.setVD_idx (sp : Spindle) (w64 : Bool) (r l : Nat) (x : DWord) : (sp.setVD w64 r l x).idx = sp.idx := by
  cases w64 <;> simp only [Spindle.setVD, if_true, if_false, Bool.false_eq_true, Spindle.setV_idx, Spindle.setD_idx]
@[simp] theorem Spindle.setVD_core (sp : Spindle) (w64 : Bool) (r l : Nat) (x : DWord) : (sp.setVD w64 r l x).core = sp.core := by
  cases w64 <;> simp only [Spindle.setVD, if_true, if_false, Bool.false_eq_true, Spindle.setV_core, Spindle.setD_core]
@[simp] theorem Spindle.setVD_quad (sp : Spindle) (w64 : Bool) (r l : Nat) (x : DWord) : (sp.setVD w64 r l x).quad = sp.quad := by
  cases w64 <;> simp only [Spindle.setVD, if_true, if_false, Bool.false_eq_true, Spindle.setV_quad, Spindle.setD_quad]
@[simp] theorem Spindle.setVD_slot (sp : Spindle) (w64 : Bool) (r l : Nat) (x : DWord) : (sp.setVD w64 r l x).slot = sp.slot := by
  cases w64 <;> simp only [Spindle.setVD, if_true, if_false, Bool.false_eq_true, Spindle.setV_slot, Spindle.setD_slot]
@[simp] theorem Spindle.setVD_st (sp : Spindle) (w64 : Bool) (r l : Nat) (x : DWord) : (sp.setVD w64 r l x).st = sp.st := by
  cases w64 <;> simp only [Spindle.setVD, if_true, if_false, Bool.false_eq_true, Spindle.setV_st, Spindle.setD_st]
@[simp] theorem Spindle.setVD_crank (sp : Spindle) (w64 : Bool) (r l : Nat) (x : DWord) : (sp.setVD w64 r l x).crank = sp.crank := by
  cases w64 <;> simp only [Spindle.setVD, if_true, if_false, Bool.false_eq_true, Spindle.setV_crank, Spindle.setD_crank]
@[simp] theorem Spindle.setVD_age (sp : Spindle) (w64 : Bool) (r l : Nat) (x : DWord) : (sp.setVD w64 r l x).age = sp.age := by
  cases w64 <;> simp only [Spindle.setVD, if_true, if_false, Bool.false_eq_true, Spindle.setV_age, Spindle.setD_age]
@[simp] theorem Spindle.setVD_vcount (sp : Spindle) (w64 : Bool) (r l : Nat) (x : DWord) : (sp.setVD w64 r l x).vcount = sp.vcount := by
  cases w64 <;> simp only [Spindle.setVD, if_true, if_false, Bool.false_eq_true, Spindle.setV_vcount, Spindle.setD_vcount]
@[simp] theorem Spindle.setVD_vpoison (sp : Spindle) (w64 : Bool) (r l : Nat) (x : DWord) : (sp.setVD w64 r l x).vpoison = sp.vpoison := by
  cases w64 <;> simp only [Spindle.setVD, if_true, if_false, Bool.false_eq_true, Spindle.setV_vpoison, Spindle.setD_vpoison]
@[simp] theorem Spindle.setVD_s (sp : Spindle) (w64 : Bool) (r l : Nat) (x : DWord) : (sp.setVD w64 r l x).s = sp.s := by
  cases w64 <;> simp only [Spindle.setVD, if_true, if_false, Bool.false_eq_true, Spindle.setV_s, Spindle.setD_s]
@[simp] theorem Spindle.setVD_p (sp : Spindle) (w64 : Bool) (r l : Nat) (x : DWord) : (sp.setVD w64 r l x).p = sp.p := by
  cases w64 <;> simp only [Spindle.setVD, if_true, if_false, Bool.false_eq_true, Spindle.setV_p, Spindle.setD_p]
@[simp] theorem Spindle.setVD_f (sp : Spindle) (w64 : Bool) (r l : Nat) (x : DWord) : (sp.setVD w64 r l x).f = sp.f := by
  cases w64 <;> simp only [Spindle.setVD, if_true, if_false, Bool.false_eq_true, Spindle.setV_f, Spindle.setD_f]
@[simp] theorem Spindle.setVD_wpart (sp : Spindle) (w64 : Bool) (r l : Nat) (x : DWord) : (sp.setVD w64 r l x).wpart = sp.wpart := by
  cases w64 <;> simp only [Spindle.setVD, if_true, if_false, Bool.false_eq_true, Spindle.setV_wpart, Spindle.setD_wpart]
@[simp] theorem Spindle.setVD_warr (sp : Spindle) (w64 : Bool) (r l : Nat) (x : DWord) : (sp.setVD w64 r l x).warr = sp.warr := by
  cases w64 <;> simp only [Spindle.setVD, if_true, if_false, Bool.false_eq_true, Spindle.setV_warr, Spindle.setD_warr]
@[simp] theorem Spindle.setVD_wpark (sp : Spindle) (w64 : Bool) (r l : Nat) (x : DWord) : (sp.setVD w64 r l x).wpark = sp.wpark := by
  cases w64 <;> simp only [Spindle.setVD, if_true, if_false, Bool.false_eq_true, Spindle.setV_wpark, Spindle.setD_wpark]
@[simp] theorem Spindle.setVD_k (sp : Spindle) (w64 : Bool) (r l : Nat) (x : DWord) : (sp.setVD w64 r l x).k = sp.k := by
  cases w64 <;> simp only [Spindle.setVD, if_true, if_false, Bool.false_eq_true, Spindle.setV_k, Spindle.setD_k]
@[simp] theorem Spindle.setVD_pm (sp : Spindle) (w64 : Bool) (r l : Nat) (x : DWord) : (sp.setVD w64 r l x).pm = sp.pm := by
  cases w64 <;> simp only [Spindle.setVD, if_true, if_false, Bool.false_eq_true, Spindle.setV_pm, Spindle.setD_pm]
@[simp] theorem Spindle.setVD_gang (sp : Spindle) (w64 : Bool) (r l : Nat) (x : DWord) : (sp.setVD w64 r l x).gang = sp.gang := by
  cases w64 <;> simp only [Spindle.setVD, if_true, if_false, Bool.false_eq_true, Spindle.setV_gang, Spindle.setD_gang]
@[simp] theorem Spindle.setVD_ftz (sp : Spindle) (w64 : Bool) (r l : Nat) (x : DWord) : (sp.setVD w64 r l x).ftz = sp.ftz := by
  cases w64 <;> simp only [Spindle.setVD, if_true, if_false, Bool.false_eq_true, Spindle.setV_ftz, Spindle.setD_ftz]
@[simp] theorem Spindle.setVD_srseed (sp : Spindle) (w64 : Bool) (r l : Nat) (x : DWord) : (sp.setVD w64 r l x).srseed = sp.srseed := by
  cases w64 <;> simp only [Spindle.setVD, if_true, if_false, Bool.false_eq_true, Spindle.setV_srseed, Spindle.setD_srseed]
@[simp] theorem Spindle.setVD_txctl (sp : Spindle) (w64 : Bool) (r l : Nat) (x : DWord) : (sp.setVD w64 r l x).txctl = sp.txctl := by
  cases w64 <;> simp only [Spindle.setVD, if_true, if_false, Bool.false_eq_true, Spindle.setV_txctl, Spindle.setD_txctl]
@[simp] theorem Spindle.setVD_bankconf (sp : Spindle) (w64 : Bool) (r l : Nat) (x : DWord) : (sp.setVD w64 r l x).bankconf = sp.bankconf := by
  cases w64 <;> simp only [Spindle.setVD, if_true, if_false, Bool.false_eq_true, Spindle.setV_bankconf, Spindle.setD_bankconf]
@[simp] theorem Spindle.setVD_lanes (sp : Spindle) (w64 : Bool) (r l : Nat) (x : DWord) : (sp.setVD w64 r l x).lanes = sp.lanes := by
  cases w64 <;> simp only [Spindle.setVD, if_true, if_false, Bool.false_eq_true, Spindle.setV_lanes, Spindle.setD_lanes]
@[simp] theorem Spindle.setVD_uchunk (sp : Spindle) (w64 : Bool) (r l : Nat) (x : DWord) : (sp.setVD w64 r l x).uchunk = sp.uchunk := by
  cases w64 <;> simp only [Spindle.setVD, if_true, if_false, Bool.false_eq_true, Spindle.setV_uchunk, Spindle.setD_uchunk]
@[simp] theorem Spindle.setVD_chunks (sp : Spindle) (w64 : Bool) (r l : Nat) (x : DWord) : (sp.setVD w64 r l x).chunks = sp.chunks := by
  cases w64 <;> simp only [Spindle.setVD, if_true, if_false, Bool.false_eq_true, Spindle.setV_chunks, Spindle.setD_chunks]
@[simp] theorem Spindle.setVD_txchunks (sp : Spindle) (w64 : Bool) (r l : Nat) (x : DWord) : (sp.setVD w64 r l x).txchunks = sp.txchunks := by
  cases w64 <;> simp only [Spindle.setVD, if_true, if_false, Bool.false_eq_true, Spindle.setV_txchunks, Spindle.setD_txchunks]
@[simp] theorem Spindle.setVD_entry (sp : Spindle) (w64 : Bool) (r l : Nat) (x : DWord) : (sp.setVD w64 r l x).entry = sp.entry := by
  cases w64 <;> simp only [Spindle.setVD, if_true, if_false, Bool.false_eq_true, Spindle.setV_entry, Spindle.setD_entry]
@[simp] theorem Spindle.setVD_domain (sp : Spindle) (w64 : Bool) (r l : Nat) (x : DWord) : (sp.setVD w64 r l x).domain = sp.domain := by
  cases w64 <;> simp only [Spindle.setVD, if_true, if_false, Bool.false_eq_true, Spindle.setV_domain, Spindle.setD_domain]
@[simp] theorem Spindle.setVD_trapped (sp : Spindle) (w64 : Bool) (r l : Nat) (x : DWord) : (sp.setVD w64 r l x).trapped = sp.trapped := by
  cases w64 <;> simp only [Spindle.setVD, if_true, if_false, Bool.false_eq_true, Spindle.setV_trapped, Spindle.setD_trapped]
@[simp] theorem Spindle.setVD_aged (sp : Spindle) (w64 : Bool) (r l : Nat) (x : DWord) : (sp.setVD w64 r l x).aged = sp.aged := by
  cases w64 <;> simp only [Spindle.setVD, if_true, if_false, Bool.false_eq_true, Spindle.setV_aged, Spindle.setD_aged]
@[simp] theorem Spindle.setVD_stopped (sp : Spindle) (w64 : Bool) (r l : Nat) (x : DWord) : (sp.setVD w64 r l x).stopped = sp.stopped := by
  cases w64 <;> simp only [Spindle.setVD, if_true, if_false, Bool.false_eq_true, Spindle.setV_stopped, Spindle.setD_stopped]
@[simp] theorem Spindle.setVD_want (sp : Spindle) (w64 : Bool) (r l : Nat) (x : DWord) : (sp.setVD w64 r l x).want = sp.want := by
  cases w64 <;> simp only [Spindle.setVD, if_true, if_false, Bool.false_eq_true, Spindle.setV_want, Spindle.setD_want]
@[simp] theorem Spindle.setVD_barred (sp : Spindle) (w64 : Bool) (r l : Nat) (x : DWord) : (sp.setVD w64 r l x).barred = sp.barred := by
  cases w64 <;> simp only [Spindle.setVD, if_true, if_false, Bool.false_eq_true, Spindle.setV_barred, Spindle.setD_barred]

-- Spindle.setPred

@[simp] theorem Spindle.setPred_team (sp : Spindle) (q : Nat) (m b : LaneMask) : (sp.setPred q m b).team = sp.team := by
  unfold Spindle.setPred; split <;> rfl
@[simp] theorem Spindle.setPred_idx (sp : Spindle) (q : Nat) (m b : LaneMask) : (sp.setPred q m b).idx = sp.idx := by
  unfold Spindle.setPred; split <;> rfl
@[simp] theorem Spindle.setPred_core (sp : Spindle) (q : Nat) (m b : LaneMask) : (sp.setPred q m b).core = sp.core := by
  unfold Spindle.setPred; split <;> rfl
@[simp] theorem Spindle.setPred_quad (sp : Spindle) (q : Nat) (m b : LaneMask) : (sp.setPred q m b).quad = sp.quad := by
  unfold Spindle.setPred; split <;> rfl
@[simp] theorem Spindle.setPred_slot (sp : Spindle) (q : Nat) (m b : LaneMask) : (sp.setPred q m b).slot = sp.slot := by
  unfold Spindle.setPred; split <;> rfl
@[simp] theorem Spindle.setPred_st (sp : Spindle) (q : Nat) (m b : LaneMask) : (sp.setPred q m b).st = sp.st := by
  unfold Spindle.setPred; split <;> rfl
@[simp] theorem Spindle.setPred_crank (sp : Spindle) (q : Nat) (m b : LaneMask) : (sp.setPred q m b).crank = sp.crank := by
  unfold Spindle.setPred; split <;> rfl
@[simp] theorem Spindle.setPred_age (sp : Spindle) (q : Nat) (m b : LaneMask) : (sp.setPred q m b).age = sp.age := by
  unfold Spindle.setPred; split <;> rfl
@[simp] theorem Spindle.setPred_vcount (sp : Spindle) (q : Nat) (m b : LaneMask) : (sp.setPred q m b).vcount = sp.vcount := by
  unfold Spindle.setPred; split <;> rfl
@[simp] theorem Spindle.setPred_v (sp : Spindle) (q : Nat) (m b : LaneMask) : (sp.setPred q m b).v = sp.v := by
  unfold Spindle.setPred; split <;> rfl
@[simp] theorem Spindle.setPred_vpoison (sp : Spindle) (q : Nat) (m b : LaneMask) : (sp.setPred q m b).vpoison = sp.vpoison := by
  unfold Spindle.setPred; split <;> rfl
@[simp] theorem Spindle.setPred_s (sp : Spindle) (q : Nat) (m b : LaneMask) : (sp.setPred q m b).s = sp.s := by
  unfold Spindle.setPred; split <;> rfl
@[simp] theorem Spindle.setPred_f (sp : Spindle) (q : Nat) (m b : LaneMask) : (sp.setPred q m b).f = sp.f := by
  unfold Spindle.setPred; split <;> rfl
@[simp] theorem Spindle.setPred_wpart (sp : Spindle) (q : Nat) (m b : LaneMask) : (sp.setPred q m b).wpart = sp.wpart := by
  unfold Spindle.setPred; split <;> rfl
@[simp] theorem Spindle.setPred_warr (sp : Spindle) (q : Nat) (m b : LaneMask) : (sp.setPred q m b).warr = sp.warr := by
  unfold Spindle.setPred; split <;> rfl
@[simp] theorem Spindle.setPred_wpark (sp : Spindle) (q : Nat) (m b : LaneMask) : (sp.setPred q m b).wpark = sp.wpark := by
  unfold Spindle.setPred; split <;> rfl
@[simp] theorem Spindle.setPred_k (sp : Spindle) (q : Nat) (m b : LaneMask) : (sp.setPred q m b).k = sp.k := by
  unfold Spindle.setPred; split <;> rfl
@[simp] theorem Spindle.setPred_pm (sp : Spindle) (q : Nat) (m b : LaneMask) : (sp.setPred q m b).pm = sp.pm := by
  unfold Spindle.setPred; split <;> rfl
@[simp] theorem Spindle.setPred_gang (sp : Spindle) (q : Nat) (m b : LaneMask) : (sp.setPred q m b).gang = sp.gang := by
  unfold Spindle.setPred; split <;> rfl
@[simp] theorem Spindle.setPred_ftz (sp : Spindle) (q : Nat) (m b : LaneMask) : (sp.setPred q m b).ftz = sp.ftz := by
  unfold Spindle.setPred; split <;> rfl
@[simp] theorem Spindle.setPred_srseed (sp : Spindle) (q : Nat) (m b : LaneMask) : (sp.setPred q m b).srseed = sp.srseed := by
  unfold Spindle.setPred; split <;> rfl
@[simp] theorem Spindle.setPred_txctl (sp : Spindle) (q : Nat) (m b : LaneMask) : (sp.setPred q m b).txctl = sp.txctl := by
  unfold Spindle.setPred; split <;> rfl
@[simp] theorem Spindle.setPred_bankconf (sp : Spindle) (q : Nat) (m b : LaneMask) : (sp.setPred q m b).bankconf = sp.bankconf := by
  unfold Spindle.setPred; split <;> rfl
@[simp] theorem Spindle.setPred_lanes (sp : Spindle) (q : Nat) (m b : LaneMask) : (sp.setPred q m b).lanes = sp.lanes := by
  unfold Spindle.setPred; split <;> rfl
@[simp] theorem Spindle.setPred_uchunk (sp : Spindle) (q : Nat) (m b : LaneMask) : (sp.setPred q m b).uchunk = sp.uchunk := by
  unfold Spindle.setPred; split <;> rfl
@[simp] theorem Spindle.setPred_chunks (sp : Spindle) (q : Nat) (m b : LaneMask) : (sp.setPred q m b).chunks = sp.chunks := by
  unfold Spindle.setPred; split <;> rfl
@[simp] theorem Spindle.setPred_txchunks (sp : Spindle) (q : Nat) (m b : LaneMask) : (sp.setPred q m b).txchunks = sp.txchunks := by
  unfold Spindle.setPred; split <;> rfl
@[simp] theorem Spindle.setPred_entry (sp : Spindle) (q : Nat) (m b : LaneMask) : (sp.setPred q m b).entry = sp.entry := by
  unfold Spindle.setPred; split <;> rfl
@[simp] theorem Spindle.setPred_domain (sp : Spindle) (q : Nat) (m b : LaneMask) : (sp.setPred q m b).domain = sp.domain := by
  unfold Spindle.setPred; split <;> rfl
@[simp] theorem Spindle.setPred_trapped (sp : Spindle) (q : Nat) (m b : LaneMask) : (sp.setPred q m b).trapped = sp.trapped := by
  unfold Spindle.setPred; split <;> rfl
@[simp] theorem Spindle.setPred_aged (sp : Spindle) (q : Nat) (m b : LaneMask) : (sp.setPred q m b).aged = sp.aged := by
  unfold Spindle.setPred; split <;> rfl
@[simp] theorem Spindle.setPred_stopped (sp : Spindle) (q : Nat) (m b : LaneMask) : (sp.setPred q m b).stopped = sp.stopped := by
  unfold Spindle.setPred; split <;> rfl
@[simp] theorem Spindle.setPred_want (sp : Spindle) (q : Nat) (m b : LaneMask) : (sp.setPred q m b).want = sp.want := by
  unfold Spindle.setPred; split <;> rfl
@[simp] theorem Spindle.setPred_barred (sp : Spindle) (q : Nat) (m b : LaneMask) : (sp.setPred q m b).barred = sp.barred := by
  unfold Spindle.setPred; split <;> rfl

-- Places

/-- A spindle reads as its update says, every other spindle as before. -/
theorem State.spindle_modSp (s : State) (i j : Nat) (f : Spindle → Spindle) (h : i < s.spindles.length) :
    (s.modSp i f).spindle j = if j = i then f (s.spindle i) else s.spindle j := by
  unfold State.modSp State.spindle
  simp only [List.getD_eq_getElem?_getD, List.getElem?_modify]
  by_cases e : j = i
  · subst e
    simp [List.getElem?_eq_getElem h]
  · rw [if_neg e]
    have : ¬ i = j := fun q => e q.symm
    simp [this]

theorem State.spindle_modSp_same (s : State) (i : Nat) (f : Spindle → Spindle) (h : i < s.spindles.length) :
    (s.modSp i f).spindle i = f (s.spindle i) := by
  rw [State.spindle_modSp s i i f h, if_pos rfl]

theorem State.spindle_modSp_other (s : State) (i j : Nat) (f : Spindle → Spindle) (h : j ≠ i) : (s.modSp i f).spindle j = s.spindle j := by
  unfold State.modSp State.spindle
  simp only [List.getD_eq_getElem?_getD, List.getElem?_modify]
  have : ¬ i = j := fun q => h q.symm
  simp [this]

@[simp] theorem State.length_modSp (s : State) (i : Nat) (f : Spindle → Spindle) : (s.modSp i f).spindles.length = s.spindles.length := by
  simp [State.modSp]

@[simp] theorem State.length_modTeam (s : State) (t : Nat) (f : Team → Team) : (s.modTeam t f).teams.length = s.teams.length := by
  simp [State.modTeam]

/-- A team reads as its update says, every other team as before. -/
theorem State.team_modTeam (s : State) (t u : Nat) (f : Team → Team) (h : t < s.teams.length) :
    (s.modTeam t f).team u = if u = t then f (s.team t) else s.team u := by
  unfold State.modTeam State.team
  simp only [List.getD_eq_getElem?_getD, List.getElem?_modify]
  by_cases e : u = t
  · subst e
    simp [List.getElem?_eq_getElem h]
  · rw [if_neg e]
    have : ¬ t = u := fun q => e q.symm
    simp [this]

/-- A partition reads as its update says, every other partition as before. -/
theorem State.part_modPart (s : State) (t u : Nat) (f : Partition → Partition) (h : t < s.parts.length) :
    (s.modPart t f).part u = if u = t then f (s.part t) else s.part u := by
  unfold State.modPart State.part
  simp only [List.getD_eq_getElem?_getD, List.getElem?_modify]
  by_cases e : u = t
  · subst e
    simp [List.getElem?_eq_getElem h]
  · rw [if_neg e]
    have : ¬ t = u := fun q => e q.symm
    simp [this]

/-- A launch reads as its update says, every other launch as before. -/
theorem State.launch_modLaunch (s : State) (t u : Nat) (f : Launch → Launch) (h : t < s.launches.length) :
    (s.modLaunch t f).launch u = if u = t then f (s.launch t) else s.launch u := by
  unfold State.modLaunch State.launch
  simp only [List.getD_eq_getElem?_getD, List.getElem?_modify]
  by_cases e : u = t
  · subst e
    simp [List.getElem?_eq_getElem h]
  · rw [if_neg e]
    have : ¬ t = u := fun q => e q.symm
    simp [this]

/-- A lane reads as its update says, every other lane as before. -/
theorem Spindle.lane_modLane (sp : Spindle) (l k : Nat) (f : Lane → Lane) (h : l < sp.lanes.length) :
    (sp.modLane l f).lane k = if k = l then f (sp.lane l) else sp.lane k := by
  unfold Spindle.modLane Spindle.lane
  simp only [List.getD_eq_getElem?_getD, List.getElem?_modify]
  by_cases e : k = l
  · subst e
    simp [List.getElem?_eq_getElem h]
  · rw [if_neg e]
    have : ¬ l = k := fun q => e q.symm
    simp [this]

@[simp] theorem Spindle.length_modLane (sp : Spindle) (l : Nat) (f : Lane → Lane) : (sp.modLane l f).lanes.length = sp.lanes.length := by
  simp [Spindle.modLane]

/-- Two updates of one spindle are one. -/
theorem State.modSp_modSp (s : State) (i : Nat) (f g : Spindle → Spindle) : (s.modSp i f).modSp i g = s.modSp i (fun sp => g (f sp)) := by
  have h : (s.spindles.modify i f).modify i g = s.spindles.modify i (fun sp => g (f sp)) := by
    apply List.ext_getElem?
    intro j
    simp only [List.getElem?_modify]
    by_cases e : i = j
    · simp [e, Option.map_map, Function.comp_def]
    · simp [e]
  show { s with spindles := (s.spindles.modify i f).modify i g } = { s with spindles := s.spindles.modify i (fun sp => g (f sp)) }
  rw [h]

theorem State.modSp_id (s : State) (i : Nat) : s.modSp i (fun sp => sp) = s := by
  unfold State.modSp
  have : s.spindles.modify i (fun sp => sp) = s.spindles := by
    apply List.ext_getElem?
    intro j
    simp [List.getElem?_modify]
  rw [this]

/-- An update of a spindle depends on its function's value there alone. -/
theorem State.modSp_congr (s : State) (i : Nat) (f g : Spindle → Spindle) (h : f (s.spindle i) = g (s.spindle i)) : s.modSp i f = s.modSp i g := by
  unfold State.modSp
  have : s.spindles.modify i f = s.spindles.modify i g := by
    apply List.ext_getElem?
    intro j
    simp only [List.getElem?_modify]
    by_cases e : i = j
    · subst e
      cases hs : s.spindles[i]? with
      | none => rfl
      | some x =>
        have e : s.spindle i = x := by simp [State.spindle, List.getD_eq_getElem?_getD, hs]
        rw [e] at h
        simp [h]
    · simp [e]
  rw [this]

/-- A change of the lanes of a mask is one change of the spindle. -/
theorem State.modLanes_eq (s : State) (i : Nat) (m : LaneMask) (f : Nat → Lane → Lane) :
    s.modLanes i m f = s.modSp i (fun sp => (lanesOf m).foldl (fun sp l => sp.modLane l (f l)) sp) := by
  unfold State.modLanes
  generalize lanesOf m = ls
  induction ls generalizing s with
  | nil => exact (s.modSp_id i).symm
  | cons l ls ih =>
    rw [List.foldl_cons, ih]
    unfold State.modLane
    rw [State.modSp_modSp]
    rfl

/-- The lanes after a fold over distinct lanes. -/
theorem Spindle.lane_foldModLane (ls : List Nat) (f : Nat → Lane → Lane) (sp : Spindle) (k : Nat) (hn : ls.Nodup)
    (hl : ∀ l ∈ ls, l < sp.lanes.length) :
    (ls.foldl (fun sp l => sp.modLane l (f l)) sp).lane k = if k ∈ ls then f k (sp.lane k) else sp.lane k := by
  induction ls generalizing sp with
  | nil => simp
  | cons l ls ih =>
    obtain ⟨h1, h2⟩ := List.nodup_cons.1 hn
    rw [List.foldl_cons, ih _ h2 (fun x hx => by rw [Spindle.length_modLane]; exact hl x (List.mem_cons_of_mem _ hx)),
      Spindle.lane_modLane _ _ _ _ (hl l (List.mem_cons_self ..))]
    by_cases e : k = l
    · subst e
      simp [h1]
    · simp [e]

theorem Spindle.foldModLane_eq (ls : List Nat) (f : Nat → Lane → Lane) (sp : Spindle) :
    ls.foldl (fun sp l => sp.modLane l (f l)) sp = { sp with lanes := (ls.foldl (fun sp l => sp.modLane l (f l)) sp).lanes } := by
  induction ls generalizing sp with
  | nil => rfl
  | cons l ls ih => rw [List.foldl_cons, ih]; rfl

theorem Spindle.length_foldModLane (ls : List Nat) (f : Nat → Lane → Lane) (sp : Spindle) :
    (ls.foldl (fun sp l => sp.modLane l (f l)) sp).lanes.length = sp.lanes.length := by
  induction ls generalizing sp with
  | nil => rfl
  | cons l ls ih => rw [List.foldl_cons, ih, Spindle.length_modLane]

-- Registers

/-- A v register reads as it was written last; every other register and lane reads as before. -/
theorem Spindle.getV_setV (sp : Spindle) (r l q k : Nat) (x : Word) (hl : l < 32) (hk : k < 32) :
    (sp.setV r l x).getV q k = if q = r ∧ k = l then x else sp.getV q k := by
  unfold Spindle.getV Spindle.setV
  rw [cellGet_set]
  have : (32 * q + k = 32 * r + l) ↔ (q = r ∧ k = l) := by omega
  simp only [this]

theorem Spindle.getS_setS (sp : Spindle) (r q : Nat) (x : Word) : (sp.setS r x).getS q = if q = r then x else sp.getS q := by
  unfold Spindle.getS Spindle.setS
  exact cellGet_set ..

theorem Spindle.flag_setFlag (sp : Spindle) (n m : Nat) (x : BitVec 6) : (sp.setFlag n x).flag m = if m = n then x else sp.flag m := by
  unfold Spindle.flag Spindle.setFlag
  exact cellGet_set ..

theorem Spindle.getK_setK (sp : Spindle) (n m : Nat) (x : Byte) : (sp.setK n x).getK m = if m = n then x else sp.getK m := by
  unfold Spindle.getK Spindle.setK
  exact cellGet_set ..

/-- pt reads true in every lane, and a write of it is discarded (01 R15). -/
@[simp] theorem Spindle.pred_pt (sp : Spindle) : sp.pred 7 = BitVec.allOnes 32 := rfl
@[simp] theorem Spindle.setPred_pt (sp : Spindle) (m b : LaneMask) : sp.setPred 7 m b = sp := rfl

/-- A predicate reads as written in the lanes of the mask, and as before elsewhere. -/
theorem Spindle.pred_setPred (sp : Spindle) (q r : Nat) (m b : LaneMask) (h : q ≠ 7) :
    (sp.setPred q m b).pred r = if r = q then (sp.pred q &&& ~~~m) ||| (b &&& m) else sp.pred r := by
  unfold Spindle.setPred Spindle.pred
  rw [if_neg h, if_neg h]
  by_cases e : r = q
  · subst e
    rw [if_pos rfl, if_neg h, cellGet_set_same]
  · rw [if_neg e]
    by_cases e7 : r = 7
    · rw [if_pos e7, if_pos e7]
    · rw [if_neg e7, if_neg e7, cellGet_set_other _ _ e]

end Sys2Proof.Machine
end

