-- ==== Sys2Proof/Laws/Issue.lean ====
section
/-! SUPPORT. The laws of issue: what `issue`, `alu`, `uniform` and `aluA` answer for a word that no check stops, and what a
word that no lane executes does. -/

namespace Sys2Proof.Machine

open Sys2Proof

-- The fragment moves on

theorem advance_eq (s : State) (n : Nat) :
    s.advance n = s.modSp s.cur.sp (fun sp => { sp with
      lanes := ((lanesOf s.cur.lanes).foldl (fun sp l => sp.modLane l (fun y => { y with pc := s.cur.pc + BitVec.ofNat 64 (4 * n), stamp := s.clock.cycle })) sp).lanes }) := by
  unfold State.advance
  rw [State.modLanes_eq]
  apply State.modSp_congr
  exact Spindle.foldModLane_eq _ (fun _ y => { y with pc := s.cur.pc + BitVec.ofNat 64 (4 * n), stamp := s.clock.cycle }) _

/-- The lanes of the issuing spindle after the fragment has moved on by n words. -/
def movedLanes (s : State) (n : Nat) : List Lane :=
  ((lanesOf s.cur.lanes).foldl (fun sp l => sp.modLane l (fun y => { y with pc := s.cur.pc + BitVec.ofNat 64 (4 * n), stamp := s.clock.cycle }))
    (s.spindle s.cur.sp)).lanes

theorem advance_modSp (s : State) (n : Nat) : s.advance n = s.modSp s.cur.sp (fun sp => { sp with lanes := movedLanes s n }) := by
  rw [advance_eq]
  exact State.modSp_congr _ _ _ _ rfl

@[simp] theorem advance_cur (s : State) (n : Nat) : (s.advance n).cur = s.cur := by rw [advance_modSp]; rfl
@[simp] theorem advance_mem (s : State) (n : Nat) : (s.advance n).mem = s.mem := by rw [advance_modSp]; rfl
@[simp] theorem advance_teams (s : State) (n : Nat) : (s.advance n).teams = s.teams := by rw [advance_modSp]; rfl
@[simp] theorem advance_parts (s : State) (n : Nat) : (s.advance n).parts = s.parts := by rw [advance_modSp]; rfl
@[simp] theorem advance_clock (s : State) (n : Nat) : (s.advance n).clock = s.clock := by rw [advance_modSp]; rfl
@[simp] theorem advance_length (s : State) (n : Nat) : (s.advance n).spindles.length = s.spindles.length := by
  rw [advance_modSp, State.length_modSp]

theorem advance_spindle (s : State) (n : Nat) (h : s.cur.sp < s.spindles.length) :
    (s.advance n).spindle s.cur.sp = { s.spindle s.cur.sp with lanes := movedLanes s n } := by
  rw [advance_modSp, State.spindle_modSp_same _ _ _ h]

theorem movedLanes_length (s : State) (n : Nat) : (movedLanes s n).length = (s.spindle s.cur.sp).lanes.length := by
  unfold movedLanes
  exact Spindle.length_foldModLane _ (fun _ y => { y with pc := s.cur.pc + BitVec.ofNat 64 (4 * n), stamp := s.clock.cycle }) _

/-- The fragment's lanes stand at the next word; the others as before (03 R68). -/
theorem movedLanes_get (s : State) (n l : Nat) (hl : l < 32) (h32 : (s.spindle s.cur.sp).lanes.length = 32) :
    (movedLanes s n).getD l Lane.blank =
      if s.cur.lanes.getLsbD l then { s.lane s.cur.sp l with pc := s.cur.pc + BitVec.ofNat 64 (4 * n), stamp := s.clock.cycle }
      else s.lane s.cur.sp l := by
  have h := Spindle.lane_foldModLane (lanesOf s.cur.lanes) (fun _ y => { y with pc := s.cur.pc + BitVec.ofNat 64 (4 * n), stamp := s.clock.cycle })
    (s.spindle s.cur.sp) l (lanesOf_nodup _) (fun k hk => by rw [h32]; exact ((mem_lanesOf _ _).1 hk).1)
  have e : l ∈ lanesOf s.cur.lanes ↔ s.cur.lanes.getLsbD l = true := by rw [mem_lanesOf]; simp [hl]
  simp only [e] at h
  exact h

theorem advance_lane (s : State) (n l : Nat) (hp : s.cur.sp < s.spindles.length) (hl : l < 32) (h32 : (s.spindle s.cur.sp).lanes.length = 32) :
    (s.advance n).lane s.cur.sp l =
      if s.cur.lanes.getLsbD l then { s.lane s.cur.sp l with pc := s.cur.pc + BitVec.ofNat 64 (4 * n), stamp := s.clock.cycle }
      else s.lane s.cur.sp l := by
  unfold State.lane at *
  rw [advance_spindle s n hp]
  exact movedLanes_get s n l hl h32

/-- The executing lanes are lanes of the fragment. -/
theorem executing_sub (s : State) (i : Instr) {l : Nat} (h : (s.executing i).getLsbD l = true) : s.cur.lanes.getLsbD l = true := by
  unfold State.executing State.execLanes at h
  rw [BitVec.getLsbD_and, Bool.and_eq_true] at h
  exact h.1

-- The checks that stop nothing

theorem maskBy_false (f : Nat → Bool) (h : ∀ l < 32, f l = false) : maskBy f = 0#32 := by
  apply BitVec.eq_of_getLsbD_eq
  intro k hk
  rw [getLsbD_maskBy _ _ hk, h k hk]
  simp

theorem and_maskBy_false (x : LaneMask) (f : Nat → Bool) (h : ∀ l < 32, x.getLsbD l = true → f l = false) : x &&& maskBy f = 0#32 := by
  apply BitVec.eq_of_getLsbD_eq
  intro k hk
  rw [BitVec.getLsbD_and, getLsbD_maskBy _ _ hk]
  cases hx : x.getLsbD k
  · simp
  · rw [h k hk hx]; simp

/-- The word's own effect decides what its issue answers, when no check stops a lane. -/
theorem issueExec_of_issues {i : Instr} {s : State} (h : Issues i s) (n : Nat) (eff : LaneMask → State → Eff) :
    issueExec i (s.executing i) s (s.advance n) eff =
      finishIssue i (s.executing i) (s.executing i) s (s.advance n) (eff (s.executing i) (s.advance n)) := by
  have hx : s.executing i ≠ 0#32 := h.runs
  have hxb : (s.executing i == 0#32) = false := by simpa using hx
  have hlane : ∀ l < 32, (s.executing i).getLsbD l = true → ((s.advance n).spindle s.cur.sp).lane l =
      { s.lane s.cur.sp l with pc := s.cur.pc + BitVec.ofNat 64 (4 * n), stamp := s.clock.cycle } := by
    intro l hl he
    have := advance_lane s n l h.place hl h.lanes
    rw [if_pos (executing_sub s i he)] at this
    exact this
  have hlow : (if needsPriv i then s.executing i &&& maskBy (fun l => !(((s.advance n).spindle s.cur.sp).lane l).priv) else 0#32) = 0#32 := by
    split
    · rename_i hn
      apply and_maskBy_false
      intro l hl he
      rw [hlane l hl he]
      simpa using h.mode hn l hl he
    · rfl
  have hsp := advance_spindle s n h.place
  have hbad : s.executing i &&& maskBy (fun l => (txForbidden i && (((s.advance n).spindle s.cur.sp).lane l).tx) ||
      laneValueBad i ((s.advance n).spindle s.cur.sp) l) = 0#32 := by
    apply and_maskBy_false
    intro l hl he
    have hv : laneValueBad i ((s.advance n).spindle s.cur.sp) l = false := by
      rw [hsp]
      exact h.values l hl he
    rw [hv, hlane l hl he, Bool.or_false]
    cases hn : txForbidden i
    · rfl
    · exact h.transaction hn l hl he
  have hov : overVcount i ((s.advance n).spindle s.cur.sp).vcount = false := by rw [hsp]; exact h.registers
  have hha : (handlerForbidden i && ((s.advance n).spindle s.cur.sp).inHandler) = false := by
    rw [hsp]
    cases hf : handlerForbidden i
    · rfl
    · exact h.handler hf
  have hcl : poisonedLanes ((s.advance n).spindle s.cur.sp) i (s.executing i) = 0#32 := by
    rw [hsp]
    exact h.clean
  have hand : ∀ m : LaneMask, m &&& ~~~0#32 = m := fun m => by
    have e : (~~~0#32 : LaneMask) = BitVec.allOnes 32 := rfl
    rw [e, BitVec.and_allOnes]
  have hb0 : ((0#32 : LaneMask) == 0#32) = true := rfl
  unfold issueExec
  simp only [advance_cur, hlow, hbad, hb0, if_true, hand, hxb, hov, hha, Bool.or_self, Bool.false_eq_true, if_false, hcl]

theorem and_maskBy_true (x : LaneMask) (f : Nat → Bool) (h : ∀ l < 32, x.getLsbD l = true → f l = true) : x &&& maskBy f = x := by
  apply BitVec.eq_of_getLsbD_eq
  intro k hk
  rw [BitVec.getLsbD_and, getLsbD_maskBy _ _ hk]
  cases hx : x.getLsbD k
  · simp
  · rw [h k hk hx]; simp

theorem issue_of_issues {i : Instr} {s : State} (h : Issues i s) (n : Nat) (eff : LaneMask → State → Eff) :
    issue i (pfx i) n s eff = .next (issueExec i (s.executing i) s (s.advance n) eff) := by
  unfold issue
  have hx : (s.execLanes (pfx i) == 0#32) = false := by simpa using h.runs
  simp only [hx, Bool.false_eq_true, if_false, State.executing]

/-- A word that no lane executes only moves its fragment on (00 R11). -/
theorem issue_idle {s : State} (i : Instr) (p : Pfx) (n : Nat) (eff : LaneMask → State → Eff) (h : s.execLanes p = 0#32) :
    issue i p n s eff = .next (s.advance n) := by
  unfold issue
  simp [h]

/-- A word whose effect is done and leaves its lanes eligible. -/
theorem settle_done {i : Instr} {x : LaneMask} {t : State}
    (h : ∀ l < 32, x.getLsbD l = true → ((t.spindle t.cur.sp).lane l).st = .eligible) (hp : t.cur.sp < t.spindles.length) :
    settleIssue i x t = if isFlagA i then t else t.modSp t.cur.sp (fun sp => clearRegPoison sp (writtenRegs i) x) := by
  have hcl : ∀ (sp : Spindle) (rs : List Nat) (m : LaneMask), (clearRegPoison sp rs m).lanes = sp.lanes := by
    intro sp rs m
    unfold clearRegPoison
    split <;> rfl
  have key : ∀ u : State, (∀ l < 32, x.getLsbD l = true → ((u.spindle u.cur.sp).lane l).st = .eligible) →
      ((lanesOf x).all (fun l => ((u.spindle u.cur.sp).lane l).st.isEligible)) = true := by
    intro u hu
    rw [List.all_eq_true]
    intro l hl
    obtain ⟨h1, h2⟩ := (mem_lanesOf x l).1 hl
    rw [hu l h1 h2]
    rfl
  have hw : t.modSp t.cur.sp (fun sp => clearRegPoison sp (writtenRegs i) (x &&& maskBy (fun l => (sp.lane l).st.wrote))) =
      t.modSp t.cur.sp (fun sp => clearRegPoison sp (writtenRegs i) x) := by
    apply State.modSp_congr
    rw [and_maskBy_true _ _ (fun l hl hx => by rw [h l hl hx]; rfl)]
  unfold settleIssue
  cases hA : isFlagA i
  · simp only [Bool.false_eq_true, if_false]
    rw [hw, if_pos (key _ ?_)]
    intro l hl hx
    rw [State.modSp_cur, State.spindle_modSp_same _ _ _ hp]
    unfold Spindle.lane
    rw [hcl]
    exact h l hl hx
  · simp only [if_true]
    rw [if_pos (key _ h)]

end Sys2Proof.Machine
end

