-- ==== Sys2Proof/Laws/Lanes.lean ====
section
/-! SUPPORT. The laws of the operations over executing lanes: what a loop of per-lane register writes leaves in every register,
flag and lane, from one law per write. -/

namespace Sys2Proof.Machine

open Sys2Proof

/-- The spindle with its v file and its lanes replaced. -/
def withVL (sp : Spindle) (v : Cells 32) (ls : List Lane) : Spindle := { sp with v := v, lanes := ls }

/-- One lane's write: `f l` gives v register reg of lane l the word `v reg l` and makes of the lane `g l`; nothing else changes. -/
structure LaneOp (f : Nat → Spindle → Spindle) (v : Nat → Nat → Option Word) (g : Nat → Lane → Lane) : Prop where
  regs : ∀ sp l, l < 32 → ∀ reg k, k < 32 → (f l sp).getV reg k = if k = l then (v reg l).getD (sp.getV reg l) else sp.getV reg k
  lane : ∀ sp l, l < sp.lanes.length → ∀ k, (f l sp).lane k = if k = l then g l (sp.lane l) else sp.lane k
  rest : ∀ sp l, f l sp = withVL sp (f l sp).v (f l sp).lanes
  size : ∀ sp l, (f l sp).lanes.length = sp.lanes.length

theorem getD_none {α : Type} (x : α) : (none : Option α).getD x = x := rfl

/-- A write of one v register. -/
theorem laneOp_setV (d : Reg) (g : Nat → Word) :
    LaneOp (fun l sp => sp.setV d.toNat l (g l)) (fun reg l => to32 d (g l) reg) (fun _ y => y) where
  regs sp l hl reg k hk := by
    rw [Spindle.getV_setV _ _ _ _ _ _ hl hk]
    unfold to32
    by_cases h1 : reg = d.toNat <;> by_cases h2 : k = l <;> simp [h1, h2]
  lane sp l _ k := by
    by_cases e : k = l
    · subst e; rw [if_pos rfl]; rfl
    · rw [if_neg e]; rfl
  rest sp l := rfl
  size sp l := rfl

/-- A write of one d register. -/
theorem laneOp_setD (d : Reg) (g : Nat → DWord) :
    LaneOp (fun l sp => sp.setD d.toNat l (g l)) (fun reg l => to64 d (g l) reg) (fun _ y => y) where
  regs sp l hl reg k hk := by
    unfold Spindle.setD
    rw [Spindle.getV_setV _ _ _ _ _ _ hl hk, Spindle.getV_setV _ _ _ _ _ _ hl hk]
    unfold to64
    by_cases h2 : k = l
    · by_cases h1 : reg = d.toNat
      · have : ¬ d.toNat = d.toNat + 1 := by omega
        simp [h1, h2]
      · by_cases h3 : reg = d.toNat + 1 <;> simp [h1, h2, h3]
    · simp [h2]
  lane sp l _ k := by
    by_cases e : k = l
    · subst e; rw [if_pos rfl]; rfl
    · rw [if_neg e]; rfl
  rest sp l := rfl
  size sp l := rfl

theorem laneOp_setVD (w64 : Bool) (d : Reg) (g : Nat → DWord) :
    LaneOp (fun l sp => sp.setVD w64 d.toNat l (g l)) (fun reg l => toVD w64 d (g l) reg) (fun _ y => y) := by
  cases w64
  · exact laneOp_setV d (fun l => (g l).setWidth 32)
  · exact laneOp_setD d g

/-- Two operations that agree. -/
theorem LaneOp.congr {f f' : Nat → Spindle → Spindle} {v v' : Nat → Nat → Option Word} {g g' : Nat → Lane → Lane} (h : LaneOp f v g)
    (hf : ∀ l sp, f' l sp = f l sp) (hv : ∀ reg l, v' reg l = v reg l) (hg : ∀ l y, g' l y = g l y) : LaneOp f' v' g' := by
  have e1 : f' = f := funext fun l => funext fun sp => hf l sp
  have e2 : v' = v := funext fun r => funext fun l => hv r l
  have e3 : g' = g := funext fun l => funext fun y => hg l y
  rw [e1, e2, e3]
  exact h

/-- A write followed by a change of the lane. -/
theorem LaneOp.withLane {f : Nat → Spindle → Spindle} {v : Nat → Nat → Option Word} {g : Nat → Lane → Lane} (h : LaneOp f v g)
    (e : Nat → Lane → Lane) : LaneOp (fun l sp => (f l sp).modLane l (e l)) v (fun l y => e l (g l y)) where
  regs sp l hl reg k hk := h.regs sp l hl reg k hk
  lane sp l hl k := by
    rw [Spindle.lane_modLane _ _ _ _ (by rw [h.size]; exact hl), h.lane sp l hl, h.lane sp l hl]
    by_cases e : k = l
    · subst e
      rw [if_pos rfl, if_pos rfl, if_pos rfl]
    · rw [if_neg e, if_neg e, if_neg e]
  rest sp l := by
    have q := congrArg (fun y => withVL y (f l sp).v ((f l sp).modLane l (e l)).lanes) (h.rest sp l)
    exact q
  size sp l := by rw [Spindle.length_modLane, h.size]

/-- A change of the lane alone. -/
theorem laneOp_modLane (e : Nat → Lane → Lane) : LaneOp (fun l sp => sp.modLane l (e l)) (fun _ _ => none) e where
  regs sp l _ reg k _ := by
    by_cases h : k = l
    · subst h; rw [if_pos rfl]; rfl
    · rw [if_neg h]; rfl
  lane sp l hl k := Spindle.lane_modLane _ _ _ _ hl
  rest sp l := rfl
  size sp l := Spindle.length_modLane ..

/-- A loop of one lane's writes over distinct lanes. -/
theorem LaneOp.fold {f : Nat → Spindle → Spindle} {v : Nat → Nat → Option Word} {g : Nat → Lane → Lane}
    (h : LaneOp f v g) (ls : List Nat) (sp : Spindle) (hn : ls.Nodup) (hl : ∀ l ∈ ls, l < 32) (h32 : sp.lanes.length = 32) :
    (∀ reg k, k < 32 → (ls.foldl (fun sp l => f l sp) sp).getV reg k = if k ∈ ls then (v reg k).getD (sp.getV reg k) else sp.getV reg k) ∧
    (∀ k, (ls.foldl (fun sp l => f l sp) sp).lane k =
      if k ∈ ls then g k (sp.lane k) else sp.lane k) ∧
    (ls.foldl (fun sp l => f l sp) sp = withVL sp (ls.foldl (fun sp l => f l sp) sp).v (ls.foldl (fun sp l => f l sp) sp).lanes) ∧
    (ls.foldl (fun sp l => f l sp) sp).lanes.length = 32 := by
  induction ls generalizing sp with
  | nil => exact ⟨fun _ _ _ => rfl, fun _ => rfl, rfl, h32⟩
  | cons l ls ih =>
    obtain ⟨n1, n2⟩ := List.nodup_cons.1 hn
    have hl1 : l < 32 := hl l (List.mem_cons_self ..)
    obtain ⟨a, b, c, d⟩ := ih (f l sp) n2 (fun x hx => hl x (List.mem_cons_of_mem _ hx)) (by rw [h.size, h32])
    rw [List.foldl_cons]
    refine ⟨?_, ?_, ?_, d⟩
    · intro reg k hk
      rw [a reg k hk, h.regs sp l hl1 reg k hk]
      by_cases e : k = l
      · subst e; simp [n1]
      · simp [e]
    · intro k
      rw [b k, h.lane sp l (by omega)]
      by_cases e : k = l
      · subst e; simp [n1]
      · simp [e]
    · have e := congrArg (fun y => withVL y (ls.foldl (fun sp l => f l sp) (f l sp)).v (ls.foldl (fun sp l => f l sp) (f l sp)).lanes)
        (h.rest sp l)
      exact c.trans e

/-- The spindle with its register marks replaced. -/
def withMarks (sp : Spindle) (m : Cells 4) : Spindle := { sp with vpoison := m }

theorem clearRegPoison_frame (sp : Spindle) (rs : List Nat) (x : LaneMask) :
    clearRegPoison sp rs x = withMarks sp (clearRegPoison sp rs x).vpoison := by
  unfold clearRegPoison
  split <;> rfl

theorem fold_clear (rs : List Nat) (m : BitVec 4) (c : Cells 4) (reg : Nat) :
    cellGet (rs.foldl (fun c r => cellSet c r (cellGet c r &&& ~~~m)) c) reg = if reg ∈ rs then cellGet c reg &&& ~~~m else cellGet c reg := by
  induction rs generalizing c with
  | nil => simp
  | cons r rs ih =>
    rw [List.foldl_cons, ih, cellGet_set]
    by_cases e : reg = r
    · subst e
      by_cases h2 : reg ∈ rs
      · simp [h2, BitVec.and_assoc]
      · simp [h2]
    · simp [e]

/-- A write of all eight lanes of a sector clears the sector's poison, and no other mark changes (12 R291). -/
theorem clearRegPoison_marks (sp : Spindle) (rs : List Nat) (x : LaneMask) (reg k : Nat) (hk : k < 4) :
    (cellGet (clearRegPoison sp rs x).vpoison reg).getLsbD k =
      ((cellGet sp.vpoison reg).getLsbD k && !(rs.contains reg && x.extractLsb' (8 * k) 8 == 0xFF#8)) := by
  unfold clearRegPoison
  split
  · rename_i he
    have : sp.vpoison = [] := by simpa using he
    rw [this]
    simp [cellGet]
  · simp only [fold_clear]
    have hm : ((BitVec.ofNat 4 ((List.range 4).foldl (fun acc k => if (x.extractLsb' (8 * k) 8 == 0xFF#8) = true then acc ||| 2 ^ k else acc) 0)) : BitVec 4).getLsbD k =
        (x.extractLsb' (8 * k) 8 == 0xFF#8) := by
      rw [BitVec.getLsbD_ofNat, testBit_orFold (fun k => x.extractLsb' (8 * k) 8 == 0xFF#8)]
      simp only [hk, decide_true, Bool.true_and, Nat.zero_testBit, Bool.false_or]
      cases hf : (x.extractLsb' (8 * k) 8 == 0xFF#8)
      · rw [List.any_eq_false]
        intro y _
        by_cases e : y = k
        · subst e; simp [hf]
        · simp [e]
      · rw [List.any_eq_true]
        exact ⟨k, List.mem_range.2 hk, by simp [hf]⟩
    by_cases hr : reg ∈ rs
    · have hc : rs.contains reg = true := by simpa using hr
      rw [if_pos hr, BitVec.getLsbD_and, BitVec.getLsbD_not, hm, hc]
      simp [hk]
    · have hc : rs.contains reg = false := by simpa using hr
      rw [if_neg hr, hc]
      simp

/-- A change of the issuing spindle that gives the result r, made after the fragment has moved on: where an executing lane does not
stay eligible, the reconvergence barriers are evaluated after it (05 R124). -/
theorem settle_computes {i : Instr} {s : State} {n : Nat} {r : Result} (h : Issues i s) (hA : isFlagA i = false) (g : Spindle → Spindle)
    (hv : ∀ reg, ∀ l < 32, (g { s.spindle s.cur.sp with lanes := movedLanes s n }).getV reg l =
      if (s.executing i).getLsbD l then (r.v reg l).getD ((s.spindle s.cur.sp).getV reg l) else (s.spindle s.cur.sp).getV reg l)
    (hs : ∀ reg, (g { s.spindle s.cur.sp with lanes := movedLanes s n }).getS reg = (r.s reg).getD ((s.spindle s.cur.sp).getS reg))
    (hp : ∀ q < 7, ∀ l < 32, ((g { s.spindle s.cur.sp with lanes := movedLanes s n }).pred q).getLsbD l =
      if (s.executing i).getLsbD l then (r.p q l).getD (((s.spindle s.cur.sp).pred q).getLsbD l) else ((s.spindle s.cur.sp).pred q).getLsbD l)
    (hl : ∀ l < 32, (g { s.spindle s.cur.sp with lanes := movedLanes s n }).lane l =
      if (s.executing i).getLsbD l then r.lane l (movedLane s n l) else if s.cur.lanes.getLsbD l then movedLane s n l else s.lane s.cur.sp l)
    (hf : ∃ v sr p ls, g { s.spindle s.cur.sp with lanes := movedLanes s n } = (s.spindle s.cur.sp).put v sr p (s.spindle s.cur.sp).vpoison ls)
    (hk : ∀ l < 32, (s.executing i).getLsbD l = true → ((g { s.spindle s.cur.sp with lanes := movedLanes s n }).lane l).st.wrote = true) :
    ∃ u, Computes i n r s u ∧ settleIssue i (s.executing i) ((s.advance n).modSp s.cur.sp g) =
      if (lanesOf (s.executing i)).all (fun l => ((u.spindle s.cur.sp).lane l).st.isEligible) then u else rcvEvalAll u s.cur.sp := by
  obtain ⟨v, sr, p, ls, hg⟩ := hf
  have e : ∀ G : Spindle → Spindle, (s.modSp s.cur.sp G).spindle s.cur.sp = G (s.spindle s.cur.sp) := fun G => State.spindle_modSp_same _ _ _ h.place
  have hset : settleIssue i (s.executing i) ((s.advance n).modSp s.cur.sp g) =
      (fun u => if (lanesOf (s.executing i)).all (fun l => ((u.spindle s.cur.sp).lane l).st.isEligible) then u else rcvEvalAll u s.cur.sp)
        (s.modSp s.cur.sp (fun sp => clearRegPoison (g { sp with lanes := movedLanes s n }) (writtenRegs i) (s.executing i))) := by
    unfold settleIssue
    simp only [hA, Bool.false_eq_true, if_false, State.modSp_cur, advance_cur]
    rw [State.modSp_modSp, advance_modSp, State.modSp_modSp]
    rw [State.modSp_congr s s.cur.sp _ (fun sp => clearRegPoison (g { sp with lanes := movedLanes s n }) (writtenRegs i) (s.executing i)) (by
      rw [and_maskBy_true _ _ hk])]
  refine ⟨_, ?_, hset⟩
  generalize hy : g { s.spindle s.cur.sp with lanes := movedLanes s n } = y at *
  have hlane : ∀ l, (clearRegPoison y (writtenRegs i) (s.executing i)).lane l = y.lane l := by
    intro l
    rw [clearRegPoison_frame]
    rfl
  constructor
  · intro reg l h1
    rw [e, hy, clearRegPoison_frame]
    exact hv reg l h1
  · intro reg
    rw [e, hy, clearRegPoison_frame]
    exact hs reg
  · intro q h1 l h2
    rw [e, hy, clearRegPoison_frame]
    exact hp q h1 l h2
  · intro l h1
    show (Spindle.lane _ l) = _
    rw [e, hy, hlane, hl l h1]
  · intro reg k h1
    rw [e, hy, clearRegPoison_marks _ _ _ _ _ h1, hg]
    rfl
  · refine ⟨v, sr, p, (clearRegPoison y (writtenRegs i) (s.executing i)).vpoison, ls, ?_⟩
    apply State.modSp_congr
    have e2 := congrArg (fun z => withMarks z (clearRegPoison y (writtenRegs i) (s.executing i)).vpoison) hg
    exact (congrArg (fun z => clearRegPoison z (writtenRegs i) (s.executing i)) hy).trans ((clearRegPoison_frame _ _ _).trans e2)
  · rw [State.modSp_mem]

/-- Where the result leaves every executing lane eligible, the word's answer is the result. -/
theorem settle_stay {i : Instr} {s u : State} {n : Nat} {r : Result} (h : Issues i s) (hc : Computes i n r s u)
    (hr : ∀ l y, y.st = .eligible → (r.lane l y).st = .eligible) :
    (lanesOf (s.executing i)).all (fun l => ((u.spindle s.cur.sp).lane l).st.isEligible) = true := by
  rw [List.all_eq_true]
  intro l hl
  obtain ⟨h1, h2⟩ := (mem_lanesOf _ l).1 hl
  have q := hc.lane l h1
  rw [if_pos h2] at q
  unfold State.lane at q
  have hm : (movedLane s n l).st = .eligible := h.eligible l h1 (executing_sub s i h2)
  rw [q, hr l _ hm]
  rfl

/-- A change of the issuing spindle alone, by an instruction under no flag: the result, and the barriers evaluated where a lane
does not stay eligible. -/
theorem uniform_computes {i : Instr} {s : State} {n : Nat} {r : Result} (h : Issues i s) (hA : isFlagA i = false) (f : LaneMask → Spindle → Spindle)
    (hv : ∀ reg, ∀ l < 32, (f (s.executing i) { s.spindle s.cur.sp with lanes := movedLanes s n }).getV reg l =
      if (s.executing i).getLsbD l then (r.v reg l).getD ((s.spindle s.cur.sp).getV reg l) else (s.spindle s.cur.sp).getV reg l)
    (hs : ∀ reg, (f (s.executing i) { s.spindle s.cur.sp with lanes := movedLanes s n }).getS reg = (r.s reg).getD ((s.spindle s.cur.sp).getS reg))
    (hp : ∀ q < 7, ∀ l < 32, ((f (s.executing i) { s.spindle s.cur.sp with lanes := movedLanes s n }).pred q).getLsbD l =
      if (s.executing i).getLsbD l then (r.p q l).getD (((s.spindle s.cur.sp).pred q).getLsbD l) else ((s.spindle s.cur.sp).pred q).getLsbD l)
    (hl : ∀ l < 32, (f (s.executing i) { s.spindle s.cur.sp with lanes := movedLanes s n }).lane l =
      if (s.executing i).getLsbD l then r.lane l (movedLane s n l) else if s.cur.lanes.getLsbD l then movedLane s n l else s.lane s.cur.sp l)
    (hf : ∃ v sr p ls, f (s.executing i) { s.spindle s.cur.sp with lanes := movedLanes s n } =
      (s.spindle s.cur.sp).put v sr p (s.spindle s.cur.sp).vpoison ls)
    (hr : ∀ l y, y.st = .eligible → (r.lane l y).st = .eligible) :
    ∃ t, uniform i (pfx i) n s f = .next t ∧ Computes i n r s t := by
  obtain ⟨u, hc, hset⟩ := settle_computes h hA (f (s.executing i)) hv hs hp hl hf (fun l h1 h2 => by
    rw [hl l h1, if_pos h2, hr l (movedLane s n l) (h.eligible l h1 (executing_sub s i h2))]
    rfl)
  rw [settle_stay h hc hr, if_pos rfl] at hset
  refine ⟨u, ?_, hc⟩
  unfold uniform
  rw [issue_of_issues h, issueExec_of_issues h]
  simp only [advance_cur, finishIssue]
  rw [hset]

/-- The lanes of the issuing spindle once the fragment has moved on, each as the claims name it. -/
theorem movedLanes_lane (s : State) (n l : Nat) (hl : l < 32) (h32 : (s.spindle s.cur.sp).lanes.length = 32) :
    ({ s.spindle s.cur.sp with lanes := movedLanes s n } : Spindle).lane l = if s.cur.lanes.getLsbD l then movedLane s n l else s.lane s.cur.sp l :=
  movedLanes_get s n l hl h32

/-- An instruction that only writes registers of its lanes, under no flag. -/
theorem alu_computes {i : Instr} {s : State} {n : Nat} (h : Issues i s) (hA : isFlagA i = false) {f : Spindle → Nat → Spindle → Spindle}
    {v : Nat → Nat → Option Word} {g : Nat → Lane → Lane}
    (op : LaneOp (f { s.spindle s.cur.sp with lanes := movedLanes s n }) v g) (hr : ∀ l y, y.st = .eligible → (g l y).st = .eligible) :
    ∃ t, alu i (pfx i) n s f = .next t ∧ Computes i n { v := v, lane := g } s t := by
  have h32 : ({ s.spindle s.cur.sp with lanes := movedLanes s n } : Spindle).lanes.length = 32 := by
    show (movedLanes s n).length = 32
    rw [movedLanes_length, h.lanes]
  obtain ⟨a, b, c, d⟩ := op.fold (lanesOf (s.executing i)) { s.spindle s.cur.sp with lanes := movedLanes s n } (lanesOf_nodup _)
    (fun l hl => ((mem_lanesOf _ _).1 hl).1) h32
  have hm : ∀ k, k < 32 → (k ∈ lanesOf (s.executing i) ↔ (s.executing i).getLsbD k = true) := by
    intro k hk
    rw [mem_lanesOf]
    simp [hk]
  refine uniform_computes (n := n) (r := { v := v, lane := g }) h hA
    (fun x old => (lanesOf x).foldl (fun sp l => f old l sp) old) ?_ ?_ ?_ ?_ ⟨_, (s.spindle s.cur.sp).s, (s.spindle s.cur.sp).p, _, c⟩ hr
  · intro reg l hl
    have := a reg l hl
    simp only [hm l hl] at this
    exact this
  · intro reg
    show Spindle.getS _ reg = _
    rw [c]
    rfl
  · intro q _ l _
    rw [c]
    simp only [getD_none]
    split <;> rfl
  · intro l hl
    have := b l
    simp only [hm l hl] at this
    rw [this, movedLanes_lane s n l hl h.lanes]
    by_cases he : (s.executing i).getLsbD l = true
    · rw [if_pos he, if_pos he, if_pos (executing_sub s i he)]
    · rw [if_neg he, if_neg he]

end Sys2Proof.Machine
end

