-- ==== Sys2Proof/Laws/Faults.lean ====
section
/-! SUPPORT. The laws of words as issues and of faults: every guarded word is one issue, and what `faultLanes` makes of lanes
that can take a fault (00 R11, R12; 11 R268). -/

namespace Sys2Proof.Machine

open Sys2Proof

/-- Every guarded word but `NOP` and `ERET` is one issue of its own length under its own guard (00 R11). -/
theorem exec_issue (i : Instr) (s : State) (hg : guarded i = true) :
    (∃ p, i = .nop p ∨ i = .eret p) ∨ ∃ eff, exec i s = issue i (pfx i) (encode i).length s eff := by
  cases i
  all_goals first
    | exact .inl ⟨_, .inl rfl⟩
    | exact .inl ⟨_, .inr rfl⟩
    | exact Bool.noConfusion hg
    | exact .inr ⟨_, rfl⟩

/-- A lane of a program that takes a fault at the issuing word of w (12 R297). -/
def faultedLane (w : State) (wp : Nat → BitVec 8) (c : BitVec 8) (a : DWord) (l : Nat) (y : Lane) : Lane :=
  { y with
    st := .parked, pc := w.cur.pc, page := none, pendingTrap := true, tcause := c.setWidth 9, tcode := 0#7,
    record := some { cause := c, defer := false, pending := true, chained := w.cur.chained, acc := 0#5, wpart := wp l, rights := 0#16,
                     pc := w.cur.pc, addr := a, tissue := w.clock.ns, tdetect := w.clock.ns } }

theorem faultLane_plain (w : State) (sp : Spindle) (l : Nat) (c : BitVec 8) (a : DWord) (hp : w.cur.sp < w.spindles.length)
    (ht : sp.trapped = none) (he : sp.st ≠ .ended) (ho : ((sp.lane l).tx && (sp.lane l).spec) = false) :
    faultLane (w.modSp w.cur.sp (fun _ => sp)) w.cur.sp l c a 0#5 0#16 =
      w.modSp w.cur.sp (fun _ => sp.modLane l (faultedLane w sp.wpartOf c a l)) := by
  have hb : (sp.st == SpSt.ended) = false := by simpa using he
  unfold faultLane
  simp only [State.spindle_modSp_same w w.cur.sp (fun _ => sp) hp, hb, ht, ho, Bool.false_eq_true, if_false]
  unfold State.modLane
  rw [State.modSp_modSp]
  rfl

/-- Lanes that can take a fault of their own all park with their records and pending traps; nothing else changes (00 R12, 11 R268). -/
theorem faultLanes_eq (w : State) (x : LaneMask) (c : BitVec 8) (a : DWord) (hp : w.cur.sp < w.spindles.length) (hf : CanFault x w) :
    faultLanes w x c a = w.modSp w.cur.sp (fun sp =>
      (lanesOf x).foldl (fun sp l => sp.modLane l (faultedLane w (w.spindle w.cur.sp).wpartOf c a l)) sp) := by
  have key : ∀ (ls : List Nat) (sp : Spindle), ls.Nodup → sp.trapped = none → sp.st ≠ .ended → sp.wpart = (w.spindle w.cur.sp).wpart →
      (∀ l ∈ ls, ((sp.lane l).tx && (sp.lane l).spec) = false) →
      ls.foldl (fun s l => faultLane s s.cur.sp l c a 0#5 0#16) (w.modSp w.cur.sp (fun _ => sp)) =
        w.modSp w.cur.sp (fun _ => ls.foldl (fun sp l => sp.modLane l (faultedLane w (w.spindle w.cur.sp).wpartOf c a l)) sp) := by
    intro ls
    induction ls with
    | nil => intro sp _ _ _ _ _; rfl
    | cons l ls ih =>
      intro sp hn ht he hw ho
      obtain ⟨n1, n2⟩ := List.nodup_cons.1 hn
      have hwp : sp.wpartOf = (w.spindle w.cur.sp).wpartOf := by
        funext k
        unfold Spindle.wpartOf
        rw [hw]
      rw [List.foldl_cons, List.foldl_cons]
      show List.foldl _ (faultLane (w.modSp w.cur.sp (fun _ => sp)) w.cur.sp l c a 0#5 0#16) ls = _
      rw [faultLane_plain w sp l c a hp ht he (ho l (List.mem_cons_self ..)), hwp]
      refine ih (sp.modLane l (faultedLane w (w.spindle w.cur.sp).wpartOf c a l)) n2 ht he hw ?_
      intro k hk
      have hkl : k ≠ l := fun e => n1 (e ▸ hk)
      have e : (sp.modLane l (faultedLane w (w.spindle w.cur.sp).wpartOf c a l)).lane k = sp.lane k := by
        unfold Spindle.lane Spindle.modLane
        simp only [List.getD_eq_getElem?_getD, List.getElem?_modify]
        have : ¬ l = k := fun e => hkl e.symm
        simp [this]
      rw [e]
      exact ho k (List.mem_cons_of_mem _ hk)
  have h0 : w = w.modSp w.cur.sp (fun _ => w.spindle w.cur.sp) := by
    rw [State.modSp_congr w w.cur.sp (fun _ => w.spindle w.cur.sp) (fun sp => sp) rfl, State.modSp_id]
  have := key (lanesOf x) (w.spindle w.cur.sp) (lanesOf_nodup x) hf.handler hf.alive rfl
    (fun l hl => hf.ordered l ((mem_lanesOf _ _).1 hl).1 ((mem_lanesOf _ _).1 hl).2)
  unfold faultLanes
  rw [← h0] at this
  rw [this]
  exact State.modSp_congr _ _ _ _ rfl

/-- The fragment has moved on, and the lanes x of it took a fault: they are parked as the claims name it. -/
theorem faultLanes_parks (s : State) (n : Nat) (x : LaneMask) (c : BitVec 8) (a : DWord) (hp : s.cur.sp < s.spindles.length)
    (h32 : (s.spindle s.cur.sp).lanes.length = 32) (hx : ∀ l < 32, x.getLsbD l = true → s.cur.lanes.getLsbD l = true) (hf : CanFault x s) :
    Parks x n c 0#7 a s (faultLanes (s.advance n) x c a) := by
  have hsp := advance_spindle s n hp
  have hf' : CanFault x (s.advance n) := by
    refine ⟨?_, ?_, ?_⟩
    · rw [advance_cur, hsp]; exact hf.handler
    · rw [advance_cur, hsp]; exact hf.alive
    · intro l hl hxl
      rw [advance_cur, advance_lane s n l hp hl h32, if_pos (hx l hl hxl)]
      exact hf.ordered l hl hxl
  have e := faultLanes_eq (s.advance n) x c a (by rw [advance_cur, advance_length]; exact hp) hf'
  have hw : ((s.advance n).spindle s.cur.sp).wpartOf = (s.spindle s.cur.sp).wpartOf := by
    funext k
    rw [hsp]
    rfl
  have hfl : faultedLane (s.advance n) ((s.advance n).spindle s.cur.sp).wpartOf c a = faultedLane s (s.spindle s.cur.sp).wpartOf c a := by
    rw [hw]
    funext l y
    unfold faultedLane
    rw [advance_cur, advance_clock]
  rw [advance_cur, hfl, advance_modSp, State.modSp_modSp, ← advance_modSp] at e
  have hlen : ({ s.spindle s.cur.sp with lanes := movedLanes s n } : Spindle).lanes.length = 32 := by
    show (movedLanes s n).length = 32
    rw [movedLanes_length, h32]
  have hmem : ∀ l < 32, (l ∈ lanesOf x ↔ x.getLsbD l = true) := fun l hl => by rw [mem_lanesOf]; simp [hl]
  constructor
  · intro l hl
    rw [e]
    unfold State.lane
    rw [State.spindle_modSp_same _ _ _ hp,
      Spindle.lane_foldModLane _ _ _ _ (lanesOf_nodup x) (fun k hk => by rw [hlen]; exact ((mem_lanesOf _ _).1 hk).1),
      movedLanes_lane s n l hl h32]
    simp only [hmem l hl]
    by_cases hxl : x.getLsbD l = true
    · rw [if_pos hxl, if_pos hxl, if_pos (hx l hl hxl)]
      rfl
    · rw [if_neg hxl, if_neg hxl]
      rfl
  · refine ⟨_, e.trans (State.modSp_congr _ _ _ _ (Spindle.foldModLane_eq _ _ _))⟩

theorem Parks.cur {x : LaneMask} {n : Nat} {c : BitVec 8} {k : BitVec 7} {a : DWord} {s u : State} (h : Parks x n c k a s u) : u.cur = s.cur := by
  obtain ⟨ls, e⟩ := h.frame
  rw [e]
  rfl

end Sys2Proof.Machine
end

