-- ==== Sys2Proof/Laws/Fetch.lean ====
section
/-! SUPPORT. The laws of the fetch path: what a held word, a held header and a held target answer (03 R77, R463; 05 R118). -/

namespace Sys2Proof.Machine

open Sys2Proof

/-- A page whose leaf the core holds with X passes the check of a fetch, and nothing changes. -/
theorem checkPage_fetch {s : State} {w : Who} {ea page : Nat} {rv : Bool} {x : LeafEntry} (h : rightsFind s.mem w.core ea page = some x)
    (hx : leafX x.leaf = true) : checkPage s w ea page needX rv = .ok s x.leaf := by
  simp [checkPage, rightsOf, h, hx, needX]

/-- A held word is fetched, and nothing changes. -/
theorem fetchWord_held {s : State} {k : Nat} {pc : DWord} {w : Word} (h : WordHeld s k pc w) : fetchWord s k pc = (s, .word w) := by
  obtain ⟨hc, ⟨x, h1, h2⟩, c, h3, h4, h5⟩ := h
  unfold fetchWord
  simp only [hc, Bool.not_true, Bool.false_eq_true, if_false, checkPage_fetch h1 h2, h3, h4, h5, bne_self_eq_false]

/-- The clause of a word whose packet starts with a held header names that header's flags. -/
theorem clauseFlags_held {s : State} {k : Nat} {pc : DWord} {w : Word} (h : WordHeld s k (BitVec.ofNat 64 (12 * (pc.toNat / 12))) w) (hh : isHeader w = true) :
    clauseFlags s k pc = (s, .word w, BitVec.ofNat 64 (12 * (pc.toNat / 12))) := by
  unfold clauseFlags
  generalize e : pc.toNat / 12 = n at h
  cases n with
  | zero =>
    have h' : WordHeld s k 0#64 w := h
    simp only [headerFrom, fetchWord_held h', hh, if_true]
  | succ n => simp only [headerFrom, fetchWord_held h, hh, if_true]

/-- A held target passes the target check, and nothing changes. -/
theorem checkTarget_held {s : State} {t : DWord} (h : TargetHeld s t) : checkTarget s s.cur.sp t = (s, .good) := by
  obtain ⟨hp, hc, ⟨x, h1, h2⟩, c, h3, h4, h5⟩ := h
  have hw : WordHeld s s.cur.sp t (BitVec.ofNat 32 (lineBytesGet c.data (offOf t) 4)) := ⟨hc, ⟨x, h1, h2⟩, c, h3, h4, rfl⟩
  simp [checkTarget, hp, fetchWord_held hw, h5]

end Sys2Proof.Machine
end

