-- ==== Sys2Proof/Laws/Memory.lean ====
section
/-! SUPPORT. The laws of the memory system: every operation over memory changes memory and the marks of intervals alone, keeps the rights that
cores hold and the seals, and keeps memory's canonical form (07, 13, 18). -/

namespace Sys2Proof.Machine

open Sys2Proof

theorem MemoryOnly.rfl (s : State) : MemoryOnly s s where
  frame := ⟨_, _, Eq.refl _⟩
  count := Eq.refl _
  teams := fun _ => Eq.refl _
  rights := fun _ _ _ _ h => h
  seals := Eq.refl _
  wf := id

theorem MemoryOnly.trans {s t u : State} (a : MemoryOnly s t) (b : MemoryOnly t u) : MemoryOnly s u where
  frame := by
    obtain ⟨m, ts, e⟩ := a.frame
    obtain ⟨m', ts', e'⟩ := b.frame
    exact ⟨m', ts', by rw [e', e]⟩
  count := b.count.trans a.count
  teams := fun k => (b.teams k).trans (a.teams k)
  rights := fun c e p x h => b.rights c e p x (a.rights c e p x h)
  seals := b.seals.trans a.seals
  wf := b.wf ∘ a.wf

/-- An update of memory that keeps the rights and seals as they are, and the canonical form. -/
theorem MemoryOnly.mem (s : State) (f : MemSys → MemSys) (hr : (f s.mem).rights = s.mem.rights) (hs : (f s.mem).seals = s.mem.seals)
    (hw : Memory.wf s.mem.phys → Memory.wf (f s.mem).phys) : MemoryOnly s (s.modMem f) where
  frame := ⟨_, _, Eq.refl _⟩
  count := Eq.refl _
  teams := fun _ => Eq.refl _
  rights := fun c e p x h => by
    unfold rightsFind at h ⊢
    rw [show (s.modMem f).mem.rights = s.mem.rights from hr]
    exact h
  seals := hs
  wf := hw

/-- An update of memory beside the bytes of memory themselves. -/
theorem MemoryOnly.caches (s : State) (f : MemSys → MemSys) (hr : (f s.mem).rights = s.mem.rights) (hs : (f s.mem).seals = s.mem.seals)
    (hp : (f s.mem).phys = s.mem.phys) : MemoryOnly s (s.modMem f) := .mem s f hr hs (fun h => by rw [hp]; exact h)

theorem MemoryOnly.ineligible (s : State) (t : Nat) : MemoryOnly s (s.ineligible t) where
  frame := ⟨s.mem, _, Eq.refl _⟩
  count := s.length_modTeam ..
  teams := fun k => by
    unfold State.ineligible
    by_cases h : t < s.teams.length
    · rw [State.team_modTeam _ _ _ _ h]
      split
      · rename_i e
        subst e
        exact Eq.refl _
      · exact Eq.refl _
    · unfold State.modTeam State.team
      rw [show (s.teams.modify t fun x => { x with ineligible := true }) = s.teams from List.modify_eq_self (Nat.le_of_not_lt h)]
  rights := fun _ _ _ _ h => h
  seals := Eq.refl _
  wf := id

/-- A fold of updates that each keep everything else. -/
theorem MemoryOnly.fold {α : Type} (l : List α) (f : State → α → State) (h : ∀ s x, MemoryOnly s (f s x)) (s : State) : MemoryOnly s (l.foldl f s) := by
  induction l generalizing s with
  | nil => exact .rfl s
  | cons a l ih => exact (h s a).trans (ih _)

/-- What an answer leaves: the state of each answer but a wait is s with memory alone changed. -/
def Got.MemoryOnly {α : Type} (s : State) : Got α → Prop
  | .ok t _ => Machine.MemoryOnly s t
  | .bad t _ _ => Machine.MemoryOnly s t
  | .absent t _ _ => Machine.MemoryOnly s t
  | .wait _ => True

theorem Got.MemoryOnly.after {α : Type} {s t : State} {r : Got α} (a : Machine.MemoryOnly s t) (b : r.MemoryOnly t) : r.MemoryOnly s := by
  cases r
  case wait => trivial
  all_goals exact Machine.MemoryOnly.trans a b

/-- A fold over answers: an answer that is not `ok` ends it. -/
theorem Got.MemoryOnly.fold {α β : Type} (l : List α) (f : Got β → α → Got β) (s : State)
    (h : ∀ r x, r.MemoryOnly s → (f r x).MemoryOnly s) (r : Got β) (hr : r.MemoryOnly s) : (l.foldl f r).MemoryOnly s := by
  induction l generalizing r with
  | nil => exact hr
  | cons a l ih => exact ih _ (h r a hr)

-- Homes, copies and physical memory

theorem homePut_keeps (s : State) (f : MemSys → HomeLine) : MemoryOnly s (s.modMem (fun m => homePut m (f m))) :=
  .caches s _ (Eq.refl _) (Eq.refl _) (Eq.refl _)
theorem l1Put_keeps (s : State) (x : L1Line) : MemoryOnly s (s.modMem (fun m => l1Put m x)) := .caches s _ (Eq.refl _) (Eq.refl _) (Eq.refl _)

theorem homeTouch_keeps (s : State) (h : HomeLine) (t : Option Nat) : MemoryOnly s (homeTouch s h t) := by
  refine .fold _ _ (fun s u => ?_) s
  split
  · exact .rfl s
  · exact .ineligible s _

theorem tagsLost_keeps (s : State) (h : HomeLine) : MemoryOnly s (tagsLost s h) := .fold _ _ (fun s _ => .ineligible s _) s

theorem recallLine_keeps (s : State) (h : HomeLine) : MemoryOnly s (recallLine s h).1 := by
  unfold recallLine
  split
  · exact .rfl s
  · dsimp only
    split
    · exact homePut_keeps s (fun _ => _)
    · exact .caches s (fun m => homePut (l1Del m _ h.ea h.ln) _) (Eq.refl _) (Eq.refl _) (Eq.refl _)

theorem physPut_keeps (s : State) (pa n v : Nat) : MemoryOnly s (s.modMem (fun m => physPut m pa n v)) := by
  refine .mem s _ ?_ ?_ ?_ <;> unfold physPut <;> split
  all_goals first
    | rfl
    | exact id
    | exact memoryWf_bytesSet _ _ _ _

/-- Bytes written to memory keep the canonical form, the rights and the seals. -/
theorem physPut_mem (m : MemSys) (pa n v : Nat) :
    (physPut m pa n v).rights = m.rights ∧ (physPut m pa n v).seals = m.seals ∧ (Memory.wf m.phys → Memory.wf (physPut m pa n v).phys) := by
  unfold physPut
  split
  · exact ⟨Eq.refl _, Eq.refl _, id⟩
  · exact ⟨Eq.refl _, Eq.refl _, memoryWf_bytesSet _ _ _ _⟩

theorem memPut_keeps (s : State) (pa n v : Nat) : MemoryOnly s (s.modMem (fun m => memPut m pa n v)) := by
  have k : (memPut s.mem pa n v).rights = s.mem.rights ∧ (memPut s.mem pa n v).seals = s.mem.seals ∧
      (Memory.wf s.mem.phys → Memory.wf (memPut s.mem pa n v).phys) := by
    unfold memPut
    split
    · exact physPut_mem ..
    · rename_i q _
      obtain ⟨a1, a2, a3⟩ := physPut_mem s.mem pa n v
      obtain ⟨b1, b2, b3⟩ := physPut_mem (physPut s.mem pa n v) q n v
      exact ⟨b1.trans a1, b2.trans a2, b3 ∘ a3⟩
  exact .mem s _ k.1 k.2.1 k.2.2

theorem paWrite_keeps (s : State) (pa n v : Nat) : MemoryOnly s (paWrite s pa n v) := by
  have raw := memPut_keeps s pa n v
  unfold paWrite
  split
  · exact raw
  · split
    · exact raw
    · exact ((recallLine_keeps s _).trans (homeTouch_keeps _ _ _)).trans (homePut_keeps _ _)

theorem paWrites_keeps (s : State) (pa n v : Nat) : MemoryOnly s (paWrites s pa n v) := .fold _ _ (fun s _ => paWrite_keeps s _ _ _) s

theorem ringPush_keeps {s t : State} {r : DWord} {size v : Nat} (h : ringPush s r size v = some t) : MemoryOnly s t := by
  unfold ringPush at h
  split at h
  · cases h
  · cases h
    exact (paWrites_keeps s _ _ _).trans (paWrite_keeps _ _ _ _)

theorem ringPop_keeps {s t : State} {r : DWord} {size v : Nat} (h : ringPop s r size = some (t, v)) : MemoryOnly s t := by
  unfold ringPop at h
  split at h
  · cases h
  · cases h
    exact paWrite_keeps s _ _ _

theorem drainReqs_keeps (s : State) : MemoryOnly s (drainReqs s) := by
  refine .fold _ _ (fun s q => ?_) s
  split
  · exact .rfl s
  · split
    · exact .rfl s
    · rename_i e
      exact (ringPush_keeps e).trans (.caches _ _ (Eq.refl _) (Eq.refl _) (Eq.refl _))

theorem postReq_keeps (s : State) (ea page kind : Nat) : MemoryOnly s (postReq s ea page kind) := by
  unfold postReq
  split
  · exact .rfl s
  · exact (MemoryOnly.caches s _ (Eq.refl _) (Eq.refl _) (Eq.refl _)).trans (drainReqs_keeps _)

theorem withReqs_keeps (s : State) (l : List PageReq) : MemoryOnly s (s.withReqs l) := by
  unfold State.withReqs
  dsimp only
  split
  · exact .rfl s
  · exact (MemoryOnly.caches s _ (Eq.refl _) (Eq.refl _) (Eq.refl _)).trans (drainReqs_keeps _)

/-- A rights miss adds a leaf behind those that the core holds. -/
theorem rightsOf_keeps (s : State) (core : Nat) (pn : BitVec 16) (ea page : Nat) : MemoryOnly s (rightsOf s core pn ea page).1 := by
  unfold rightsOf
  split
  · exact .rfl s
  · unfold rightsMiss
    split
    · exact .rfl s
    · exact postReq_keeps ..
    · exact postReq_keeps ..
    · exact ⟨⟨_, _, Eq.refl _⟩, Eq.refl _, fun _ => Eq.refl _, fun c e p x h => by
        unfold rightsFind at h ⊢
        exact List.find?_append .. ▸ (by rw [h]; exact Eq.refl _), Eq.refl _, id⟩

theorem rmapSet_keeps (s : State) (pa : Nat) (e : Option (Nat × Nat)) : MemoryOnly s (rmapSet s pa e) := by
  unfold rmapSet
  split
  · exact .rfl s
  · split
    · exact .rfl s
    · exact physPut_keeps s _ _ _

theorem tlbKeep_keeps (s : State) (ea ln : Nat) (e : DWord) (lv : Nat) : MemoryOnly s (tlbKeep s ea ln e lv) := by
  unfold tlbKeep
  split
  · exact .rfl s
  · exact .caches s _ (Eq.refl _) (Eq.refl _) (Eq.refl _)

theorem translate_keeps (s : State) (ea ln kind : Nat) : MemoryOnly s (translate s ea ln kind).1 := by
  unfold translate
  dsimp only
  split
  · split
    · exact postReq_keeps ..
    · split
      · split
        · exact tlbKeep_keeps ..
        · exact postReq_keeps ..
      · exact (rmapSet_keeps s _ _).trans (tlbKeep_keeps ..)
  · exact postReq_keeps ..
  · exact postReq_keeps ..
  · exact .rfl s

theorem countAccess_keeps (s : State) (die ea ln : Nat) : MemoryOnly s (countAccess s die ea ln) := by
  unfold countAccess
  refine MemoryOnly.caches s _ ?_ ?_ ?_ <;> (dsimp only; split <;> exact Eq.refl _)

theorem setMark_keeps (m : MemSys) (k : Nat) (b : Bool) : (m.setMark k b).phys = m.phys ∧ (m.setMark k b).rights = m.rights ∧ (m.setMark k b).seals = m.seals := ⟨Eq.refl _, Eq.refl _, Eq.refl _⟩

/-- A write-back to physical memory keeps the canonical form. -/
theorem physStore_keeps (m : MemSys) (pa : Nat) (x : Line) (mask : BitVec 128) :
    (Memory.wf m.phys → Memory.wf (physStore m pa x mask).phys) ∧ (physStore m pa x mask).rights = m.rights ∧ (physStore m pa x mask).seals = m.seals := by
  have marks (k : BitVec 4) (l : List Nat) (m : MemSys) : (l.foldl (fun m i => m.setMark (pa / 32 + i) (k.getLsbD i)) m).phys = m.phys ∧
      (l.foldl (fun m i => m.setMark (pa / 32 + i) (k.getLsbD i)) m).rights = m.rights ∧
      (l.foldl (fun m i => m.setMark (pa / 32 + i) (k.getLsbD i)) m).seals = m.seals := by
    induction l generalizing m with
    | nil => exact ⟨Eq.refl _, Eq.refl _, Eq.refl _⟩
    | cons a l ih => exact ih (m.setMark (pa / 32 + a) (k.getLsbD a))
  have bytes (l : List Nat) (c : List (Nat × Byte)) (h : cellsWf c = true) :
      cellsWf (l.foldl (fun c i => if mask.getLsbD i then cellSet c (pa + i) (x.data.extractLsb' (8 * i) 8) else c) c) = true := by
    induction l generalizing c with
    | nil => exact h
    | cons a l ih =>
      rw [List.foldl_cons]
      refine ih _ ?_
      split
      · exact cellsWf_set _ _ _ h
      · exact h
  unfold physStore
  generalize List.range 4 = a
  generalize List.range 128 = b
  generalize (x.full &&& x.poison) ||| (~~~x.full &&& (physMarks m pa ||| x.poison)) = k
  dsimp only
  split
  · exact ⟨bytes b _, Eq.refl _, Eq.refl _⟩
  · obtain ⟨h1, h2, h3⟩ := marks k a { m with phys := b.foldl (fun c i => if mask.getLsbD i then cellSet c (pa + i) (x.data.extractLsb' (8 * i) 8) else c) m.phys }
    exact ⟨fun h => h1.symm ▸ bytes b _ h, h2, h3⟩

theorem floorTo_keeps (s : State) (die ea ln v : Nat) : MemoryOnly s (floorTo s die ea ln v) := .caches s _ (Eq.refl _) (Eq.refl _) (Eq.refl _)

theorem raiseFloor_keeps (s : State) (die : Nat) (h : HomeLine) : MemoryOnly s (raiseFloor s die h) := floorTo_keeps ..

theorem intoBuffer_keeps {s t : State} {e : DWord} {h : HomeLine} (k : intoBuffer s e h = some t) : MemoryOnly s t := by
  unfold intoBuffer at k
  dsimp only at k
  split at k
  · cases k
    exact (raiseFloor_keeps s _ h).trans (.caches _ (fun m => { homeDel (bufDel m _ _) _ _ with buf := (bufDel m _ _).buf ++ [_] }) (Eq.refl _) (Eq.refl _) (Eq.refl _))
  · split at k
    · cases k
      exact (raiseFloor_keeps s _ h).trans (.caches _ (fun m => homeDel m _ _) (Eq.refl _) (Eq.refl _) (Eq.refl _))
    · split at k
      · cases k
      · cases k
        exact (raiseFloor_keeps s _ h).trans (.caches _ (fun m => { homeDel m _ _ with buf := m.buf ++ [_] }) (Eq.refl _) (Eq.refl _) (Eq.refl _))

theorem intoBuffer_getD_keeps (s : State) (e : DWord) (h : HomeLine) : MemoryOnly s ((intoBuffer s e h).getD s) := by
  cases k : intoBuffer s e h with
  | none => exact .rfl s
  | some t => exact intoBuffer_keeps k

theorem evictInto_keeps (s : State) (h : HomeLine) : MemoryOnly s (evictInto s h) := by
  unfold evictInto
  split
  · exact (raiseFloor_keeps s _ h).trans (.caches _ (fun m => homeDel m _ _) (Eq.refl _) (Eq.refl _) (Eq.refl _))
  · have c := translate_keeps s h.ea h.ln 3
    generalize translate s h.ea h.ln 3 = q at c
    obtain ⟨w, z⟩ := q
    refine MemoryOnly.trans c ?_
    cases z with
    | present e pa =>
      dsimp only
      split
      · exact intoBuffer_getD_keeps ..
      · refine (raiseFloor_keeps w (leafHome e) h).trans ?_
        by_cases f : fencedPa w (leafHome e) pa = true
        · simp only [f, if_true]
          exact .caches _ (fun m => homeDel m _ _) (Eq.refl _) (Eq.refl _) (Eq.refl _)
        · simp only [f]
          exact .mem _ (fun m => homeDel (physStore m _ _ _) _ _) (physStore_keeps _ _ _ _).2.1 (physStore_keeps _ _ _ _).2.2 (physStore_keeps _ _ _ _).1
    | absent e => exact intoBuffer_getD_keeps ..
    | fail => exact (raiseFloor_keeps w _ h).trans (.caches _ (fun m => { homeDel m _ _ with drops := m.drops ++ [_] }) (Eq.refl _) (Eq.refl _) (Eq.refl _))

theorem homeEvict_keeps (s : State) (h : HomeLine) : MemoryOnly s (homeEvict s h) := by
  unfold homeEvict
  have a := recallLine_keeps s h
  generalize recallLine s h = r at a
  obtain ⟨t, x⟩ := r
  exact MemoryOnly.trans a ((tagsLost_keeps _ _).trans (evictInto_keeps _ x))

theorem homeRoom_keeps {s t : State} {ea ln : Nat} (h : homeRoom s ea ln = some t) : MemoryOnly s t := by
  unfold homeRoom at h
  split at h
  · cases h
    exact .rfl s
  · dsimp only at h
    split at h
    · cases h
      exact .rfl s
    · split at h
      · cases h
        exact .caches s _ (Eq.refl _) (Eq.refl _) (Eq.refl _)
      · obtain ⟨x, _, e⟩ := List.exists_of_findSome?_eq_some h
        split at e
        · cases e
          exact homeEvict_keeps s x
        · cases e

theorem homeTake_keeps (s : State) (ea ln kind : Nat) : (homeTake s ea ln kind).MemoryOnly s := by
  unfold homeTake
  have h := translate_keeps s ea ln kind
  generalize translate s ea ln kind = r at h
  obtain ⟨t, z⟩ := r
  dsimp only at h ⊢
  split
  · exact h
  · split
    · exact h
    · exact MemoryOnly.trans h (.caches _ _ (Eq.refl _) (Eq.refl _) (Eq.refl _))
  · exact MemoryOnly.trans h (.caches _ _ (Eq.refl _) (Eq.refl _) (Eq.refl _))

theorem homeFillR_keeps (s : State) (ea ln kind : Nat) (must : Bool) : (homeFillR s ea ln kind must).MemoryOnly s := by
  unfold homeFillR
  split
  · exact MemoryOnly.rfl s
  · split
    · rename_i e
      exact Got.MemoryOnly.after (homeRoom_keeps e) (homeTake_keeps ..)
    · split
      · exact homeTake_keeps ..
      · trivial

theorem homeFill_keeps (s : State) (ea ln kind : Nat) : (homeFill s ea ln kind).MemoryOnly s := homeFillR_keeps ..

theorem homeFillW_keeps (s : State) (ea ln kind : Nat) (must : Bool) : (homeFillW s ea ln kind must).MemoryOnly s := by
  have h := homeFillR_keeps s ea ln kind must
  unfold homeFillW
  split
  · rename_i e
    rw [e] at h
    split
    · trivial
    · exact MemoryOnly.trans h (homePut_keeps _ _)
  · exact h

theorem countServed_keeps (s : State) (team : Option Nat) : MemoryOnly s (countServed s team) := by
  cases team with
  | none => exact .rfl s
  | some t => exact .caches s (fun m => { m with served := cellSet m.served t (cellGet m.served t + 1) }) (Eq.refl _) (Eq.refl _) (Eq.refl _)

theorem homeServe_keeps (s : State) (team die : Option Nat) (ea ln kind : Nat) (write : Bool) : (homeServe s team die ea ln kind write).MemoryOnly s := by
  unfold homeServe
  split
  · trivial
  split
  · trivial
  · have h : (if write then homeFillW s ea ln kind false else homeFill s ea ln kind).MemoryOnly s := by
      split
      · exact homeFillW_keeps ..
      · exact homeFill_keeps ..
    split
    · rename_i t x e
      rw [e] at h
      have k := recallLine_keeps t x
      generalize recallLine t x = r at k
      obtain ⟨v, y⟩ := r
      refine MemoryOnly.trans h (MemoryOnly.trans k ((homeTouch_keeps v y team).trans ((countServed_keeps _ team).trans ?_)))
      split
      · exact .rfl _
      · exact countAccess_keeps ..
    · exact h

theorem homeGet_keeps (s : State) (w : Option Who) (ea ln kind : Nat) (write : Bool) : (homeGet s w ea ln kind write).MemoryOnly s := homeServe_keeps ..

theorem preImage_keeps (s : State) (t : Nat) (h : HomeLine) : MemoryOnly s (preImage s t h).1 := by
  unfold preImage
  dsimp only
  split
  · exact .rfl s
  · split
    · exact .rfl s
    · split
      · exact (homeTouch_keeps s h (some t)).trans (.ineligible _ t)
      · exact (homeTouch_keeps s h (some t)).trans (homePut_keeps _ (fun _ => _))

theorem homeMerge_keeps (s : State) (h : HomeLine) (inc : Line) : MemoryOnly s (homeMerge s h inc) := homePut_keeps s (fun _ => _)

theorem writeBack_keeps (s : State) (core ea ln : Nat) : MemoryOnly s (writeBack s core ea ln) := by
  unfold writeBack
  split
  · exact .rfl s
  · split
    · exact .rfl s
    · dsimp only
      have h := homeFillW_keeps s ea ln 3 true
      split
      · rename_i e
        rw [e] at h
        exact MemoryOnly.trans h ((homeTouch_keeps _ _ _).trans ((homeMerge_keeps _ _ _).trans (l1Put_keeps _ _)))
      · rename_i e
        rw [e] at h
        exact MemoryOnly.trans h (.caches _ _ (Eq.refl _) (Eq.refl _) (Eq.refl _))
      · exact .rfl s

theorem l1End_keeps (s : State) (core ea ln : Nat) : MemoryOnly s (l1End s core ea ln) := by
  unfold l1End
  have h := writeBack_keeps s core ea ln
  have d (s : State) : MemoryOnly s (s.modMem (fun m => l1Del m core ea ln)) := .caches _ _ (Eq.refl _) (Eq.refl _) (Eq.refl _)
  dsimp only
  split
  · exact h
  · split
    · split
      · split
        · exact (h.trans (d _)).trans (homePut_keeps _ _)
        · exact h.trans (d _)
      · exact h.trans (d _)
    · exact h.trans (d _)

theorem wbLines_keeps (s : State) (p : L1Line → Bool) : MemoryOnly s (wbLines s p) := .fold _ _ (fun s _ => writeBack_keeps s _ _ _) s
theorem invLines_keeps (s : State) (p : L1Line → Bool) : MemoryOnly s (invLines s p) := .fold _ _ (fun s _ => l1End_keeps s _ _ _) s
theorem coreRelease_keeps (s : State) (core : Nat) : MemoryOnly s (coreRelease s core) := wbLines_keeps s _
theorem coreAcquire_keeps (s : State) (core : Nat) : MemoryOnly s (coreAcquire s core) := invLines_keeps s _

-- Accesses

theorem l1Room_keeps (s : State) (core ea ln : Nat) : MemoryOnly s (l1Room s core ea ln) := by
  unfold l1Room
  split
  · exact .rfl s
  · split
    · exact .rfl s
    · split
      · exact .rfl s
      · exact l1End_keeps ..

/-- A copy ends and its place is free for the line. -/
theorem makeRoom_keeps (s : State) (core ea ln : Nat) : MemoryOnly s (l1Room (l1End s core ea ln) core ea ln) :=
  (l1End_keeps ..).trans (l1Room_keeps ..)

theorem l1Read_keeps (s : State) (w : Who) (ea ln : Nat) (need : BitVec 128) (lc kind : Nat) : (l1Read s w ea ln need lc kind).MemoryOnly s := by
  unfold l1Read
  dsimp only
  split
  · exact MemoryOnly.rfl s
  · refine Got.MemoryOnly.after (makeRoom_keeps s w.core ea ln) ?_
    have h := homeGet_keeps (l1Room (l1End s w.core ea ln) w.core ea ln) (some w) ea ln kind false
    split <;> (rename_i e; rw [e] at h)
    · split
      · exact MemoryOnly.trans h (postReq_keeps ..)
      · split
        · exact h
        · exact MemoryOnly.trans h (l1Put_keeps _ _)
    · exact h
    · exact h
    · trivial

theorem homeRead_keeps (s : State) (w : Who) (ea ln : Nat) (need : BitVec 128) (kind : Nat) : (homeRead s w ea ln need kind).MemoryOnly s := by
  unfold homeRead
  have h := homeGet_keeps (l1End s w.core ea ln) (some w) ea ln kind false
  refine Got.MemoryOnly.after (l1End_keeps s w.core ea ln) ?_
  dsimp only
  split
  · rename_i e
    rw [e] at h
    split
    · exact MemoryOnly.trans h (postReq_keeps ..)
    · exact h
  · exact h

theorem l1Own_keeps (s : State) (w : Who) (ea ln : Nat) : (l1Own s w ea ln).MemoryOnly s := by
  unfold l1Own
  dsimp only
  split
  · exact MemoryOnly.rfl s
  · have h := homeGet_keeps (l1Room (l1End s w.core ea ln) w.core ea ln) (some w) ea ln 2 true
    refine Got.MemoryOnly.after (makeRoom_keeps s w.core ea ln) ?_
    split <;> (rename_i e; rw [e] at h)
    · rename_i v x
      have k := preImage_keeps v w.team x
      generalize preImage v w.team x = r at k
      obtain ⟨y, z⟩ := r
      exact MemoryOnly.trans h (MemoryOnly.trans k (.caches _ (fun m => l1Put (homePut m _) _) (Eq.refl _) (Eq.refl _) (Eq.refl _)))
    · exact h
    · exact h
    · trivial

theorem l1Write_keeps (s : State) (w : Who) (cls ea ln : Nat) (inc : Line) : (l1Write s w cls ea ln inc).MemoryOnly s := by
  unfold l1Write
  have k : MemoryOnly s (if cls != 1 && (s.team w.team).rollb then s.ineligible w.team else s) := by
    split
    · exact .ineligible s _
    · exact .rfl s
  refine Got.MemoryOnly.after k ?_
  generalize (if cls != 1 && (s.team w.team).rollb then s.ineligible w.team else s) = u
  dsimp only
  split
  · exact (l1Room_keeps ..).trans (l1Put_keeps _ _)
  · have h := l1Own_keeps u w ea ln
    split <;> (rename_i e; rw [e] at h)
    · exact MemoryOnly.trans h (l1Put_keeps _ _)
    · exact h
    · exact h
    · trivial

theorem homeWrite_keeps (s : State) (w : Option Who) (ea ln : Nat) (inc : Line) : (homeWrite s w ea ln inc).MemoryOnly s := by
  cases w with
  | none =>
    unfold homeWrite
    have h := homeGet_keeps s none ea ln 2 true
    dsimp only
    split <;> (rename_i e; rw [e] at h)
    · exact MemoryOnly.trans h (homeMerge_keeps _ _ _)
    · exact h
    · exact h
    · trivial
  | some w =>
    unfold homeWrite
    have h := homeGet_keeps (l1End s w.core ea ln) (some w) ea ln 2 true
    refine Got.MemoryOnly.after (l1End_keeps s w.core ea ln) ?_
    dsimp only
    split <;> (rename_i e; rw [e] at h)
    · rename_i y z
      have k := preImage_keeps y w.team z
      generalize preImage y w.team z = r at k
      obtain ⟨x, _⟩ := r
      exact MemoryOnly.trans h (MemoryOnly.trans k (homeMerge_keeps _ _ _))
    · exact h
    · exact h
    · trivial

theorem checkPage_keeps (s : State) (w : Who) (ea page : Nat) (nd : Need) (rv : Bool) : (checkPage s w ea page nd rv).MemoryOnly s := by
  unfold checkPage
  have h := rightsOf_keeps s w.core w.pn ea page
  generalize rightsOf s w.core w.pn ea page = r at h
  obtain ⟨t, z⟩ := r
  dsimp only at h ⊢
  split
  · exact h
  · exact h
  · split
    · exact h
    · split
      · trivial
      · exact h

theorem checkAccess_keeps (s : State) (w : Who) (va : DWord) (al : Nat) (nd : Need) (rv : Bool) : (checkAccess s w va al nd rv).MemoryOnly s := by
  unfold checkAccess
  split
  · exact MemoryOnly.rfl s
  · split
    · exact MemoryOnly.rfl s
    · exact checkPage_keeps ..

-- Accesses of the device

theorem devRead_keeps (s : State) (w : Who) (va : DWord) (n : Nat) : (devRead s w va n).MemoryOnly s := by
  refine Got.MemoryOnly.fold _ _ s (fun r j hr => ?_) _ (MemoryOnly.rfl s)
  split
  · rename_i u acc
    have hu : MemoryOnly s u := hr
    refine Got.MemoryOnly.after hu ?_
    dsimp only
    generalize (if j = 0 then va else BitVec.ofNat 64 ((va.toNat / 128 + j) * 128)) = start
    have h := homeGet_keeps u (some w) (eaOf w.asid start) (lnOf start) 5 false
    split <;> (rename_i e; rw [e] at h)
    · split
      · exact MemoryOnly.trans h (postReq_keeps ..)
      · split
        · exact h
        · exact h
    · exact h
    · exact h
    · trivial
  · exact hr

theorem endCopies_keeps (s : State) (p : L1Line → Bool) : MemoryOnly s ((s.mem.l1.filter p).foldl (fun s x => l1End s x.core x.ea x.ln) s) :=
  .fold _ _ (fun s _ => l1End_keeps s _ _ _) s

theorem devWriteAs_keeps (s : State) (w : Who) (die : Option Nat) (tag : Option Tag) (va : DWord) (n v : Nat) : (devWriteAs s w die tag va n v).MemoryOnly s := by
  refine Got.MemoryOnly.fold _ _ s (fun r j hr => ?_) _ (MemoryOnly.rfl s)
  split
  · rename_i u acc
    have hu : MemoryOnly s u := hr
    refine Got.MemoryOnly.after hu ?_
    dsimp only
    generalize (if j = 0 then va else BitVec.ofNat 64 ((va.toNat / 128 + j) * 128)) = start
    refine Got.MemoryOnly.after (endCopies_keeps u (fun x => x.ea == eaOf w.asid start && x.ln == lnOf start && !x.owned)) ?_
    generalize (u.mem.l1.filter (fun x => x.ea == eaOf w.asid start && x.ln == lnOf start && !x.owned)).foldl (fun s x => l1End s x.core x.ea x.ln) u = y
    have h := homeServe_keeps y (some w.team) die (eaOf w.asid start) (lnOf start) 5 true
    split <;> (rename_i e; rw [e] at h)
    · exact MemoryOnly.trans h (homeMerge_keeps _ _ _)
    · exact h
    · exact h
    · trivial
  · exact hr

theorem devWrite_keeps (s : State) (w : Who) (va : DWord) (n v : Nat) : (devWrite s w va n v).MemoryOnly s := devWriteAs_keeps ..

theorem devWriteLine_keeps (s : State) (w : Who) (va : DWord) (v : Nat) (poison : BitVec 4) : (devWriteLine s w va v poison).MemoryOnly s := by
  unfold devWriteLine
  dsimp only
  refine Got.MemoryOnly.after (endCopies_keeps s (fun x => x.ea == eaOf w.asid va && x.ln == lnOf va && !x.owned)) ?_
  generalize (s.mem.l1.filter (fun x => x.ea == eaOf w.asid va && x.ln == lnOf va && !x.owned)).foldl (fun s x => l1End s x.core x.ea x.ln) s = y
  have h := homeGet_keeps y (some w) (eaOf w.asid va) (lnOf va) 5 true
  split <;> (rename_i e; rw [e] at h)
  · exact MemoryOnly.trans h (homeMerge_keeps _ _ _)
  · exact h
  · exact h
  · trivial

theorem devReadLine_keeps (s : State) (w : Who) (va : DWord) : (devReadLine s w va).MemoryOnly s := by
  unfold devReadLine
  have h := homeGet_keeps s (some w) (eaOf w.asid va) (lnOf va) 5 false
  dsimp only
  split <;> (rename_i e; rw [e] at h)
  · split
    · exact MemoryOnly.trans h (postReq_keeps ..)
    · exact h
  · exact h
  · exact h
  · trivial

theorem askBack_keeps (s : State) (h : Option Nat) : MemoryOnly s (s.askBack h) := by
  unfold State.askBack
  split
  · exact .rfl s
  · rename_i k
    split
    · exact .rfl s
    · exact .caches s (fun m => { m with hostWait := m.hostWait ++ [(k, s.clock.ns)] }) (Eq.refl _) (Eq.refl _) (Eq.refl _)

theorem devPut_keeps (s : State) (w : Who) (va : DWord) (n v : Nat) : MemoryOnly s (devPut s w va n v) := by
  unfold devPut
  dsimp only
  refine MemoryOnly.trans (MemoryOnly.caches s (fun m => { m with puts := m.puts.filter (fun p => !(p.asid == w.asid && p.va == va)) })
    (Eq.refl _) (Eq.refl _) (Eq.refl _)) ?_
  generalize (s.modMem _) = t
  have h := devWriteAs_keeps t w none none va n v
  split <;> (rename_i e; rw [e] at h)
  · exact h
  · exact h
  · exact h
  · exact (askBack_keeps _ _).trans (.caches _ _ (Eq.refl _) (Eq.refl _) (Eq.refl _))

end Sys2Proof.Machine
end

