-- ==== Sys2Proof/Laws/PerInstr.lean ====
section
/-! SUPPORT. Per instruction: the words of a well-formed instruction are as many as its major says (03 R64, R66), and an
event has none. One lemma per constructor of `Instr`, and the facts about fields of appended words that they need. -/

namespace Sys2Proof.Laws

open Sys2Proof.Machine

/-- A field that lies above the low part of an append is a field of the high part. -/
theorem above {a b : Nat} (x : BitVec a) (y : BitVec b) (lo n : Nat) (h : b ≤ lo) : (x ++ y).extractLsb' lo n = x.extractLsb' (lo - b) n := by
  ext k hk
  rw [BitVec.getElem_extractLsb', BitVec.getElem_extractLsb', BitVec.getLsbD_append, if_neg (by simp; omega), show lo + k - b = lo - b + k by omega]

/-- The low part of an append is its lowest field. -/
theorem last {a b : Nat} (x : BitVec a) (y : BitVec b) : (x ++ y).extractLsb' 0 b = y := by
  ext k hk
  rw [BitVec.getElem_extractLsb', BitVec.getLsbD_append]
  simp [hk, BitVec.getLsbD_eq_getElem]

namespace Wf

/-- The first word of a well-formed instruction says by its major whether a second word follows, and it does just then. -/
def Statement (i : Instr) : Prop :=
  wf i = true → ∀ w rest, encode i = w :: rest → if xMajor (fld w 21 7).toNat then ∃ x, rest = [x] else rest = []

theorem one (i : Instr) (w : BitVec 32) (m : BitVec 7) (h : encode i = [w]) (hw : w.extractLsb' 21 7 = m) (hm : xMajor m.toNat = false) :
    Statement i := by
  intro _ w' rest e
  rw [h] at e
  injection e with e1 e2
  subst e1
  rw [fld, hw, hm]
  exact e2.symm

theorem two (i : Instr) (w x : BitVec 32) (m : BitVec 7) (h : encode i = [w, x]) (hw : w.extractLsb' 21 7 = m) (hm : xMajor m.toNat = true) :
    Statement i := by
  intro _ w' rest e
  rw [h] at e
  injection e with e1 e2
  subst e1
  rw [fld, hw, hm]
  exact ⟨x, e2.symm⟩

theorem reserved_one : ∀ op : BitVec 7, reservedOp op = true → xMajor op.toNat = false := by decide

theorem event (i : Instr) (h : encode i = []) : Statement i := fun _ _ _ e => nomatch h.symm.trans e

theorem clauseHeader (wait fa fb yh) : Statement (.clauseHeader wait fa fb yh) := one _ _ 0x7F#7 rfl (by rw [above, above, above, above, last] <;> decide) (by decide)
theorem reservedMajor (p op rest) : Statement (.reservedMajor p op rest) := fun h =>
  one _ _ op rfl (by rw [above, last] <;> decide)
    (reserved_one op (Bool.and_eq_true_iff.mp (Bool.and_eq_true_iff.mp h).2).1) h
theorem zeroWord : Statement (.zeroWord) := one _ _ 0#7 rfl (by decide) (by decide)
theorem mov (p d a) : Statement (.mov p d a) := one _ _ 0x01#7 rfl (by rw [above, above, above, last] <;> decide) (by decide)
theorem movi (p d imm) : Statement (.movi p d imm) := one _ _ 0x02#7 rfl (by rw [above, above, last] <;> decide) (by decide)
theorem movl (p d w64 imm) : Statement (.movl p d w64 imm) := two _ _ _ 0x03#7 rfl (by rw [above, above, above, above, last] <;> decide) (by decide)
theorem iadd (p d a b) : Statement (.iadd p d a b) := one _ _ 0x04#7 rfl (by rw [above, above, above, last] <;> decide) (by decide)
theorem isub (p d a b) : Statement (.isub p d a b) := one _ _ 0x05#7 rfl (by rw [above, above, above, last] <;> decide) (by decide)
theorem iaddi (p d a imm) : Statement (.iaddi p d a imm) := one _ _ 0x06#7 rfl (by rw [above, above, above, last] <;> decide) (by decide)
theorem iadd64 (p d a b) : Statement (.iadd64 p d a b) := one _ _ 0x07#7 rfl (by rw [above, above, above, last] <;> decide) (by decide)
theorem imul (p d a b) : Statement (.imul p d a b) := one _ _ 0x08#7 rfl (by rw [above, above, above, last] <;> decide) (by decide)
theorem imulh (p d a b) : Statement (.imulh p d a b) := one _ _ 0x09#7 rfl (by rw [above, above, above, last] <;> decide) (by decide)
theorem imulhu (p d a b) : Statement (.imulhu p d a b) := one _ _ 0x0A#7 rfl (by rw [above, above, above, last] <;> decide) (by decide)
theorem imad (p d a b cr u sat w64) : Statement (.imad p d a b cr u sat w64) := two _ _ _ 0x0B#7 rfl (by rw [above, above, above, last] <;> decide) (by decide)
theorem imin (p d a b) : Statement (.imin p d a b) := one _ _ 0x0C#7 rfl (by rw [above, above, above, last] <;> decide) (by decide)
theorem imax (p d a b) : Statement (.imax p d a b) := one _ _ 0x0D#7 rfl (by rw [above, above, above, last] <;> decide) (by decide)
theorem umin (p d a b) : Statement (.umin p d a b) := one _ _ 0x0E#7 rfl (by rw [above, above, above, last] <;> decide) (by decide)
theorem umax (p d a b) : Statement (.umax p d a b) := one _ _ 0x0F#7 rfl (by rw [above, above, above, last] <;> decide) (by decide)
theorem and (p d a b) : Statement (.and p d a b) := one _ _ 0x10#7 rfl (by rw [above, above, above, last] <;> decide) (by decide)
theorem or (p d a b) : Statement (.or p d a b) := one _ _ 0x11#7 rfl (by rw [above, above, above, last] <;> decide) (by decide)
theorem xor (p d a b) : Statement (.xor p d a b) := one _ _ 0x12#7 rfl (by rw [above, above, above, last] <;> decide) (by decide)
theorem andn (p d a b) : Statement (.andn p d a b) := one _ _ 0x13#7 rfl (by rw [above, above, above, last] <;> decide) (by decide)
theorem shl (p d a b) : Statement (.shl p d a b) := one _ _ 0x14#7 rfl (by rw [above, above, above, last] <;> decide) (by decide)
theorem shr (p d a b) : Statement (.shr p d a b) := one _ _ 0x15#7 rfl (by rw [above, above, above, last] <;> decide) (by decide)
theorem sar (p d a b) : Statement (.sar p d a b) := one _ _ 0x16#7 rfl (by rw [above, above, above, last] <;> decide) (by decide)
theorem shli (p d a n) : Statement (.shli p d a n) := one _ _ 0x17#7 rfl (by rw [above, above, above, above, last] <;> decide) (by decide)
theorem shri (p d a n) : Statement (.shri p d a n) := one _ _ 0x17#7 rfl (by rw [above, above, above, above, last] <;> decide) (by decide)
theorem sari (p d a n) : Statement (.sari p d a n) := one _ _ 0x17#7 rfl (by rw [above, above, above, above, last] <;> decide) (by decide)
theorem roti (p d a n) : Statement (.roti p d a n) := one _ _ 0x17#7 rfl (by rw [above, above, above, above, last] <;> decide) (by decide)
theorem bfe (p d a u len pos) : Statement (.bfe p d a u len pos) := two _ _ _ 0x18#7 rfl (by rw [above, above, above, last] <;> decide) (by decide)
theorem bfi (p d a b len pos) : Statement (.bfi p d a b len pos) := two _ _ _ 0x19#7 rfl (by rw [above, above, above, last] <;> decide) (by decide)
theorem popc (p d a) : Statement (.popc p d a) := one _ _ 0x1A#7 rfl (by rw [above, above, above, last] <;> decide) (by decide)
theorem clz (p d a) : Statement (.clz p d a) := one _ _ 0x1A#7 rfl (by rw [above, above, above, last] <;> decide) (by decide)
theorem ctz (p d a) : Statement (.ctz p d a) := one _ _ 0x1A#7 rfl (by rw [above, above, above, last] <;> decide) (by decide)
theorem brev (p d a) : Statement (.brev p d a) := one _ _ 0x1A#7 rfl (by rw [above, above, above, last] <;> decide) (by decide)
theorem icmp (p d a b cmp w64 imm q bop e) : Statement (.icmp p d a b cmp w64 imm q bop e) := two _ _ _ 0x1B#7 rfl (by rw [above, above, above, last] <;> decide) (by decide)
theorem sel (p d a b q w64) : Statement (.sel p d a b q w64) := two _ _ _ 0x1C#7 rfl (by rw [above, above, above, last] <;> decide) (by decide)
theorem pbool (p d a b cp e lut) : Statement (.pbool p d a b cp e lut) := two _ _ _ 0x1D#7 rfl (by rw [above, above, above, last] <;> decide) (by decide)
theorem lea (p d a b sh u off) : Statement (.lea p d a b sh u off) := two _ _ _ 0x1E#7 rfl (by rw [above, above, above, last] <;> decide) (by decide)
theorem s2v (p d a) : Statement (.s2v p d a) := one _ _ 0x1F#7 rfl (by rw [above, above, above, last] <;> decide) (by decide)
theorem v2s (p d a) : Statement (.v2s p d a) := one _ _ 0x1F#7 rfl (by rw [above, above, above, last] <;> decide) (by decide)
theorem smovl (p d a) : Statement (.smovl p d a) := one _ _ 0x1F#7 rfl (by rw [above, above, above, last] <;> decide) (by decide)
theorem s2v64 (p d a) : Statement (.s2v64 p d a) := one _ _ 0x1F#7 rfl (by rw [above, above, above, last] <;> decide) (by decide)
theorem v2s64 (p d a) : Statement (.v2s64 p d a) := one _ _ 0x1F#7 rfl (by rw [above, above, above, last] <;> decide) (by decide)
theorem fadd (p d a b) : Statement (.fadd p d a b) := one _ _ 0x20#7 rfl (by rw [above, above, above, last] <;> decide) (by decide)
theorem fsub (p d a b) : Statement (.fsub p d a b) := one _ _ 0x21#7 rfl (by rw [above, above, above, last] <;> decide) (by decide)
theorem fmul (p d a b) : Statement (.fmul p d a b) := one _ _ 0x22#7 rfl (by rw [above, above, above, last] <;> decide) (by decide)
theorem ffma (p d a b cr rm) : Statement (.ffma p d a b cr rm) := two _ _ _ 0x23#7 rfl (by rw [above, above, above, last] <;> decide) (by decide)
theorem fmin (p d a b) : Statement (.fmin p d a b) := one _ _ 0x24#7 rfl (by rw [above, above, above, last] <;> decide) (by decide)
theorem fmax (p d a b) : Statement (.fmax p d a b) := one _ _ 0x25#7 rfl (by rw [above, above, above, last] <;> decide) (by decide)
theorem fcmp (p d a b cmp fmt q bop e) : Statement (.fcmp p d a b cmp fmt q bop e) := two _ _ _ 0x26#7 rfl (by rw [above, above, above, last] <;> decide) (by decide)
theorem fopx (p d a b cr opn fmt rm) : Statement (.fopx p d a b cr opn fmt rm) := two _ _ _ 0x27#7 rfl (by rw [above, above, above, last] <;> decide) (by decide)
theorem fcvt (p d a sfmt dfmt rm) : Statement (.fcvt p d a sfmt dfmt rm) := two _ _ _ 0x28#7 rfl (by rw [above, above, above, last] <;> decide) (by decide)
theorem i2f (p d a fmt u w64 rm) : Statement (.i2f p d a fmt u w64 rm) := two _ _ _ 0x29#7 rfl (by rw [above, above, above, last] <;> decide) (by decide)
theorem f2i (p d a fmt u w64 rm) : Statement (.f2i p d a fmt u w64 rm) := two _ _ _ 0x2A#7 rfl (by rw [above, above, above, last] <;> decide) (by decide)
theorem fabs (p d a fmt) : Statement (.fabs p d a fmt) := one _ _ 0x2B#7 rfl (by rw [above, above, above, above, above, last] <;> decide) (by decide)
theorem fneg (p d a fmt) : Statement (.fneg p d a fmt) := one _ _ 0x2B#7 rfl (by rw [above, above, above, above, above, last] <;> decide) (by decide)
theorem fclass (p d a fmt) : Statement (.fclass p d a fmt) := one _ _ 0x2B#7 rfl (by rw [above, above, above, above, above, last] <;> decide) (by decide)
theorem rint (p d a rm fmt) : Statement (.rint p d a rm fmt) := one _ _ 0x2B#7 rfl (by rw [above, above, above, above, above, last] <;> decide) (by decide)
theorem hfma2 (p d a b cr rm bf) : Statement (.hfma2 p d a b cr rm bf) := two _ _ _ 0x2C#7 rfl (by rw [above, above, above, last] <;> decide) (by decide)
theorem mxq (p d a b sel rm) : Statement (.mxq p d a b sel rm) := two _ _ _ 0x2D#7 rfl (by rw [above, above, above, last] <;> decide) (by decide)
theorem mxdq (p d a b fmtc dfmt rm) : Statement (.mxdq p d a b fmtc dfmt rm) := two _ _ _ 0x2E#7 rfl (by rw [above, above, above, last] <;> decide) (by decide)
theorem fdiv (p d a b fmt rm) : Statement (.fdiv p d a b fmt rm) := two _ _ _ 0x30#7 rfl (by rw [above, above, above, last] <;> decide) (by decide)
theorem fsqrt (p d a fmt rm) : Statement (.fsqrt p d a fmt rm) := two _ _ _ 0x31#7 rfl (by rw [above, above, above, last] <;> decide) (by decide)
theorem frsq (p d a fmt rm) : Statement (.frsq p d a fmt rm) := two _ _ _ 0x32#7 rfl (by rw [above, above, above, last] <;> decide) (by decide)
theorem fex2 (p d a) : Statement (.fex2 p d a) := one _ _ 0x33#7 rfl (by rw [above, above, above, last] <;> decide) (by decide)
theorem flg2 (p d a) : Statement (.flg2 p d a) := one _ _ 0x34#7 rfl (by rw [above, above, above, last] <;> decide) (by decide)
theorem idiv (p d a b e hase u w64) : Statement (.idiv p d a b e hase u w64) := two _ _ _ 0x35#7 rfl (by rw [above, above, above, last] <;> decide) (by decide)
theorem ld (p d a sz sx atm lc off) : Statement (.ld p d a sz sx atm lc off) := two _ _ _ 0x38#7 rfl (by rw [above, above, above, last] <;> decide) (by decide)
theorem st (p a b sz atm off) : Statement (.st p a b sz atm off) := two _ _ _ 0x39#7 rfl (by rw [above, above, above, last] <;> decide) (by decide)
theorem lds (p d a sz sx) : Statement (.lds p d a sz sx) := one _ _ 0x3A#7 rfl (by rw [above, above, above, above, above, last] <;> decide) (by decide)
theorem sts (p sz a b) : Statement (.sts p sz a b) := one _ _ 0x3B#7 rfl (by rw [above, above, above, above, last] <;> decide) (by decide)
theorem atom (p d a b aop w64 ord scope cr off) : Statement (.atom p d a b aop w64 ord scope cr off) := two _ _ _ 0x3C#7 rfl (by rw [above, above, above, last] <;> decide) (by decide)
theorem cas128 (p d a b cr sp ord scope off) : Statement (.cas128 p d a b cr sp ord scope off) := two _ _ _ 0x3D#7 rfl (by rw [above, above, above, last] <;> decide) (by decide)
theorem red (p a b aop w64 ord scope off) : Statement (.red p a b aop w64 ord scope off) := two _ _ _ 0x3E#7 rfl (by rw [above, above, above, last] <;> decide) (by decide)
theorem waitc (p d a b cmp w64 acq scope off) : Statement (.waitc p d a b cmp w64 acq scope off) := two _ _ _ 0x3F#7 rfl (by rw [above, above, above, last] <;> decide) (by decide)
theorem fence (p kind scope) : Statement (.fence p kind scope) := one _ _ 0x40#7 rfl (by rw [above, above, above, above, last] <;> decide) (by decide)
theorem acq (p d a scope off) : Statement (.acq p d a scope off) := two _ _ _ 0x41#7 rfl (by rw [above, above, above, last] <;> decide) (by decide)
theorem rel (p a b scope off) : Statement (.rel p a b scope off) := two _ _ _ 0x42#7 rfl (by rw [above, above, above, last] <;> decide) (by decide)
theorem bind (p d a b lr) : Statement (.bind p d a b lr) := two _ _ _ 0x43#7 rfl (by rw [above, above, above, last] <;> decide) (by decide)
theorem unbind (p a) : Statement (.unbind p a) := two _ _ _ 0x43#7 rfl (by rw [above, above, above, last] <;> decide) (by decide)
theorem cinv (p a b) : Statement (.cinv p a b) := two _ _ _ 0x44#7 rfl (by rw [above, above, above, last] <;> decide) (by decide)
theorem cwb (p a b) : Statement (.cwb p a b) := two _ _ _ 0x44#7 rfl (by rw [above, above, above, last] <;> decide) (by decide)
theorem cdis (p d a b) : Statement (.cdis p d a b) := two _ _ _ 0x44#7 rfl (by rw [above, above, above, last] <;> decide) (by decide)
theorem pref (p a lc x) : Statement (.pref p a lc x) := one _ _ 0x46#7 rfl (by rw [above, above, above, above, above, last] <;> decide) (by decide)
theorem shfl (p d a b) : Statement (.shfl p d a b) := one _ _ 0x47#7 rfl (by rw [above, above, above, last] <;> decide) (by decide)
theorem pollAll (p d a) : Statement (.pollAll p d a) := one _ _ 0x48#7 rfl (by rw [above, above, above, last] <;> decide) (by decide)
theorem pollAny (p d a) : Statement (.pollAny p d a) := one _ _ 0x48#7 rfl (by rw [above, above, above, last] <;> decide) (by decide)
theorem pollSame (p d a) : Statement (.pollSame p d a) := one _ _ 0x48#7 rfl (by rw [above, above, above, last] <;> decide) (by decide)
theorem pollMask (p d a) : Statement (.pollMask p d a) := one _ _ 0x48#7 rfl (by rw [above, above, above, last] <;> decide) (by decide)
theorem bra (p off) : Statement (.bra p off) := one _ _ 0x50#7 rfl (by rw [above, last] <;> decide) (by decide)
theorem brx (p a) : Statement (.brx p a) := one _ _ 0x51#7 rfl (by rw [above, above, above, last] <;> decide) (by decide)
theorem call (p off) : Statement (.call p off) := one _ _ 0x52#7 rfl (by rw [above, last] <;> decide) (by decide)
theorem callx (p d a) : Statement (.callx p d a) := one _ _ 0x53#7 rfl (by rw [above, above, above, last] <;> decide) (by decide)
theorem ret (p a) : Statement (.ret p a) := one _ _ 0x54#7 rfl (by rw [above, above, above, last] <;> decide) (by decide)
theorem exit (p) : Statement (.exit p) := one _ _ 0x55#7 rfl (by rw [above, last] <;> decide) (by decide)
theorem rcvb (p d parkok) : Statement (.rcvb p d parkok) := one _ _ 0x56#7 rfl (by rw [above, above, above, above, last] <;> decide) (by decide)
theorem rcvw (p d) : Statement (.rcvw p d) := one _ _ 0x57#7 rfl (by rw [above, above, last] <;> decide) (by decide)
theorem tbar (p) : Statement (.tbar p) := one _ _ 0x58#7 rfl (by rw [above, last] <;> decide) (by decide)
theorem nbarInit (p d a) : Statement (.nbarInit p d a) := one _ _ 0x59#7 rfl (by rw [above, above, above, last] <;> decide) (by decide)
theorem nbarArrive (p d a) : Statement (.nbarArrive p d a) := one _ _ 0x59#7 rfl (by rw [above, above, above, last] <;> decide) (by decide)
theorem nbarWait (p d a) : Statement (.nbarWait p d a) := one _ _ 0x59#7 rfl (by rw [above, above, above, last] <;> decide) (by decide)
theorem nbarArriveWait (p d a) : Statement (.nbarArriveWait p d a) := one _ _ 0x59#7 rfl (by rw [above, above, above, last] <;> decide) (by decide)
theorem gbar (p n) : Statement (.gbar p n) := one _ _ 0x5A#7 rfl (by rw [above, above, above, last] <;> decide) (by decide)
theorem nop (p) : Statement (.nop p) := one _ _ 0x5B#7 rfl (by rw [above, above, last] <;> decide) (by decide)
theorem yield (p) : Statement (.yield p) := one _ _ 0x5B#7 rfl (by rw [above, above, last] <;> decide) (by decide)
theorem sleep (p n) : Statement (.sleep p n) := one _ _ 0x5B#7 rfl (by rw [above, above, last] <;> decide) (by decide)
theorem trap (p n) : Statement (.trap p n) := one _ _ 0x5C#7 rfl (by rw [above, above, last] <;> decide) (by decide)
theorem eret (p) : Statement (.eret p) := one _ _ 0x5D#7 rfl (by rw [above, last] <;> decide) (by decide)
theorem mma (p d a b fmt amode zc tr t) : Statement (.mma p d a b fmt amode zc tr t) := two _ _ _ 0x60#7 rfl (by rw [above, above, above, last] <;> decide) (by decide)
theorem tld (p d a t) : Statement (.tld p d a t) := two _ _ _ 0x61#7 rfl (by rw [above, above, above, last] <;> decide) (by decide)
theorem tst (p d a t) : Statement (.tst p d a t) := two _ _ _ 0x62#7 rfl (by rw [above, above, above, last] <;> decide) (by decide)
theorem cpy (p d a b dk sk esz t) : Statement (.cpy p d a b dk sk esz t) := two _ _ _ 0x63#7 rfl (by rw [above, above, above, last] <;> decide) (by decide)
theorem gathf (p d a b lk t) : Statement (.gathf p d a b lk t) := two _ _ _ 0x64#7 rfl (by rw [above, above, above, last] <;> decide) (by decide)
theorem scatf (p d a b lk rop t) : Statement (.scatf p d a b lk rop t) := two _ _ _ 0x65#7 rfl (by rw [above, above, above, last] <;> decide) (by decide)
theorem flu (p d a b fmt nm1 batch trap pms t) : Statement (.flu p d a b fmt nm1 batch trap pms t) := two _ _ _ 0x66#7 rfl (by rw [above, above, above, last] <;> decide) (by decide)
theorem fchol (p d a b fmt nm1 batch trap t) : Statement (.fchol p d a b fmt nm1 batch trap t) := two _ _ _ 0x67#7 rfl (by rw [above, above, above, last] <;> decide) (by decide)
theorem fqr (p d a b fmt nm1 batch t) : Statement (.fqr p d a b fmt nm1 batch t) := two _ _ _ 0x68#7 rfl (by rw [above, above, above, last] <;> decide) (by decide)
theorem ftrs (p d a fmt nm1 batch pms perm trn unit up t) : Statement (.ftrs p d a fmt nm1 batch pms perm trn unit up t) := two _ _ _ 0x69#7 rfl (by rw [above, above, above, last] <;> decide) (by decide)
theorem fupd (p d a b fmt nm1 trap down t) : Statement (.fupd p d a b fmt nm1 trap down t) := two _ _ _ 0x6A#7 rfl (by rw [above, above, above, last] <;> decide) (by decide)
theorem sopen (p d a lc sp) : Statement (.sopen p d a lc sp) := one _ _ 0x6B#7 rfl (by rw [above, above, above, above, above, last] <;> decide) (by decide)
theorem sclose (p a) : Statement (.sclose p a) := one _ _ 0x6B#7 rfl (by rw [above, above, above, last] <;> decide) (by decide)
theorem sadv (p d a) : Statement (.sadv p d a) := one _ _ 0x6C#7 rfl (by rw [above, above, above, last] <;> decide) (by decide)
theorem sseek (p d a x) : Statement (.sseek p d a x) := one _ _ 0x6C#7 rfl (by rw [above, above, above, above, last] <;> decide) (by decide)
theorem stend (p d a) : Statement (.stend p d a) := one _ _ 0x6D#7 rfl (by rw [above, above, above, last] <;> decide) (by decide)
theorem sjoin (p d a kmask mode t) : Statement (.sjoin p d a kmask mode t) := two _ _ _ 0x6E#7 rfl (by rw [above, above, above, last] <;> decide) (by decide)
theorem sfuse (p d a b al be t) : Statement (.sfuse p d a b al be t) := two _ _ _ 0x6F#7 rfl (by rw [above, above, above, last] <;> decide) (by decide)
theorem stopk (p d a kind final t) : Statement (.stopk p d a kind final t) := two _ _ _ 0x6F#7 rfl (by rw [above, above, above, last] <;> decide) (by decide)
theorem spawn (p a eoff) : Statement (.spawn p a eoff) := two _ _ _ 0x70#7 rfl (by rw [above, above, above, last] <;> decide) (by decide)
theorem spawno (p d a b eoff) : Statement (.spawno p d a b eoff) := two _ _ _ 0x71#7 rfl (by rw [above, above, above, last] <;> decide) (by decide)
theorem txb (p mode foff) : Statement (.txb p mode foff) := two _ _ _ 0x72#7 rfl (by rw [above, last] <;> decide) (by decide)
theorem txe (p) : Statement (.txe p) := one _ _ 0x73#7 rfl (by rw [above, last] <;> decide) (by decide)
theorem txa (p n) : Statement (.txa p n) := one _ _ 0x74#7 rfl (by rw [above, above, above, last] <;> decide) (by decide)
theorem txs (p d) : Statement (.txs p d) := one _ _ 0x75#7 rfl (by rw [above, above, last] <;> decide) (by decide)
theorem reggrow (p d n) : Statement (.reggrow p d n) := one _ _ 0x76#7 rfl (by rw [above, above, above, last] <;> decide) (by decide)
theorem regshrink (p n) : Statement (.regshrink p n) := one _ _ 0x76#7 rfl (by rw [above, above, above, last] <;> decide) (by decide)
theorem mfs (p d uni w64 num) : Statement (.mfs p d uni w64 num) := one _ _ 0x77#7 rfl (by rw [above, above, above, above, above, last] <;> decide) (by decide)
theorem mts (p d uni w64 num) : Statement (.mts p d uni w64 num) := one _ _ 0x78#7 rfl (by rw [above, above, above, above, above, last] <;> decide) (by decide)
theorem clkTime (p d w) : Statement (.clkTime p d w) := one _ _ 0x79#7 rfl (by rw [above, above, above, above, above, last] <;> decide) (by decide)
theorem clkCycle (p d w) : Statement (.clkCycle p d w) := one _ _ 0x79#7 rfl (by rw [above, above, above, above, above, last] <;> decide) (by decide)
theorem launch (p d a t) : Statement (.launch p d a t) := two _ _ _ 0x7A#7 rfl (by rw [above, above, above, last] <;> decide) (by decide)
theorem clauseWaitRelease (x0) : Statement (.clauseWaitRelease x0) := event _ rfl
theorem operationCompletion (x0) : Statement (.operationCompletion x0) := event _ rfl
theorem instructionFetch (x0 x1) : Statement (.instructionFetch x0 x1) := event _ rfl
theorem rightsMissReturn (x0 x1 x2) : Statement (.rightsMissReturn x0 x1 x2) := event _ rfl
theorem registerLineFetch (x0 x1) : Statement (.registerLineFetch x0 x1) := event _ rfl
theorem trapDelivery (x0) : Statement (.trapDelivery x0) := event _ rfl
theorem commandStart (x0 x1) : Statement (.commandStart x0 x1) := event _ rfl
theorem commandCompletion (x0) : Statement (.commandCompletion x0) := event _ rfl
theorem spindleEnd (x0) : Statement (.spindleEnd x0) := event _ rfl
theorem spindleDormant (x0) : Statement (.spindleDormant x0) := event _ rfl
theorem monitorRelease (x0 x1) : Statement (.monitorRelease x0 x1) := event _ rfl
theorem monitorRecheck (x0 x1) : Statement (.monitorRecheck x0 x1) := event _ rfl
theorem dormantReturn (x0) : Statement (.dormantReturn x0) := event _ rfl
theorem sleepExpiry (x0 x1) : Statement (.sleepExpiry x0 x1) := event _ rfl
theorem backoffExpiry (x0 x1) : Statement (.backoffExpiry x0 x1) := event _ rfl
theorem txCommit (x0) : Statement (.txCommit x0) := event _ rfl
theorem commitTokenMessage (x0 x1 x2) : Statement (.commitTokenMessage x0 x1 x2) := event _ rfl
theorem tokenRegeneration (x0 x1) : Statement (.tokenRegeneration x0 x1) := event _ rfl
theorem spawnBinTimer (x0 x1) : Statement (.spawnBinTimer x0 x1) := event _ rfl
theorem binLaunch (x0 x1) : Statement (.binLaunch x0 x1) := event _ rfl
theorem reggrowGrant (x0) : Statement (.reggrowGrant x0) := event _ rfl
theorem reggrowFail (x0) : Statement (.reggrowFail x0) := event _ rfl
theorem leaseExpiry (x0 x1 x2) : Statement (.leaseExpiry x0 x1 x2) := event _ rfl
theorem homeOwnershipRequest (x0 x1 x2 x3) : Statement (.homeOwnershipRequest x0 x1 x2 x3) := event _ rfl
theorem homeWriteback (x0 x1 x2) : Statement (.homeWriteback x0 x1 x2) := event _ rfl
theorem hostSnoop (x0 x1) : Statement (.hostSnoop x0 x1) := event _ rfl
theorem hostMemAccess (x0 x1 x2 x3 x4) : Statement (.hostMemAccess x0 x1 x2 x3 x4) := event _ rfl
theorem fabricGatherRequest (x0 x1 x2 x3) : Statement (.fabricGatherRequest x0 x1 x2 x3) := event _ rfl
theorem fabricScatterWrite (x0 x1 x2 x3 x4 x5) : Statement (.fabricScatterWrite x0 x1 x2 x3 x4 x5) := event _ rfl
theorem fabricAcknowledgement (x0 x1 x2 x3) : Statement (.fabricAcknowledgement x0 x1 x2 x3) := event _ rfl
theorem linkRetrain (x0) : Statement (.linkRetrain x0) := event _ rfl
theorem hostLinkDown : Statement (.hostLinkDown) := event _ rfl
theorem isolationTimeout (x0) : Statement (.isolationTimeout x0) := event _ rfl
theorem tcqInval : Statement (.tcqInval) := event _ rfl
theorem tcqResume : Statement (.tcqResume) := event _ rfl
theorem tcqFail : Statement (.tcqFail) := event _ rfl
theorem tcqMigrate : Statement (.tcqMigrate) := event _ rfl
theorem tcqRetire : Statement (.tcqRetire) := event _ rfl
theorem tcqBadOp : Statement (.tcqBadOp) := event _ rfl
theorem placementInterval : Statement (.placementInterval) := event _ rfl
theorem distributorCycle : Statement (.distributorCycle) := event _ rfl
theorem teamSuspend (x0) : Statement (.teamSuspend x0) := event _ rfl
theorem teamMigrationDie (x0) : Statement (.teamMigrationDie x0) := event _ rfl
theorem distributorMessage (x0) : Statement (.distributorMessage x0) := event _ rfl
theorem dependenceSatisfied (x0 x1) : Statement (.dependenceSatisfied x0 x1) := event _ rfl
theorem teamEnd (x0) : Statement (.teamEnd x0) := event _ rfl
theorem poisonMark (x0) : Statement (.poisonMark x0) := event _ rfl
theorem energyTick (x0 x1) : Statement (.energyTick x0 x1) := event _ rfl
theorem powerThrottle (x0) : Statement (.powerThrottle x0) := event _ rfl
theorem lifetimeMinute (x0 x1) : Statement (.lifetimeMinute x0 x1) := event _ rfl
theorem lifetimeCommit : Statement (.lifetimeCommit) := event _ rfl
theorem scanStart : Statement (.scanStart) := event _ rfl
theorem scanEnd (x0) : Statement (.scanEnd x0) := event _ rfl
theorem adeolPartitionStart (x0 x1 x2) : Statement (.adeolPartitionStart x0 x1 x2) := event _ rfl
theorem adeolPartitionConfig (x0 x1 x2) : Statement (.adeolPartitionConfig x0 x1 x2) := event _ rfl
theorem adeolKill (x0) : Statement (.adeolKill x0) := event _ rfl
theorem adeolHalt (x0) : Statement (.adeolHalt x0) := event _ rfl
theorem attest (x0) : Statement (.attest x0) := event _ rfl
theorem firmwareImage (x0) : Statement (.firmwareImage x0) := event _ rfl
theorem warmReentry (x0) : Statement (.warmReentry x0) := event _ rfl
theorem coldReset (x0) : Statement (.coldReset x0) := event _ rfl
theorem astbaseWrite (x0) : Statement (.astbaseWrite x0) := event _ rfl
theorem hdmWrite (x0) : Statement (.hdmWrite x0) := event _ rfl
theorem powercapWrite (x0) : Statement (.powercapWrite x0) := event _ rfl
theorem erateWrite (x0 x1) : Statement (.erateWrite x0 x1) := event _ rfl
theorem dumpbaseWrite (x0) : Statement (.dumpbaseWrite x0) := event _ rfl
theorem haltstatClear (x0) : Statement (.haltstatClear x0) := event _ rfl
theorem adeolRegisterWrite (x0 x1 x2) : Statement (.adeolRegisterWrite x0 x1 x2) := event _ rfl
theorem holdingInstructionCompletion (x0 x1) : Statement (.holdingInstructionCompletion x0 x1) := event _ rfl
theorem powerLoss : Statement (.powerLoss) := event _ rfl
theorem linkFailure (x0) : Statement (.linkFailure x0) := event _ rfl
theorem cxlHostResponse (x0 x1 x2 x3) : Statement (.cxlHostResponse x0 x1 x2 x3) := event _ rfl

end Wf

theorem Wf.seal (p a b) : Wf.Statement (.seal p a b) := Wf.two _ _ _ 0x45#7 rfl (by rw [above, above, above, last] <;> decide) (by decide)
theorem Wf.unseal (p a b) : Wf.Statement (.unseal p a b) := Wf.two _ _ _ 0x45#7 rfl (by rw [above, above, above, last] <;> decide) (by decide)

end Sys2Proof.Laws
end

