-- ==== Sys2Proof/Tests/Slice0.lean ====
section
/-! SUPPORT. Tests of the model: words of the manual decoded, ill-formed terms refused, one state for every hypothesis of the statements,
and single steps whose results the manual states. -/

namespace Sys2Proof.Tests

open Sys2Proof Sys2Proof.Machine

set_option Elab.async false

/-- No guard, no chain. -/
def u : Pfx := { c := false, g := 7#3 }
/-- The decoder's answers. -/
def reads (w x : Word) : Option Instr :=
  match decodeWords w x with
  | .ok i => some i
  | .error _ => none
def refusedAs (w x : Word) : Option DecodeError :=
  match decodeWords w x with
  | .ok _ => none
  | .error e => some e
def noTail : CmdTail := { acq := false, rel := false, scope := 0#3, bar := 0#4, ben := false }

-- Decoding: words of the manual's examples (file and rule beside each), and words built from the field tables

/-- 05 R107, R109: `MOVI v3, -1` and `ROTI v2, v2, 8`. -/
theorem test_decode_moves : reads 0x7040_FFFF#32 0#32 = some (.movi u 3#7 0x3FFF#14) ∧
    reads 0x7061_8000#32 64#32 = some (.movl u 6#7 false 64#32) ∧ reads 0x7021_0000#32 0#32 = some (.mov u 4#7 0#7) := by decide
/-- 05 R108, R109; 12 and 20 listings. -/
theorem test_decode_integer : reads 0x7081_4206#32 0#32 = some (.iadd u 5#7 4#7 6#7) ∧
    reads 0x70C2_8501#32 0#32 = some (.iaddi u 10#7 10#7 1#7) ∧ reads 0x70A0_4100#32 0#32 = some (.isub u 1#7 2#7 0#7) ∧
    reads 0x72E0_4001#32 0#32 = some (.shli u 1#7 0#7 1#5) ∧ reads 0x72E0_8168#32 0#32 = some (.roti u 2#7 2#7 8#5) := by decide
/-- 16 listing: `BFE.U v5, v4, 21, 7`. -/
theorem test_decode_fields : reads 0x7301_4200#32 0x0000_11D5#32 = some (.bfe u 5#7 4#7 true 7#6 21#5) := by decide
/-- 15 and 16 listings: `ICMP.NE.AND p2, pt, v8, -3, p2` and `ICMP.LO p1, p2, v2, 16`. -/
theorem test_decode_compare : reads 0x7360_847D#32 0x151C_0000#32 = some (.icmp u 2#7 8#7 0x7D#7 1#4 false true 2#3 0#2 7#3) ∧
    reads 0x7360_4110#32 0x6788_0000#32 = some (.icmp u 1#7 2#7 16#7 6#4 false true 7#3 0#2 2#3) := by decide
/-- 05 R116, R117; 15 and 22 listings. -/
theorem test_decode_address : reads 0x73C1_0309#32 0x6000_0010#32 = some (.lea u 4#7 6#7 9#7 3#3 false 16#24) ∧
    reads 0x73C3_0006#32 0x5000_0280#32 = some (.lea u 12#7 0#7 6#7 2#3 true 640#24) ∧ reads 0x73E4_1604#32 0#32 = some (.v2s64 u 16#7 44#7) ∧
    reads 0x73E2_0003#32 0#32 = some (.s2v64 u 8#7 0#7) := by decide
/-- 06 R133, R134; 12 listing: `FOPX.FMA.F64.RZ`, `FFMA` and `FMUL`. -/
theorem test_decode_float : reads 0x74E1_0308#32 0x14D2_0000#32 = some (.fopx u 4#7 6#7 8#7 10#7 3#3 1#2 1#3) ∧
    reads 0x7462_0491#32 0x3200_0000#32 = some (.ffma u 8#7 9#7 17#7 25#7 0#3) ∧ reads 0x7440_C082#32 0#32 = some (.fmul u 3#7 1#7 2#7) := by decide
/-- 06 R140, R142: `MXQ.E4M3 v8, v4, s2` and `MXDQ.MX8.F32 v9, v8, s2`. -/
theorem test_decode_mx : reads 0x75A2_0202#32 0x0100_0000#32 = some (.mxq u 8#7 4#7 2#7 1#8 0#3) ∧
    reads 0x75C2_4402#32 0x8000_0000#32 = some (.mxdq u 9#7 8#7 2#7 8#4 0#2 0#3) := by decide
/-- 06 R144, R146: words of the field tables. -/
theorem test_decode_division : reads (0#1 ++ 7#3 ++ 0x31#7 ++ 4#7 ++ 6#7 ++ 0#7) (1#2 ++ 3#3 ++ 0#27) = some (.fsqrt u 4#7 6#7 1#2 3#3) ∧
    reads (0#1 ++ 7#3 ++ 0x35#7 ++ 4#7 ++ 5#7 ++ 6#7) (7#7 ++ 1#1 ++ 1#1 ++ 0#1 ++ 0#22) = some (.idiv u 4#7 5#7 6#7 7#7 true true false) := by decide
/-- 07 R153; 11, 14 and 22 listings. -/
theorem test_decode_loads : reads 0x7705_4200#32 0x4300_0000#32 = some (.ld u 21#7 4#7 2#3 false false 3#3 0#24) ∧
    reads 0x770C_1400#32 0x8300_0010#32 = some (.ld u 48#7 40#7 4#3 false false 3#3 16#24) ∧
    reads 0x7720_0608#32 0x6000_0000#32 = some (.st u 12#7 8#7 3#3 false 0#24) := by decide
/-- 07 R161, R163, R169; 11, 14, 15 listings. -/
theorem test_decode_atomics : reads 0x7781_8004#32 0x0060_0000#32 = some (.atom u 6#7 0#7 4#7 0#5 false 0#2 3#3 0#7 0#14) ∧
    reads 0x77C0_020C#32 0x0060_0000#32 = some (.red u 4#7 12#7 0#5 false 0#2 3#3 0#14) ∧
    reads 0x77A2_0A00#32 0x01D6_0000#32 = some (.cas128 u 8#7 20#7 0#7 0#7 7#3 1#2 3#3 0#14) ∧
    reads 0x77E5_030E#32 0x0D80_0000#32 = some (.waitc u 20#7 6#7 14#7 0#4 true true 3#3 0#14) := by decide
/-- 07 R164, R165, R167, R178, R179; 22 listing. -/
theorem test_decode_synchronisation : reads 0x7862_8206#32 0x0580_0000#32 = some (.bind u 10#7 4#7 6#7 11#7) ∧
    reads 0x7840_030E#32 0x6000_0000#32 = some (.rel u 6#7 14#7 3#3 0#14) ∧ reads 0x7800_0024#32 0#32 = some (.fence u 1#2 1#3) ∧
    reads 0x7B00_0000#32 0#32 = some (.tbar u) ∧ reads 0x7B20_C402#32 0#32 = some (.nbarWait u 3#7 8#7) := by decide
/-- 04 and 05 listings, 05 R122, R126; 03 R79: `BRA`, `EXIT`, `RCVB`, `RCVW`, `SLEEP 200`, `NOP`. -/
theorem test_decode_control : reads 0x7A00_0002#32 0#32 = some (.bra u 2#21) ∧ reads 0x7AA0_0000#32 0#32 = some (.exit u) ∧
    reads 0x7AC0_0000#32 0#32 = some (.rcvb u 0#7 false) ∧ reads 0x7AE0_0000#32 0#32 = some (.rcvw u 0#7) ∧
    reads 0x7B60_6402#32 0#32 = some (.sleep u 200#14) ∧ reads 0x7B60_0000#32 0#32 = some (.nop u) := by decide
/-- 08 R197-R203 and the listings of 07 and 16. -/
theorem test_decode_matrix : reads 0x7C01_0110#32 0x8400_0030#32 = some (.mma u 4#7 2#7 16#7 8#4 false true 0#6 { noTail with bar := 1#4, ben := true }) ∧
    reads 0x7C02_0310#32 0x8CA0_0000#32 = some (.mma u 8#7 6#7 16#7 8#4 true true 10#6 noTail) ∧
    reads 0x7C20_8400#32 0x0000_2600#32 = some (.tld u 2#7 8#7 { noTail with acq := true, scope := 3#3 }) ∧
    reads 0x7C64_8816#32 0x6400_0000#32 = some (.cpy u 18#7 16#7 22#7 1#2 2#2 2#3 noTail) := by decide
/-- 09 R217, R218; 16 listing: `FLU.BATCH.F64 sd0, s6, 4, b0` and `FCHOL.BATCH.F64 sd2, s7, 4, b0`. -/
theorem test_decode_factorisation : reads 0x7CC0_0006#32 0x1070_0010#32 = some (.flu u 0#7 0#7 6#7 1#4 3#7 true false false { noTail with ben := true }) ∧
    reads 0x7CE0_8007#32 0x1070_0010#32 = some (.fchol u 2#7 0#7 7#7 1#4 3#7 true false { noTail with ben := true }) := by decide
/-- 10 R238-R249; the listings of 10 and 16. -/
theorem test_decode_streams : reads 0x7D60_451A#32 0#32 = some (.sopen u 1#7 10#7 3#3 2#3) ∧ reads 0x7D83_00CE#32 0#32 = some (.sseek u 12#7 1#7 14#6) ∧
    reads 0x7D84_0080#32 0#32 = some (.sadv u 16#7 1#7) ∧ reads 0x7DA0_C080#32 0#32 = some (.stend u 3#7 1#7) ∧
    reads 0x7D60_00C0#32 0#32 = some (.sclose u 1#7) ∧ reads 0x7DC8_0780#32 0x0780_0000#32 = some (.sjoin u 32#7 15#7 7#8 true noTail) ∧
    reads 0x7DE8_9026#32 0x1E7C_0000#32 = some (.sfuse u 34#7 32#7 38#7 30#6 31#6 noTail) ∧
    reads 0x7DE9_1100#32 0x7000_0010#32 = some (.stopk u 36#7 34#7 true true { noTail with ben := true }) := by decide
/-- 11 R262-R267, R275; 17 example. -/
theorem test_decode_system : reads 0x7EA2_C000#32 0#32 = some (.txs u 11#7) ∧ reads 0x7EC0_4100#32 0#32 = some (.reggrow u 1#7 2#7) ∧
    reads 0x7EC0_0101#32 0#32 = some (.regshrink u 2#7) ∧ reads 0x7EE1_4002#32 0#32 = some (.mfs u 5#7 false false 2#8) ∧
    reads 0x7F01_E003#32 0#32 = some (.mts u 7#7 true false 3#8) ∧ reads 0x7F21_8002#32 0#32 = some (.clkTime u 6#7 true) ∧
    reads 0x7F41_0300#32 0x0000_1600#32 = some (.launch u 4#7 6#7 { noTail with rel := true, scope := 3#3 }) ∧
    reads 0x7B80_0005#32 0#32 = some (.trap u 5#7) := by decide
/-- 03 R73 and its listings: WAIT, FA, FB; guards and C (03 R64): `?p1 IMIX v5, v6, v7` of 20 has G = 1. -/
theorem test_decode_headers : reads 0x7FE0_0224#32 0#32 = some (.clauseHeader 1#12 1#4 2#4 false) ∧
    reads 0x7FE0_003E#32 0#32 = some (.clauseHeader 0#12 1#4 15#4 false) ∧ reads 0x7FE0_05FE#32 0#32 = some (.clauseHeader 2#12 15#4 15#4 false) ∧
    reads (1#1 ++ 1#3 ++ 0x04#7 ++ 5#7 ++ 6#7 ++ 7#7) 0#32 = some (.iadd { c := true, g := 1#3 } 5#7 6#7 7#7) := by decide
/-- 03 R66, R73, R83: reserved bits, a bad header, a reserved major and the zero word. -/
theorem test_decode_refused : refusedAs 0x7020_4001#32 0#32 = some .reservedField ∧ refusedAs 0x7FE0_01A4#32 0#32 = some .badHeader ∧
    reads 0x7F60_0000#32 0#32 = some (.reservedMajor u 0x7B#7 0#21) ∧ reads 0#32 0#32 = some .zeroWord := by decide
/-- 00 R6: the bytes of a word, lowest first, as 03's listing gives them; a byte short is refused. -/
theorem test_decode_bytes : (decode [0x24#8, 0x02#8, 0xE0#8, 0x7F#8, 9#8]).toOption = some (.clauseHeader 1#12 1#4 2#4 false, [9#8]) ∧
    (decode [0x24#8, 0x02#8, 0xE0#8]).toOption = none ∧ decodeTableWord 64 0x6000_0010_73C1_0309 = some (.lea u 4#7 6#7 9#7 3#3 false 16#24) := by decide

-- Ill-formed terms: one for each check of the operands and of the fields

/-- 01 R14: a register beyond its file, an odd d, a q that is no multiple of 4, an odd sd, and runs that leave their file. -/
theorem test_ill_registers : ([.mov u 4#7 5#7, .iadd64 u 4#7 6#7 8#7, .ld u 4#7 6#7 4#3 false false 3#3 0#24, .s2v u 5#7 63#7, .s2v64 u 4#7 62#7].all wf) = true ∧
    ([.iadd64 u 4#7 7#7 8#7, .ld u 6#7 6#7 4#3 false false 3#3 0#24, .s2v u 5#7 64#7, .s2v64 u 4#7 63#7, .rcvw u 8#7, .pollAll u 8#7 0#7,
      .sclose u 8#7, .nbarWait u 16#7 0#7, .tld u 2#7 62#7 noTail].any wf) = false := by decide
/-- 05 R112-R114: fields and predicate pairs. -/
theorem test_ill_integer : ([.bfe u 1#7 2#7 true 0#6 0#5, .bfe u 1#7 2#7 true 33#6 0#5, .bfi u 1#7 2#7 3#7 8#6 25#5, .icmp u 1#7 2#7 3#7 10#4 false false 7#3 0#2 2#3,
    .icmp u 1#7 2#7 3#7 0#4 false false 7#3 3#2 2#3, .icmp u 1#7 2#7 3#7 0#4 false false 7#3 0#2 1#3, .pbool u 1#7 2#7 3#7 4#3 1#3 0#8].any wf) = false ∧
    wf (.icmp u 7#7 2#7 3#7 9#4 false false 7#3 2#2 7#3) = true := by decide
/-- 06: rounding modes, formats, selectors and remainders. -/
theorem test_ill_float : ([.ffma u 1#7 2#7 3#7 4#7 4#3, .fcmp u 1#7 2#7 3#7 14#4 0#2 7#3 0#2 2#3, .fopx u 1#7 2#7 3#7 4#7 0#3 0#2 0#3, .fopx u 1#7 2#7 3#7 0#7 6#3 0#2 0#3,
    .fcvt u 1#7 2#7 0#4 0#4 0#3, .fcvt u 1#7 2#7 0#4 4#4 0#3, .fcvt u 1#7 2#7 2#4 0#4 4#3, .i2f u 1#7 2#7 4#4 false false 0#3, .f2i u 1#7 2#7 0#4 false false 4#3,
    .rint u 1#7 2#7 4#3 0#2, .hfma2 u 1#7 2#7 3#7 4#7 5#3 false, .mxq u 1#7 2#7 3#7 0#8 0#3, .mxq u 1#7 2#7 3#7 1#8 5#3, .mxdq u 1#7 2#7 3#7 7#4 0#2 0#3, .mxdq u 1#7 2#7 3#7 8#4 1#2 0#3,
    .fdiv u 1#7 2#7 3#7 0#2 4#3, .fsqrt u 1#7 2#7 0#2 4#3, .frsq u 1#7 2#7 0#2 4#3, .idiv u 1#7 2#7 3#7 1#7 true false false, .idiv u 1#7 2#7 3#7 4#7 false false false].any wf) = false := by
  decide
/-- 07: sizes, sign extension, atomic operations, scopes and fences. -/
theorem test_ill_memory : ([.ld u 4#7 6#7 5#3 false false 3#3 0#24, .ld u 4#7 6#7 2#3 true false 3#3 0#24, .ld u 4#7 6#7 2#3 false true 3#3 0#24, .st u 6#7 4#7 2#3 true 0#24,
    .lds u 4#7 6#7 5#3 false, .sts u 5#3 4#7 6#7, .atom u 4#7 6#7 8#7 13#5 false 0#2 0#3 0#7 0#14, .atom u 4#7 6#7 8#7 0#5 false 0#2 0#3 1#7 0#14, .atom u 4#7 6#7 8#7 0#5 false 0#2 5#3 0#7 0#14,
    .cas128 u 4#7 6#7 8#7 12#7 0#3 0#2 5#3 0#14, .red u 6#7 8#7 8#5 false 0#2 0#3 0#14, .red u 6#7 8#7 0#5 false 1#2 0#3 0#14, .waitc u 4#7 6#7 8#7 10#4 false false 0#3 0#14,
    .waitc u 4#7 6#7 8#7 0#4 false true 5#3 0#14, .fence u 0#2 0#3, .fence u 1#2 5#3, .acq u 4#7 6#7 5#3 0#14, .rel u 6#7 4#7 5#3 0#14].any wf) = false := by decide
/-- 08 to 10: formats, tails, endpoints, reductions, batches and stream sets. -/
theorem test_ill_commands : ([.mma u 4#7 2#7 16#7 4#4 false true 0#6 noTail, .mma u 4#7 2#7 16#7 8#4 false true 1#6 noTail, .tld u 2#7 8#7 { noTail with acq := true, scope := 5#3 },
    .cpy u 18#7 16#7 22#7 3#2 2#2 2#3 noTail, .cpy u 18#7 16#7 22#7 1#2 2#2 5#3 noTail, .scatf u 4#7 6#7 8#7 true 4#3 noTail, .flu u 0#7 1#7 6#7 1#4 3#7 true false false noTail,
    .flu u 0#7 0#7 6#7 2#4 3#7 true false false noTail, .fchol u 0#7 1#7 6#7 1#4 3#7 false false noTail, .fqr u 0#7 1#7 6#7 1#4 3#7 true noTail,
    .ftrs u 0#7 2#7 1#4 3#7 true false true false false false noTail, .fupd u 0#7 2#7 4#7 1#4 3#7 false false { noTail with rel := true }, .sjoin u 32#7 15#7 0#8 true noTail,
    .sjoin u 32#7 15#7 7#8 true { noTail with rel := true }, .sfuse u 34#7 32#7 38#7 30#6 31#6 { noTail with acq := true }, .stopk u 36#7 34#7 true true { noTail with rel := true }].any wf) = false := by
  decide
/-- 11 R263, R265; 03 R73, R83. -/
theorem test_ill_system : ([.reggrow u 1#7 0#7, .reggrow u 1#7 8#7, .regshrink u 8#7, .mfs u 5#7 true false 2#8, .mfs u 5#7 false true 2#8, .mfs u 5#7 false false 0x7F#8,
    .mts u 6#7 true true 0x30#8, .clauseHeader 0#12 12#4 0#4 false, .clauseHeader 0#12 0#4 14#4 false, .reservedMajor u 0x01#7 0#21, .reservedMajor zeroPfx 0#7 0#21].any wf) = false := by decide

-- States for the hypotheses of the statements

/-- One privileged spindle of the core whose fetch path holds a header that names FA 1 and FB 2 and then `i`, which stands at issue for
lanes `x`; the core's rights cache holds a device-coherent leaf, readable, writable and executable, for the low 1 GiB. -/
def ready (i : Instr) (x : LaneMask) : State :=
  let w := (encode i).getD 0 0#32
  let v := (encode i).getD 1 0#32
  let s := State.reset.placeWords w v
  { s with
    cur := { sp := 0, lanes := x, pc := placedText + 4#64, w0 := w, w1 := v, chained := false, clear := true, more := false, rest := [] },
    mem := { s.mem with icache := [{ core := 0, ea := 1, ln := lnOf placedText, data := BitVec.ofNat 1024 (lineOfWords (placedWords w v)), poison := 0#4 }] } }

/-- `ready` with registers. -/
def readyWith (i : Instr) (x : LaneMask) (f : Spindle → Spindle) : State := (ready i x).modSp 0 f

/-- The checks of `Issues`, `CanFault` and `ChargesFlag` as Bools. -/
def issuesB (i : Instr) (s : State) : Bool :=
  let sp := s.spindle s.cur.sp
  let x := s.execLanes (pfx i)
  decide (s.cur.sp < s.spindles.length) && decide (sp.lanes.length = 32) && x != 0#32 &&
    (lanesOf s.cur.lanes).all (fun l => (sp.lane l).st == .eligible) && wf i && !overVcount i sp.vcount &&
    (!needsPriv i || (lanesOf x).all (fun l => (sp.lane l).priv)) && (!handlerForbidden i || !sp.inHandler) &&
    (!txForbidden i || (lanesOf x).all (fun l => !(sp.lane l).tx)) && (lanesOf x).all (fun l => !laneValueBad i sp l) && poisonedLanes sp i x == 0#32

theorem issues_of (i : Instr) (s : State) (h : issuesB i s = true) : Issues i s := by
  simp only [issuesB, Bool.and_eq_true, Bool.or_eq_true, decide_eq_true_eq, bne_iff_ne, List.all_eq_true, beq_iff_eq, Bool.not_eq_true', mem_lanesOf] at h
  obtain ⟨⟨⟨⟨⟨⟨⟨⟨⟨⟨h1, h2⟩, h3⟩, h4⟩, h5⟩, h6⟩, h7⟩, h8⟩, h9⟩, hv⟩, h10⟩ := h
  refine ⟨h1, h2, h3, fun l hl he => h4 l ⟨hl, he⟩, h5, h6, fun hn l hl he => ?_, fun hn => ?_, fun hn l hl he => ?_, fun l hl he => hv l ⟨hl, he⟩, h10⟩
  · rcases h7 with h7 | h7
    · rw [hn] at h7; cases h7
    · exact h7 l ⟨hl, he⟩
  · rcases h8 with h8 | h8
    · rw [hn] at h8; cases h8
    · exact h8
  · rcases h9 with h9 | h9
    · rw [hn] at h9; cases h9
    · exact h9 l ⟨hl, he⟩

def faultsB (x : LaneMask) (s : State) : Bool :=
  (s.spindle s.cur.sp).trapped.isNone && (s.spindle s.cur.sp).st != .ended &&
    (lanesOf x).all (fun l => ((s.lane s.cur.sp l).tx && (s.lane s.cur.sp l).spec) == false)

theorem faults_of (x : LaneMask) (s : State) (h : faultsB x s = true) : CanFault x s := by
  simp only [faultsB, Bool.and_eq_true, Option.isNone_iff_eq_none, bne_iff_ne, List.all_eq_true, beq_iff_eq, mem_lanesOf] at h
  exact ⟨h.1.1, h.1.2, fun l hl he => h.2 l ⟨hl, he⟩⟩

/-- The checks of `WordHeld`, `TargetHeld` and `ChargesFlag`. -/
def heldB (s : State) (k : Nat) (pc : DWord) (w : Word) : Bool :=
  canonical pc && (rightsFind s.mem (s.who k).core (eaOf (s.who k).asid pc) (pageOf pc)).any (fun x => leafX x.leaf) &&
    (icFind s.mem (s.who k).core (eaOf (s.who k).asid pc) (lnOf pc)).any (fun c => c.poison &&& sectorMask (offOf pc) 4 == 0#4 &&
      w == BitVec.ofNat 32 (lineBytesGet c.data (offOf pc) 4))

theorem held_of {s : State} {k : Nat} {pc : DWord} {w : Word} (h : heldB s k pc w = true) : WordHeld s k pc w := by
  simp only [heldB, Bool.and_eq_true, Option.any_eq_true, beq_iff_eq] at h
  obtain ⟨⟨h1, x, h2, h3⟩, c, h4, h5, h6⟩ := h
  exact ⟨h1, ⟨x, h2, h3⟩, c, h4, h5, h6⟩

def targetB (s : State) (t : DWord) : Bool :=
  t.toNat % 12 == 0 && (icFind s.mem (s.who s.cur.sp).core (eaOf (s.who s.cur.sp).asid t) (lnOf t)).any (fun c =>
    heldB s s.cur.sp t (BitVec.ofNat 32 (lineBytesGet c.data (offOf t) 4)) && isHeader (BitVec.ofNat 32 (lineBytesGet c.data (offOf t) 4)))

theorem target_of {s : State} {t : DWord} (h : targetB s t = true) : TargetHeld s t := by
  simp only [targetB, Bool.and_eq_true, Option.any_eq_true, beq_iff_eq] at h
  obtain ⟨h1, c, h2, h3, h4⟩ := h
  obtain ⟨h5, h6, d, h7, h8, _⟩ := held_of h3
  rw [h2] at h7
  cases h7
  exact ⟨h1, h5, h6, c, h2, h8, h4⟩

/-- The clause of the word at issue starts with a held header that names flag f, whose count leaves room. -/
def chargesB (s : State) (n : Nat) (isA : Bool) (f : Nat) (h : Word) : Bool :=
  heldB (s.advance n) s.cur.sp (BitVec.ofNat 64 (12 * (s.cur.pc.toNat / 12))) h && isHeader h && (if isA then faOf h else fbOf h) == f && decide (f ≤ 11) &&
    (s.spindle s.cur.sp).flag f != 63#6

theorem charges_of {s : State} {n : Nat} {isA : Bool} {f : Nat} (h : Word) (e : chargesB s n isA f h = true) : ChargesFlag s n isA f := by
  simp only [chargesB, Bool.and_eq_true, beq_iff_eq, decide_eq_true_eq, bne_iff_ne] at e
  exact ⟨h, _, clauseFlags_held (held_of e.1.1.1.1) e.1.1.1.2, e.1.1.2, e.1.2, e.2⟩

/-- The header of `ready`. -/
def head : Word := 0x7FE0_0024#32

-- Register instructions: every constructor of each family issues in some state (05, 06, 07 R176, R177)

def movers : List Instr := [.mov u 4#7 5#7, .movi u 4#7 0x2000#14, .movl u 4#7 false 9#32, .movl u 4#7 true 0x8000_0000#32, .s2v u 4#7 5#7, .s2v64 u 4#7 6#7,
  .sel u 4#7 5#7 6#7 1#3 false, .sel u 4#7 6#7 8#7 7#3 true, .lea u 4#7 6#7 8#7 7#3 true 0x80_0000#24]
def scalars : List Instr := [.v2s u 4#7 5#7, .smovl u 4#7 6#7, .v2s64 u 62#7 126#7]
theorem witness_Moves : (∀ i ∈ movers, ∃ s n r, Issues i s ∧ moveResult (s.spindle s.cur.sp) i = some (n, r)) ∧
    ∀ i ∈ scalars, ∃ s n r, Issues i s ∧ scalarResult (s.spindle s.cur.sp) (s.executing i) i = some (n, r) := by
  have h : movers.all (fun i => issuesB i (ready i 0x8000_0001#32) && (moveResult ((ready i 0x8000_0001#32).spindle 0) i).isSome) = true := by decide +kernel
  have k : scalars.all (fun i => issuesB i (ready i 0x8000_0001#32) &&
    (scalarResult ((ready i 0x8000_0001#32).spindle 0) ((ready i 0x8000_0001#32).executing i) i).isSome) = true := by decide +kernel
  simp only [List.all_eq_true, Bool.and_eq_true, Option.isSome_iff_exists] at h k
  exact ⟨fun i hi => let ⟨a, ⟨n, r⟩, b⟩ := h i hi; ⟨_, n, r, issues_of i _ a, b⟩, fun i hi => let ⟨a, ⟨n, r⟩, b⟩ := k i hi; ⟨_, n, r, issues_of i _ a, b⟩⟩

def pairs : List Instr := [Instr.iadd, .isub, .imul, .imulh, .imulhu, .imin, .imax, .umin, .umax, .and, .or, .xor, .andn, .shl, .shr, .sar].map (fun c => c u 4#7 5#7 127#7)
def soles : List Instr := [.iaddi u 4#7 5#7 0x40#7, .shli u 4#7 5#7 31#5, .shri u 4#7 5#7 0#5, .sari u 4#7 5#7 31#5, .roti u 4#7 5#7 0#5, .bfe u 4#7 5#7 true 32#6 0#5,
  .bfe u 4#7 5#7 false 1#6 31#5, .popc u 4#7 5#7, .clz u 4#7 5#7, .ctz u 4#7 5#7, .brev u 4#7 4#7]
def mixed : List Instr := [.iadd64 u 4#7 4#7 126#7, .imad u 4#7 5#7 6#7 8#7 false true true, .imad u 4#7 5#7 6#7 7#7 true false false, .bfi u 4#7 5#7 6#7 32#6 0#5]
theorem witness_IntegerArithmetic : (∀ i ∈ pairs, ∃ s d a b f, Issues i s ∧ pairResult i = some (d, a, b, f)) ∧
    (∀ i ∈ soles, ∃ s n d a f, Issues i s ∧ soleResult i = some (n, d, a, f)) ∧ ∀ i ∈ mixed, ∃ s n r, Issues i s ∧ mixedResult (s.spindle s.cur.sp) i = some (n, r) := by
  have h : pairs.all (fun i => issuesB i (ready i 1#32) && (pairResult i).isSome) = true := by decide +kernel
  have k : soles.all (fun i => issuesB i (ready i 1#32) && (soleResult i).isSome) = true := by decide +kernel
  have m : mixed.all (fun i => issuesB i (ready i 1#32) && (mixedResult ((ready i 1#32).spindle 0) i).isSome) = true := by decide +kernel
  simp only [List.all_eq_true, Bool.and_eq_true, Option.isSome_iff_exists] at h k m
  exact ⟨fun i hi => let ⟨a, ⟨d, x, y, f⟩, b⟩ := h i hi; ⟨_, d, x, y, f, issues_of i _ a, b⟩, fun i hi => let ⟨a, ⟨n, d, x, f⟩, b⟩ := k i hi; ⟨_, n, d, x, f, issues_of i _ a, b⟩,
    fun i hi => let ⟨a, ⟨n, r⟩, b⟩ := m i hi; ⟨_, n, r, issues_of i _ a, b⟩⟩

def predicates : List Instr := [.icmp u 1#7 5#7 0x40#7 9#4 false true 7#3 2#2 2#3, .icmp u 7#7 4#7 6#7 0#4 true false 0#3 1#2 7#3, .pbool u 1#7 2#7 7#7 4#3 5#3 0x96#8,
  .pollAll u 7#7 0#7, .pollAny u 1#7 7#7, .pollSame u 1#7 1#7, .pollMask u 4#7 2#7]
theorem witness_PredicateResults : ∀ i ∈ predicates, ∃ s n r, Issues i s ∧ predResult (s.spindle s.cur.sp) (s.executing i) i = some (n, r) := by
  have h : predicates.all (fun i => issuesB i (ready i 3#32) && (predResult ((ready i 3#32).spindle 0) ((ready i 3#32).executing i) i).isSome) = true := by decide +kernel
  simp only [List.all_eq_true, Bool.and_eq_true, Option.isSome_iff_exists] at h
  exact fun i hi => let ⟨a, ⟨n, r⟩, b⟩ := h i hi; ⟨_, n, r, issues_of i _ a, b⟩

def floats : List Instr := [.fadd u 4#7 5#7 6#7, .fsub u 4#7 5#7 6#7, .fmul u 4#7 5#7 6#7, .ffma u 4#7 5#7 6#7 7#7 3#3, .fmin u 4#7 5#7 6#7, .fmax u 4#7 5#7 6#7,
  .fopx u 4#7 6#7 8#7 10#7 3#3 1#2 3#3, .i2f u 4#7 5#7 0#4 true false 2#3, .f2i u 4#7 6#7 1#4 false true 1#3, .fabs u 4#7 5#7 2#2, .fneg u 4#7 5#7 3#2, .fclass u 4#7 5#7 0#2,
  .rint u 4#7 5#7 3#3 0#2, .hfma2 u 4#7 5#7 6#7 7#7 0#3 true, .fcvt u 4#7 5#7 0#4 2#4 4#3]
def sides : List Instr := [.fcmp u 1#7 5#7 6#7 13#4 0#2 7#3 0#2 2#3, .mxq u 4#7 5#7 6#7 0x21#8 4#3]
theorem witness_FloatResults : (∀ i ∈ floats, ∃ s n r, Issues i s ∧ floatResult (s.spindle s.cur.sp) i = some (n, r)) ∧
    (∀ i ∈ sides, ∃ s n r, Issues i s ∧ floatSideResult (s.spindle s.cur.sp) (s.executing i) i = some (n, r)) ∧
    (∃ s n r, Issues (.mxdq u 4#7 5#7 6#7 8#4 0#2 0#3) s ∧ floatResult (s.spindle s.cur.sp) (.mxdq u 4#7 5#7 6#7 8#4 0#2 0#3) = some (n, r)) ∧
    ∃ s, Issues (.mxdq u 4#7 5#7 6#7 8#4 0#2 0#3) s ∧ floatResult (s.spindle s.cur.sp) (.mxdq u 4#7 5#7 6#7 8#4 0#2 0#3) = none ∧
      CanFault (s.executing (.mxdq u 4#7 5#7 6#7 8#4 0#2 0#3)) s := by
  have h : floats.all (fun i => issuesB i (ready i 3#32) && (floatResult ((ready i 3#32).spindle 0) i).isSome) = true := by decide +kernel
  have k : sides.all (fun i => issuesB i (ready i 3#32) && (floatSideResult ((ready i 3#32).spindle 0) ((ready i 3#32).executing i) i).isSome) = true := by decide +kernel
  let mx : Instr := .mxdq u 4#7 5#7 6#7 8#4 0#2 0#3
  have m : (issuesB mx (readyWith mx 3#32 (fun sp => sp.setS 6 0x0140#32)) && (floatResult ((readyWith mx 3#32 (fun sp => sp.setS 6 0x0140#32)).spindle 0) mx).isSome) = true := by decide +kernel
  have e : issuesB mx (ready mx 3#32) = true := by decide +kernel
  simp only [List.all_eq_true, Bool.and_eq_true, Option.isSome_iff_exists] at h k m
  obtain ⟨m1, ⟨n, r⟩, m2⟩ := m
  exact ⟨fun i hi => let ⟨a, ⟨n, r⟩, b⟩ := h i hi; ⟨_, n, r, issues_of i _ a, b⟩, fun i hi => let ⟨a, ⟨n, r⟩, b⟩ := k i hi; ⟨_, n, r, issues_of i _ a, b⟩,
    ⟨_, n, r, issues_of mx _ m1, m2⟩, ready mx 3#32, issues_of mx _ e, Option.isNone_iff_eq_none.1 (by decide +kernel), faults_of _ _ (by decide +kernel)⟩

def longs : List Instr := [.fdiv u 4#7 5#7 6#7 0#2 3#3, .fsqrt u 4#7 6#7 1#2 0#3, .frsq u 4#7 5#7 2#2 0#3, .fex2 u 4#7 5#7, .flg2 u 4#7 5#7, .idiv u 4#7 5#7 6#7 7#7 true true false,
  .idiv u 4#7 6#7 8#7 0#7 false false true, .shfl u 4#7 5#7 6#7]
theorem witness_LongOperations : ∀ i ∈ longs, ∃ s n f r, Issues i s ∧ ChargesFlag s n true f ∧ longResult (s.spindle s.cur.sp) (s.executing i) i = some (n, r) := by
  have h : longs.all (fun i => issuesB i (ready i 3#32) && chargesB (ready i 3#32) 1 true 1 head && chargesB (ready i 3#32) 2 true 1 head &&
    match longResult ((ready i 3#32).spindle 0) ((ready i 3#32).executing i) i with
    | some (n, _) => n == 1 || n == 2
    | none => false) = true := by decide +kernel
  simp only [List.all_eq_true, Bool.and_eq_true] at h
  intro i hi
  obtain ⟨⟨⟨a, b⟩, c⟩, d⟩ := h i hi
  split at d
  · rename_i n r e
    have hn : n = 1 ∨ n = 2 := by simpa using d
    rcases hn with rfl | rfl
    · exact ⟨_, 1, 1, r, issues_of i _ a, charges_of head b, e⟩
    · exact ⟨_, 2, 1, r, issues_of i _ a, charges_of head c, e⟩
  · cases d

-- Control and the words that are no instruction (03, 05, 11 R275)

def transfers : List Instr := [.bra u 0#21, .brx u 4#7, .call u 0#21, .callx u 14#7 4#7, .ret u 4#7]
/-- A state whose d4 holds the address of the packet at issue. -/
def atPacket (i : Instr) : State := readyWith i 5#32 (fun sp => (List.range 32).foldl (fun sp l => sp.setD 4 l placedText) sp)
theorem witness_Transfers : ∀ i ∈ transfers, ∃ s target link, Issues i s ∧ transferTarget s i = some (target, link) ∧
    ∀ l < 32, (s.executing i).getLsbD l = true → TargetHeld s (target l) := by
  have h : transfers.all (fun i => issuesB i (atPacket i) && match transferTarget (atPacket i) i with
    | some (t, _) => (lanesOf ((atPacket i).executing i)).all (fun l => targetB (atPacket i) (t l))
    | none => false) = true := by decide +kernel
  simp only [List.all_eq_true, Bool.and_eq_true] at h
  intro i hi
  obtain ⟨a, b⟩ := h i hi
  split at b
  · rename_i t k e
    exact ⟨_, t, k, issues_of i _ a, e, fun l hl hx => target_of (List.all_eq_true.1 b l ((mem_lanesOf _ _).2 ⟨hl, hx⟩))⟩
  · cases b

/-- A false guard. -/
def g0 : Pfx := { c := false, g := 0#3 }
theorem witness_IdleWords : ∃ (i : Instr) (s : State), guarded i = true ∧ s.executing i = 0#32 := ⟨.mov g0 4#7 5#7, ready (.mov g0 4#7 5#7) 3#32, rfl, by decide +kernel⟩

/-- In user mode, with 16 allocated registers. -/
def userState (i : Instr) (tx : Bool) : State :=
  readyWith i 3#32 (fun sp => { sp with vcount := 16, lanes := sp.lanes.map (fun y => { y with priv := false, tx := tx }) })
theorem witness_StoppedWords :
    (∃ (i : Instr) (s : State), guarded i = true ∧ s.cur.sp < s.spindles.length ∧ (s.spindle s.cur.sp).lanes.length = 32 ∧ s.executing i ≠ 0#32 ∧ CanFault (s.executing i) s ∧
      needsPriv i = true ∧ ∀ l < 32, (s.executing i).getLsbD l = true → (s.lane s.cur.sp l).priv = false) ∧
    (∃ (i : Instr) (s : State), guarded i = true ∧ s.cur.sp < s.spindles.length ∧ (s.spindle s.cur.sp).lanes.length = 32 ∧ s.executing i ≠ 0#32 ∧ CanFault (s.executing i) s ∧
      needsPriv i = false ∧ overVcount i (s.spindle s.cur.sp).vcount = true) ∧
    ∃ (i : Instr) (s : State), guarded i = true ∧ s.cur.sp < s.spindles.length ∧ (s.spindle s.cur.sp).lanes.length = 32 ∧ s.executing i ≠ 0#32 ∧ CanFault (s.executing i) s ∧
      needsPriv i = false ∧ overVcount i (s.spindle s.cur.sp).vcount = false ∧ txForbidden i = true ∧
      ∀ l < 32, (s.executing i).getLsbD l = true → (s.lane s.cur.sp l).tx = true :=
  ⟨⟨.eret u, userState (.eret u) false, rfl, by decide +kernel, by decide +kernel, by decide +kernel, faults_of _ _ (by decide +kernel), by decide +kernel, by decide +kernel⟩,
   ⟨.mov u 16#7 5#7, userState (.mov u 16#7 5#7) false, rfl, by decide +kernel, by decide +kernel, by decide +kernel, faults_of _ _ (by decide +kernel), by decide +kernel, by decide +kernel⟩,
   .tbar u, userState (.tbar u) true, rfl, by decide +kernel, by decide +kernel, by decide +kernel, faults_of _ _ (by decide +kernel), by decide +kernel, by decide +kernel, by decide +kernel,
   by decide +kernel⟩

def illegal : Instr := .reservedMajor u 0x7E#7 0x1F_FFFF#21
/-- A trap has been delivered and its handler runs. -/
def handlerState (i : Instr) : State :=
  readyWith i 3#32 (fun sp => { sp with trapped := some { lanes := sp.lanes, vcount := 16, k := [], lmask := 3#32, cause := 0x18#16, frame := 0x20000#64, epc := [], uchunk := 0, chunks := [], gang := 0#64, ftz := false, txctl := 0#12, wpart := [], warr := [], wpark := 0#8, wrel := 0#8, barred := none } })
theorem witness_NoInstruction : (∃ s, Issues illegal s ∧ CanFault (s.executing illegal) s) ∧
    (∃ s, s.cur.sp < s.spindles.length ∧ (s.spindle s.cur.sp).lanes.length = 32 ∧ CanFault s.cur.lanes s) ∧
    ∃ s, Issues illegal s ∧ (s.spindle s.cur.sp).trapped ≠ none ∧ (s.spindle s.cur.sp).st ≠ .ended ∧ (s.spindle s.cur.sp).team < s.teams.length ∧
      (s.team (s.spindle s.cur.sp).team).st = .running :=
  ⟨⟨ready illegal 3#32, issues_of _ _ (by decide +kernel), faults_of _ _ (by decide +kernel)⟩,
   ⟨ready .zeroWord 3#32, by decide +kernel, by decide +kernel, faults_of _ _ (by decide +kernel)⟩,
   handlerState illegal, issues_of _ _ (by decide +kernel), by decide +kernel, by decide +kernel, by decide +kernel, by decide +kernel⟩

theorem witness_SoftwareTrap : ∃ s, Issues (.trap u 127#7) s ∧ CanFault (s.executing (.trap u 127#7)) s :=
  ⟨ready (.trap u 127#7) 3#32, issues_of _ _ (by decide +kernel), faults_of _ _ (by decide +kernel)⟩

/-- f11 counts one operation. -/
def busyState (i : Instr) : State := readyWith i 3#32 (fun sp => sp.setFlag 11 1#6)
theorem witness_Headers : ∃ s, s.cur.sp < s.spindles.length ∧ (s.spindle s.cur.sp).lanes.length = 32 ∧ Waits s 0x800#12 ∧ ¬ Waits s 0x400#12 :=
  ⟨busyState (.nop u), by decide +kernel, by decide +kernel, ⟨11, by decide +kernel⟩, by
    rintro ⟨n, hn, h⟩
    have h' : ∀ n < 12, ¬ ((0x400#12 : BitVec 12).getLsbD n = true ∧ ((busyState (.nop u)).spindle (busyState (.nop u)).cur.sp).flag n ≠ 0#6) := by decide +kernel
    exact h' n hn h⟩

theorem witness_Pauses : (∃ s, Issues (.yield u) s) ∧ (∃ s, Issues (.sleep u 0#14) s) ∧ ∃ s, Issues (.sleep u 0x3FFF#14) s :=
  ⟨⟨ready (.yield u) 3#32, issues_of _ _ (by decide +kernel)⟩, ⟨ready (.sleep u 0#14) 3#32, issues_of _ _ (by decide +kernel)⟩,
   ready (.sleep u 0x3FFF#14) 3#32, issues_of _ _ (by decide +kernel)⟩

theorem witness_Exits : ∃ s, Issues (.exit u) s ∧ (s.spindle s.cur.sp).trapped = none ∧ ∀ l < 32, (s.executing (.exit u)).getLsbD l = true → (s.lane s.cur.sp l).spec = false :=
  ⟨ready (.exit u) 0xFFFF_FFFF#32, issues_of _ _ (by decide +kernel), by decide +kernel, by decide +kernel⟩

/-- Barrier w7 with lanes 0 and 1 as participants, both held there. -/
def barrierState (arr : LaneMask) : State :=
  readyWith (.rcvw u 7#7) 3#32 (fun sp => { sp with wpart := cellSet [] 7 3#32, warr := cellSet [] 7 arr, lanes := sp.lanes.map (fun y => { y with st := .held (.rcvw 7) }) })
theorem witness_Reconvergence : (∃ s, Issues (.rcvb u 7#7 true) s) ∧ (∃ s, Issues (.rcvw u 0#7) s) ∧
    (∃ s, 0 < s.spindles.length ∧ (s.spindle 0).lanes.length = 32 ∧ Complete s 0 7) ∧ ∃ s, 0 < s.spindles.length ∧ (s.spindle 0).lanes.length = 32 ∧ ¬ Complete s 0 7 :=
  ⟨⟨ready (.rcvb u 7#7 true) 3#32, issues_of _ _ (by decide +kernel)⟩, ⟨ready (.rcvw u 0#7) 3#32, issues_of _ _ (by decide +kernel)⟩,
   ⟨barrierState 3#32, by decide +kernel, by decide +kernel, by
      have h : ∀ l < 32, (((barrierState 3#32).spindle 0).wParticipants 7).getLsbD l = true → (((barrierState 3#32).spindle 0).wArrived 7).getLsbD l = true := by decide +kernel
      exact fun l hl hp => .inl (h l hl hp)⟩,
   barrierState 1#32, by decide +kernel, by decide +kernel, fun h => by
      have k := h 1 (by decide) (by decide +kernel)
      revert k
      decide +kernel⟩

-- Memory (07, 13)

/-- Register pair d4 of every lane holds its address. -/
def ptrs (f : Nat → Nat) (sp : Spindle) : Spindle := (List.range 32).foldl (fun sp l => sp.setD 4 l (BitVec.ofNat 64 (f l))) sp
/-- A full line at its home, and the core's copy of one. -/
def hline (ln : Nat) : HomeLine :=
  { ea := 1, ln := ln, line := { Line.empty with data := BitVec.ofNat 1024 (2 ^ 700 + ln), valid := BitVec.allOnes 128 }, version := 0, owner := none, pend := false, undo := [] }
def copy (ln : Nat) (own : Bool) : L1Line :=
  { core := 0, ea := 1, ln := ln, line := { Line.empty with data := BitVec.ofNat 1024 (2 ^ 700 + ln), valid := BitVec.allOnes 128 }, owned := own, oteam := 0, til := none, isSealed := false }
/-- `ready` with addresses in d4 and lines 1024 and 1025 (addresses 0x20000 to 0x200FF) at their homes or in the L1; `leaf` is the leaf of the pages. -/
def atHomes (i : Instr) (f : Nat → Nat) : State := (readyWith i 0x8000_0003#32 (ptrs f)).modMem (fun m => { m with home := m.home ++ [hline 1024, hline 1025] })
def inL1 (i : Instr) (f : Nat → Nat) (own : Bool) (leaf : DWord) : State :=
  (readyWith i 0x8000_0003#32 (ptrs f)).modMem (fun m => { m with l1 := [copy 1024 own, copy 1025 own], rights := m.rights.map (fun x => { x with leaf := leaf }) })

def allowedB (s : State) (va : DWord) (n : Nat) (nd : Need) (e : DWord) : Bool :=
  va.toNat % n == 0 && canonical va && (rightsFind s.mem s.me.core (s.eaAt va) (pageOf va)).any (fun x => x.leaf == e) && (!nd.r || leafR e) &&
    (!nd.w || (leafW e && !leafLock e && !sealedPage s.mem (s.eaAt va) (pageOf va) && !moving s (s.eaAt va) (pageOf va))) && (!nd.x || leafX e)
theorem allowed_of {s : State} {va : DWord} {n : Nat} {nd : Need} {e : DWord} (h : allowedB s va n nd e = true) : Allowed s va n nd e := by
  simp only [allowedB, Bool.and_eq_true, Option.any_eq_true, beq_iff_eq, Bool.or_eq_true, Bool.not_eq_true'] at h
  obtain ⟨⟨⟨⟨⟨h1, h2⟩, x, h3, h4⟩, h5⟩, h6⟩, h7⟩ := h
  refine ⟨h1, h2, ⟨x, h3, h4⟩, fun c => ?_, fun c => ?_, fun c => ?_⟩
  · rcases h5 with h5 | h5
    · rw [c] at h5; cases h5
    · exact h5
  · rcases h6 with h6 | h6
    · rw [c] at h6; cases h6
    · exact ⟨h6.1.1.1, h6.1.1.2, h6.1.2, h6.2⟩
  · rcases h7 with h7 | h7
    · rw [c] at h7; cases h7
    · exact h7

def atHomeB (s : State) (va : DWord) (n : Nat) : Bool :=
  (homeFind s.mem (s.eaAt va) (lnOf va)).any (fun h => byteMask (offOf va) n &&& ~~~h.line.valid == 0#128 && h.owner.isNone && h.undo.isEmpty &&
    marksHit h.line (byteMask (offOf va) n) == 0#4) && (l1Find s.mem s.me.core (s.eaAt va) (lnOf va)).isNone && s.mem.hostHeld.isEmpty && s.links.down.isEmpty && !locked s (s.eaAt va) (lnOf va)
theorem atHome_of {s : State} {va : DWord} {n : Nat} (h : atHomeB s va n = true) : AtHome s va n := by
  simp only [atHomeB, Bool.and_eq_true, Option.any_eq_true, beq_iff_eq, Option.isNone_iff_eq_none, List.isEmpty_iff, Bool.not_eq_true'] at h
  obtain ⟨⟨⟨⟨⟨x, h1, ⟨⟨h2, h3⟩, h4⟩, h5⟩, h6⟩, h7⟩, h8⟩, h9⟩ := h
  exact ⟨⟨x, h1, h2, h3, h4, h5⟩, h6, h7, h8, h9⟩

/-- A property of every lane below 32, checked as a Bool. -/
theorem lanes_of {p : Nat → Prop} {b : Nat → Bool} (hb : ∀ l, b l = true → p l) (x : LaneMask) (h : (lanesOf x).all b = true) : ∀ l < 32, x.getLsbD l = true → p l :=
  fun l hl hx => hb l (List.all_eq_true.1 h l ((mem_lanesOf _ _).2 ⟨hl, hx⟩))

def ld16 : Instr := .ld u 8#7 4#7 4#3 false false 7#3 0xFF_FFF0#24
def f16 (l : Nat) : Nat := 0x20010 + 16 * (l % 8)
theorem witness_Loads : ∃ (s : State) (va e : Nat → DWord) (line : Nat → Line), Issues ld16 s ∧ ChargesFlag s 2 true 1 ∧
    (∀ l, va l = BitVec.ofInt 64 (((s.spindle s.cur.sp).getD 4 l).toInt + (0xFF_FFF0#24 : BitVec 24).toInt)) ∧
    ∀ l < 32, (s.executing ld16).getLsbD l = true → (s.lane s.cur.sp l).tx = false ∧ Allowed s (va l) 16 needR (e l) ∧ ServedByL1 s (va l) 16 (min 7 (leafLcap (e l))) (line l) := by
  let s := inL1 ld16 f16 true 0x21F#64
  refine ⟨s, fun l => BitVec.ofInt 64 (((s.spindle s.cur.sp).getD 4 l).toInt + (0xFF_FFF0#24 : BitVec 24).toInt), fun _ => 0x21F#64, fun _ => (copy 1024 true).line,
    issues_of _ _ (by decide +kernel), charges_of head (by decide +kernel), fun _ => rfl, ?_⟩
  have a : (lanesOf (s.executing ld16)).all (fun l => !(s.lane s.cur.sp l).tx && allowedB s (BitVec.ofInt 64 (((s.spindle s.cur.sp).getD 4 l).toInt + (0xFF_FFF0#24 : BitVec 24).toInt)) 16 needR 0x21F#64 &&
    (let va := BitVec.ofInt 64 (((s.spindle s.cur.sp).getD 4 l).toInt + (0xFF_FFF0#24 : BitVec 24).toInt)
     l1Find s.mem s.me.core (s.eaAt va) (lnOf va) == some (copy 1024 true) && decide (byteMask (offOf va) 16 &&& ~~~(copy 1024 true).line.valid = 0#128) &&
       decide (marksHit (copy 1024 true).line (byteMask (offOf va) 16) = 0#4))) = true := by decide +kernel
  refine lanes_of (fun l h => ?_) _ a
  simp only [Bool.and_eq_true, beq_iff_eq, decide_eq_true_eq, Bool.not_eq_true'] at h
  exact ⟨h.1.1, allowed_of h.1.2, copy 1024 true, h.2.1.1, rfl, h.2.1.2, .inl rfl, h.2.2⟩

def st8 : Instr := .st u 4#7 8#7 3#3 false 8#24
def f8 (l : Nat) : Nat := 0x20000 + 8 * (l % 16)
/-- In a line that the core owns, and in a line of a non-coherent page. -/
theorem witness_Stores : ∀ own ∈ [true, false], ∃ (s : State) (va e : Nat → DWord), Issues st8 s ∧ (s.teamOf s.cur.sp).rollb = false ∧
    (s.mem.l1.filter (fun x => x.core == s.me.core)).length + 32 ≤ Config.l1Lines ∧
    (∀ l, va l = BitVec.ofInt 64 (((s.spindle s.cur.sp).getD 4 l).toInt + (8#24 : BitVec 24).toInt)) ∧
    ∀ l < 32, (s.executing st8).getLsbD l = true → (s.lane s.cur.sp l).tx = false ∧ Allowed s (va l) 8 needW (e l) ∧ WritesInL1 s (va l) (e l) := by
  have t : ∀ own ∈ [true, false], let s := inL1 st8 f8 own (if own then 0x21F#64 else 0x20F#64)
      (issuesB st8 s && !(s.teamOf s.cur.sp).rollb && decide ((s.mem.l1.filter (fun x => x.core == s.me.core)).length + 32 ≤ Config.l1Lines) && (lanesOf (s.executing st8)).all (fun l => !(s.lane s.cur.sp l).tx &&
        (let va := BitVec.ofInt 64 (((s.spindle s.cur.sp).getD 4 l).toInt + (8#24 : BitVec 24).toInt)
         allowedB s va 8 needW (if own then 0x21F#64 else 0x20F#64) &&
         (l1Find s.mem s.me.core (s.eaAt va) (lnOf va)).any (fun x => x.serves s.clock.ns && x.owned == own && x.oteam == s.me.team)))) = true := by decide +kernel
  intro own ho
  have h := t own ho
  simp only [Bool.and_eq_true, Bool.not_eq_true', decide_eq_true_eq] at h
  refine ⟨_, fun l => _, fun _ => if own then 0x21F#64 else 0x20F#64, issues_of _ _ h.1.1.1, h.1.1.2, h.1.2, fun _ => rfl, lanes_of (fun l k => ?_) _ h.2⟩
  simp only [Bool.and_eq_true, Bool.not_eq_true', Option.any_eq_true, beq_iff_eq] at k
  obtain ⟨k1, k2, x, k3, ⟨k4, k5⟩, k6⟩ := k
  refine ⟨k1, allowed_of k2, ?_⟩
  cases own
  · exact .inl ⟨(by decide : leafClass 0x20F#64 = 0), fun y hy => by rw [k3] at hy; cases hy; exact .inl k4⟩
  · exact .inr ⟨(by decide : leafClass 0x21F#64 ≠ 0), x, k3, k5, k6⟩

def lds16 : Instr := .lds u 8#7 4#7 4#3 false
def sts8 : Instr := .sts u 3#3 4#7 8#7
/-- v4 holds a scratchpad offset in every lane, up to the last of the share. -/
def scratchState (i : Instr) (n : Nat) : State := readyWith i 0x8000_0003#32 (fun sp => (List.range 32).foldl (fun sp l => sp.setV 4 l (BitVec.ofNat 32 (Config.scratchBytes - n * (l + 1)))) sp)
theorem witness_ScratchLoads : ∃ (s : State) (key : Nat → Nat), Issues lds16 s ∧ ChargesFlag s 1 true 1 ∧
    (∀ c ∈ s.cmds, c.team = (s.spindle s.cur.sp).team → c.scratchNew = []) ∧ ∀ l < 32, (s.executing lds16).getLsbD l = true →
    scratchAt s ((s.spindle s.cur.sp).getV 4 l) 16 (key l) ∧ ∀ j ∈ scratchSectors (key l) 16, j ∉ (s.teamOf s.cur.sp).scratchPoison := by
  let s := scratchState lds16 16
  have a : (lanesOf (s.executing lds16)).all (fun l => ((s.spindle s.cur.sp).getV 4 l).toNat % 16 == 0 && scratchKey (s.teamOf s.cur.sp) (s.spindle s.cur.sp) ((s.spindle s.cur.sp).getV 4 l) ==
    some (Config.scratchBytes - 16 * (l + 1)) && (s.teamOf s.cur.sp).scratchPoison.isEmpty) = true := by decide +kernel
  refine ⟨s, fun l => Config.scratchBytes - 16 * (l + 1), issues_of _ _ (by decide +kernel), charges_of head (by decide +kernel), by decide +kernel, lanes_of (fun l h => ?_) _ a⟩
  simp only [Bool.and_eq_true, beq_iff_eq, List.isEmpty_iff] at h
  exact ⟨⟨h.1.1, h.1.2⟩, fun j _ hj => by rw [h.2] at hj; cases hj⟩
theorem witness_ScratchStores : ∃ (s : State) (key : Nat → Nat), Issues sts8 s ∧ (s.spindle s.cur.sp).team < s.teams.length ∧
    (∀ c ∈ s.cmds, c.team = (s.spindle s.cur.sp).team → c.scratchNew = []) ∧ ∀ l < 32, (s.executing sts8).getLsbD l = true →
    scratchAt s ((s.spindle s.cur.sp).getV 4 l) 8 (key l) := by
  let s := scratchState sts8 8
  have a : (lanesOf (s.executing sts8)).all (fun l => ((s.spindle s.cur.sp).getV 4 l).toNat % 8 == 0 && scratchKey (s.teamOf s.cur.sp) (s.spindle s.cur.sp) ((s.spindle s.cur.sp).getV 4 l) ==
    some (Config.scratchBytes - 8 * (l + 1))) = true := by decide +kernel
  refine ⟨s, fun l => Config.scratchBytes - 8 * (l + 1), issues_of _ _ (by decide +kernel), by decide +kernel, by decide +kernel, lanes_of (fun l h => ?_) _ a⟩
  simp only [Bool.and_eq_true, beq_iff_eq] at h
  exact h

def atoms : List Instr := [.atom u 8#7 4#7 6#7 12#5 false 0#2 4#3 0#7 8#14, .atom u 8#7 4#7 6#7 9#5 true 3#2 3#3 10#7 8#14, .red u 4#7 6#7 0#5 true 2#2 3#3 8#14,
  .cas128 u 8#7 4#7 12#7 16#7 7#3 1#2 3#3 0#14]
theorem witness_Atomics : ∀ i ∈ atoms, ∃ (s : State) (f : Nat) (g : AtomForm) (va e : Nat → DWord), Issues i s ∧ ChargesFlag s 2 true f ∧ atomForm (s.spindle s.cur.sp) i = some g ∧
    (s.teamOf s.cur.sp).rollb = false ∧ NoRegions s g.scope (g.ord != 0#2) ∧ (∀ l, va l = BitVec.ofInt 64 (((s.spindle s.cur.sp).getD g.a.toNat l).toInt + g.off.toInt)) ∧
    ∀ l < 32, (s.executing i).getLsbD l = true → Allowed s (va l) g.n needRW (e l) ∧ scopeOk (leafClass (e l)) g.scope = true ∧ AtHome s (va l) g.n := by
  have b : ∀ i ∈ atoms, let s := (atHomes i f16).modMem (fun m => { m with rights := m.rights.map (fun x => { x with leaf := 0x22F#64 }) })
      (issuesB i s && chargesB s 2 true 1 head && !(s.teamOf s.cur.sp).rollb && (s.partOf s.cur.sp).bindtab &&& ~~~0xFFF#64 == 0#64 && match atomForm (s.spindle s.cur.sp) i with
        | some g => (lanesOf (s.executing i)).all (fun l => let va := BitVec.ofInt 64 (((s.spindle s.cur.sp).getD g.a.toNat l).toInt + g.off.toInt)
          allowedB s va g.n needRW 0x22F#64 && scopeOk (leafClass 0x22F#64) g.scope && atHomeB s va g.n)
        | none => false) = true := by decide +kernel
  intro i hi
  have h := b i hi
  simp only [Bool.and_eq_true, Bool.not_eq_true', beq_iff_eq] at h
  obtain ⟨⟨⟨⟨h1, h2⟩, h3⟩, h4⟩, h5⟩ := h
  split at h5
  · rename_i g e
    exact ⟨_, 1, g, fun l => _, fun _ => 0x22F#64, issues_of _ _ h1, charges_of head h2, e, h3, .inr (.inr h4), fun _ => rfl, lanes_of (fun l k => by
      simp only [Bool.and_eq_true] at k
      exact ⟨allowed_of k.1.1, k.1.2, atHome_of k.2⟩) _ h5⟩
  · cases h5

-- Ordering, copies and ranges (07 R164-R175)

def gotB {α : Type} (r : Got α) (f : State → α → Bool) : Bool :=
  match r with
  | .ok s a => f s a
  | _ => false
theorem got_of {α : Type} {r : Got α} {f : State → α → Bool} (h : gotB r f = true) : ∃ s a, r = .ok s a ∧ f s a = true := by
  cases r <;> simp only [gotB] at h
  · exact ⟨_, _, rfl, h⟩
  all_goals cases h

def withLeaf (e : DWord) (s : State) : State := s.modMem (fun m => { m with rights := m.rights.map (fun x => { x with leaf := e }) })
def spinLeaf (s : State) : State := withLeaf 0x22F#64 s
def leaseLeaf : DWord := 0x0070_0000_0000_021F#64
def waitcs : List Instr := [.waitc u 8#7 4#7 6#7 0#4 true true 3#3 8#14, .waitc u 8#7 4#7 6#7 9#4 false false 0#3 8#14]
theorem witness_MemoryWaits : ∀ i ∈ waitcs, ∃ p d a b cmp w64 acq scope off, i = .waitc p d a b cmp w64 acq scope off ∧ ∃ (s : State) (va e x : Nat → DWord), Issues i s ∧ NoRegions s scope acq ∧
    (∀ l, va l = BitVec.ofInt 64 (((s.spindle s.cur.sp).getD a.toNat l).toInt + off.toInt)) ∧
    ∀ l < 32, (s.executing i).getLsbD l = true → (acq = true → scopeOk (leafClass (e l)) scope = true) ∧
      Allowed s (va l) (if w64 then 8 else 4) needR (e l) ∧ AtHome s (va l) (if w64 then 8 else 4) ∧
      x l = BitVec.ofNat 64 (lineBytesGet ((homeBytes s.mem (s.eaAt (va l)) (lnOf (va l))).getD 0#1024) (offOf (va l)) (if w64 then 8 else 4)) := by
  have b : ∀ i ∈ waitcs, let s := spinLeaf (atHomes i f8)
      (issuesB i s && (s.partOf s.cur.sp).bindtab &&& ~~~0xFFF#64 == 0#64 && match i with
        | .waitc _ _ a _ _ w64 _ scope off => (lanesOf (s.executing i)).all (fun l => let va := BitVec.ofInt 64 (((s.spindle s.cur.sp).getD a.toNat l).toInt + off.toInt)
          scopeOk (leafClass 0x22F#64) scope && allowedB s va (if w64 then 8 else 4) needR 0x22F#64 && atHomeB s va (if w64 then 8 else 4))
        | _ => false) = true := by decide +kernel
  intro i hi
  have h := b i hi
  simp only [Bool.and_eq_true, beq_iff_eq] at h
  obtain ⟨⟨h1, h2⟩, h3⟩ := h
  split at h3
  · rename_i p d a b cmp w64 acq scope off
    let s := spinLeaf (atHomes (.waitc p d a b cmp w64 acq scope off) f8)
    let va (l : Nat) : DWord := BitVec.ofInt 64 (((s.spindle s.cur.sp).getD a.toNat l).toInt + off.toInt)
    have q := lanes_of (p := fun l => scopeOk (leafClass 0x22F#64) scope = true ∧ Allowed s (va l) (if w64 then 8 else 4) needR 0x22F#64 ∧ AtHome s (va l) (if w64 then 8 else 4))
      (fun l k => by
        simp only [Bool.and_eq_true] at k
        exact ⟨k.1.1, allowed_of k.1.2, atHome_of k.2⟩) _ h3
    exact ⟨_, _, _, _, _, _, _, _, _, rfl, s, va, fun _ => 0x22F#64,
      fun l => BitVec.ofNat 64 (lineBytesGet ((homeBytes s.mem (s.eaAt (va l)) (lnOf (va l))).getD 0#1024) (offOf (va l)) (if w64 then 8 else 4)),
      issues_of _ _ h1, .inr (.inr h2), fun _ => rfl, fun l hl hx => ⟨fun _ => (q l hl hx).1, (q l hl hx).2.1, (q l hl hx).2.2, rfl⟩⟩
  · cases h3

/-- One copy of line 1024 in core 0's L1, its first byte dirty, the line at its home. -/
def dirtyState (i : Instr) : State := (atHomes i f8).modMem (fun m => { m with l1 := [{ copy 1024 false with line := { (copy 1024 false).line with dirty := 1#128 } }] })
theorem witness_CopyControl : ∃ (s : State) (sel : Nat → Nat → Nat → Bool) (x : L1Line), sel 0 1 1024 = true ∧ l1Find (wbLines s (fun x => sel x.core x.ea x.ln)).mem 0 1 1024 = some x := by
  have h : (l1Find (wbLines (dirtyState (.nop u)) (fun x => x.core == 0 && x.ea == 1)).mem 0 1 1024).isSome = true := by decide +kernel
  obtain ⟨x, h⟩ := Option.isSome_iff_exists.1 h
  exact ⟨_, fun c e _ => c == 0 && e == 1, x, rfl, h⟩

theorem witness_Fences : ∀ kind ∈ [1#2, 2#2, 3#2], ∀ scope ∈ [0#3, 1#3, 4#3], ∃ s, Issues (.fence u kind scope) s := by
  have h : ∀ kind ∈ [1#2, 2#2, 3#2], ∀ scope ∈ [0#3, 1#3, 4#3], issuesB (.fence u kind scope) (ready (.fence u kind scope) 3#32) = true := by decide +kernel
  exact fun k hk sc hs => ⟨_, issues_of _ _ (h k hk sc hs)⟩

def acq8 : Instr := .acq u 8#7 4#7 4#3 8#14
def rel8 : Instr := .rel u 4#7 6#7 4#3 8#14
theorem witness_Synchronisation : ∀ i ∈ [acq8, rel8], ∃ (s : State) (va e : Nat → DWord), Issues i s ∧ NoRegions s 4#3 true ∧ (s.teamOf s.cur.sp).rollb = false ∧
    (∀ l, va l = BitVec.ofInt 64 (((s.spindle s.cur.sp).getD 4 l).toInt + (8#14 : BitVec 14).toInt)) ∧
    ∀ l < 32, (s.executing i).getLsbD l = true → Allowed s (va l) 8 needR (e l) ∧ Allowed s (va l) 8 needW (e l) ∧ scopeOk (leafClass (e l)) 4#3 = true ∧ AtHome s (va l) 8 := by
  have b : ∀ i ∈ [acq8, rel8], let s := spinLeaf (atHomes i f8)
      (issuesB i s && (s.partOf s.cur.sp).bindtab &&& ~~~0xFFF#64 == 0#64 && !(s.teamOf s.cur.sp).rollb && (lanesOf (s.executing i)).all (fun l =>
        let va := BitVec.ofInt 64 (((s.spindle s.cur.sp).getD 4 l).toInt + (8#14 : BitVec 14).toInt)
        allowedB s va 8 needR 0x22F#64 && allowedB s va 8 needW 0x22F#64 && scopeOk (leafClass 0x22F#64) 4#3 && atHomeB s va 8)) = true := by decide +kernel
  intro i hi
  have h := b i hi
  simp only [Bool.and_eq_true, beq_iff_eq, Bool.not_eq_true'] at h
  refine ⟨_, fun l => _, fun _ => 0x22F#64, issues_of _ _ h.1.1.1, .inr (.inr h.1.1.2), h.1.2, fun _ => rfl, lanes_of (fun l k => ?_) _ h.2⟩
  simp only [Bool.and_eq_true] at k
  exact ⟨allowed_of k.1.1.1, allowed_of k.1.1.2, k.1.2, atHome_of k.2⟩

/-- A binding table of 16 entries at 0x20000, whose line stands at its home: entry 0 has VALID set as the line's bit 0 says. -/
def bound (i : Instr) (x : LaneMask) (bit : Nat) (f : Spindle → Spindle) : State :=
  { (readyWith i x f).modPart 0 (fun q => { q with bindtab := 0x2000F#64 }) with
    mem := { (readyWith i x f).mem with home := (readyWith i x f).mem.home ++ [{ hline 1024 with line := { (hline 1024).line with data := BitVec.ofNat 1024 bit } }] } }
def bindI : Instr := .bind u 8#7 4#7 6#7 10#7
def unbindI : Instr := .unbind u 10#7
def operands (sp : Spindle) : Spindle := ((sp.setD 4 0 0x3_0080#64).setD 6 0 0x2_0008#64).setV 10 0 1#32
theorem witness_Bindings :
    (∃ s, Issues bindI s ∧ (∀ l < 32, (s.executing bindI).getLsbD l = true → ((s.spindle s.cur.sp).getD 4 l).toNat % 128 = 0 ∧ ((s.spindle s.cur.sp).getD 6 l).toNat % 8 = 0) ∧
      bindTable s s.cur.sp = none) ∧
    (∃ s l tab n k s1 s2, Issues bindI s ∧ s.executing bindI = laneBit l ∧ l < 32 ∧ ((s.spindle s.cur.sp).getD 4 l).toNat % 128 = 0 ∧ ((s.spindle s.cur.sp).getD 6 l).toNat % 8 = 0 ∧
      bindTable s s.cur.sp = some (tab, n) ∧ (s.spindle s.cur.sp).getV 10 l ≠ 0#32 ∧ freeBinding (s.advance 2) s.cur.sp tab n = .ok s1 (some k) ∧
      bindWrite s1 l (tab + BitVec.ofNat 64 (32 * k)) 32 5 (((s.spindle s.cur.sp).getD 6 l).toNat + 1 +
        2 ^ 64 * ((s.spindle s.cur.sp).getD 4 l).toNat + 2 ^ 128 * ((s.spindle s.cur.sp).getV 10 l).toNat) = .ok s2 ()) ∧
    (∃ s, Issues unbindI s ∧ ∀ l < 32, (s.executing unbindI).getLsbD l = true → ∀ tab n, bindTable s s.cur.sp = some (tab, n) → n ≤ ((s.spindle s.cur.sp).getV 10 l).toNat) ∧
    ∃ s l tab n v s1 s2, Issues unbindI s ∧ s.executing unbindI = laneBit l ∧ l < 32 ∧ bindTable s s.cur.sp = some (tab, n) ∧ ((s.spindle s.cur.sp).getV 10 l).toNat < n ∧
      devRead (s.advance 2) s.me (tab + BitVec.ofNat 64 (32 * ((s.spindle s.cur.sp).getV 10 l).toNat)) 8 = .ok s1 v ∧ v % 2 = 1 ∧
      bindWrite s1 l (tab + BitVec.ofNat 64 (32 * ((s.spindle s.cur.sp).getV 10 l).toNat)) 8 3 (v - 1) = .ok s2 () := by
  refine ⟨⟨readyWith bindI 1#32 operands, issues_of _ _ (by decide +kernel), by decide +kernel, by decide +kernel⟩, ?_,
    ⟨readyWith unbindI 1#32 operands, issues_of _ _ (by decide +kernel), fun l hl _ tab n h => ?_⟩, ?_⟩
  · let s := bound bindI 1#32 1 operands
    have h : gotB (freeBinding (s.advance 2) s.cur.sp 0x20000#64 16) (fun s1 k => k == some 1 && gotB (bindWrite s1 0 (0x20000#64 + BitVec.ofNat 64 (32 * 1)) 32 5
      (((s.spindle s.cur.sp).getD 6 0).toNat + 1 + 2 ^ 64 * ((s.spindle s.cur.sp).getD 4 0).toNat + 2 ^ 128 * ((s.spindle s.cur.sp).getV 10 0).toNat)) (fun _ _ => true)) = true := by decide +kernel
    obtain ⟨s1, k, h1, h2⟩ := got_of h
    simp only [Bool.and_eq_true, beq_iff_eq] at h2
    obtain ⟨s2, _, h3, _⟩ := got_of h2.2
    rw [h2.1] at h1
    exact ⟨s, 0, 0x20000#64, 16, 1, s1, s2, issues_of _ _ (by decide +kernel), by decide +kernel, by decide, by decide +kernel, by decide +kernel, by decide +kernel, by decide +kernel, h1, h3⟩
  · have k : bindTable (readyWith unbindI 1#32 operands) (readyWith unbindI 1#32 operands).cur.sp = none := by decide +kernel
    rw [k] at h
    cases h
  · let s := bound unbindI 1#32 (2 ^ 256) operands
    have h : gotB (devRead (s.advance 2) s.me (0x20000#64 + BitVec.ofNat 64 (32 * ((s.spindle s.cur.sp).getV 10 0).toNat)) 8) (fun s1 v => v % 2 == 1 &&
      gotB (bindWrite s1 0 (0x20000#64 + BitVec.ofNat 64 (32 * ((s.spindle s.cur.sp).getV 10 0).toNat)) 8 3 (v - 1)) (fun _ _ => true)) = true := by decide +kernel
    obtain ⟨s1, v, h1, h2⟩ := got_of h
    simp only [Bool.and_eq_true, beq_iff_eq] at h2
    obtain ⟨s2, _, h3, _⟩ := got_of h2.2
    exact ⟨s, 0, 0x20000#64, 16, v, s1, s2, issues_of _ _ (by decide +kernel), by decide +kernel, by decide, by decide +kernel, by decide +kernel, h1, h2.1, h3⟩

theorem pages_of {s : State} {va : DWord} {n : Nat} {nd : Need} (e : DWord) (h : (List.range (pagesIn va n)).all (fun k => allowedB s (pageAt va k) 1 nd e) = true) : PagesAllowed s va n nd :=
  fun k hk => ⟨e, allowed_of (List.all_eq_true.1 h k (List.mem_range.2 hk))⟩
/-- A range that begins in the middle of a line and of a page and ends in the next page, and an empty one in lane 31. -/
def rangeState (i : Instr) : State := readyWith i 0x8000_0001#32 (fun sp => ((sp.setD 4 0 0x20FC1#64).setV 6 0 129#32).setD 4 31 0x20001#64)
def ranges : List (Instr × Need) := [(.cwb u 4#7 6#7, needR), (.cinv u 4#7 6#7, needR), (.cdis u 8#7 4#7 6#7, needW)]
theorem witness_RangeOperations : ∀ x ∈ ranges, ∃ s, Issues x.1 s ∧ ChargesFlag s 2 true 1 ∧ s.mem.hostHeld = [] ∧
    ∀ l < 32, (s.executing x.1).getLsbD l = true → PagesAllowed s ((s.spindle s.cur.sp).getD 4 l) ((s.spindle s.cur.sp).getV 6 l).toNat x.2 ∧
      lockedAny s (fun ea ln => ea == s.eaAt ((s.spindle s.cur.sp).getD 4 l) && lineMeets ((s.spindle s.cur.sp).getD 4 l) ((s.spindle s.cur.sp).getV 6 l).toNat ln) = false := by
  have b : ∀ x ∈ ranges, let s := rangeState x.1
      (issuesB x.1 s && chargesB s 2 true 1 head && s.mem.hostHeld.isEmpty && (lanesOf (s.executing x.1)).all (fun l => (List.range (pagesIn ((s.spindle s.cur.sp).getD 4 l) ((s.spindle s.cur.sp).getV 6 l).toNat)).all
        (fun k => allowedB s (pageAt ((s.spindle s.cur.sp).getD 4 l) k) 1 x.2 0x21F#64) &&
        !lockedAny s (fun ea ln => ea == s.eaAt ((s.spindle s.cur.sp).getD 4 l) && lineMeets ((s.spindle s.cur.sp).getD 4 l) ((s.spindle s.cur.sp).getV 6 l).toNat ln))) = true := by decide +kernel
  intro x hx
  have h := b x hx
  simp only [Bool.and_eq_true, List.isEmpty_iff] at h
  exact ⟨_, issues_of _ _ h.1.1.1, charges_of head h.1.1.2, h.1.2, lanes_of (fun l k => by
    simp only [Bool.and_eq_true, Bool.not_eq_true'] at k
    exact ⟨pages_of 0x21F#64 k.1, k.2⟩) _ h.2⟩

theorem witness_Seals : ∀ un : Bool, ∃ s, let i : Instr := if un then .unseal u 4#7 6#7 else .seal u 4#7 6#7
    let va (k : Nat) : DWord := (s.spindle s.cur.sp).getSD 4 + BitVec.ofNat 64 (4096 * k)
    Issues i s ∧ ((s.spindle s.cur.sp).getSD 4).toNat % 4096 = 0 ∧ (un = true ∨ s.mem.hostHeld = []) ∧
    (∀ k < ((s.spindle s.cur.sp).getS 6).toNat, lockedAny s (fun e ln => e == s.eaAt (va k) && pageOfLn ln == pageOf (va k)) = false) ∧
    ∀ k < ((s.spindle s.cur.sp).getS 6).toNat, canonical (va k) = true ∧ ∃ x, rightsFind s.mem s.me.core (s.eaAt (va k)) (pageOf (va k)) = some x ∧ leafW x.leaf = true := by
  have b : ∀ un : Bool, let i : Instr := if un then .unseal u 4#7 6#7 else .seal u 4#7 6#7
      let s := readyWith i 1#32 (fun sp => (sp.setSD 4 0x20000#64).setS 6 2#32)
      (issuesB i s && ((s.spindle s.cur.sp).getSD 4).toNat % 4096 == 0 && (List.range ((s.spindle s.cur.sp).getS 6).toNat).all (fun k =>
        canonical ((s.spindle s.cur.sp).getSD 4 + BitVec.ofNat 64 (4096 * k)) && (rightsFind s.mem s.me.core (s.eaAt ((s.spindle s.cur.sp).getSD 4 + BitVec.ofNat 64 (4096 * k)))
          (pageOf ((s.spindle s.cur.sp).getSD 4 + BitVec.ofNat 64 (4096 * k)))).any (fun x => leafW x.leaf))) = true := by decide +kernel
  intro un
  have h := b un
  simp only [Bool.and_eq_true, beq_iff_eq, List.all_eq_true, Option.any_eq_true, List.mem_range] at h
  exact ⟨_, issues_of _ _ h.1.1, h.1.2, .inr rfl, fun k _ => rfl, fun k hk => h.2 k hk⟩

def prefs : List Instr := [.pref u 4#7 0#3 true, .pref u 4#7 7#3 false]
theorem witness_Prefetches : (∃ s : State, Issues (.pref u 4#7 7#3 true) s ∧ s.mem.hostHeld = [] ∧ s.links.down = [] ∧ s.mem.commits = [] ∧ s.mem.home.length + s.mem.remote.length + 64 < Config.sliceLines ∧
      s.mem.buf.length < Config.bufferLines) ∧
    (∀ x, ∃ (s t : State) (lc : BitVec 3) (e : DWord) (h : HomeLine), let i : Instr := .pref u 4#7 lc x
      let va := (s.spindle s.cur.sp).getD 4 0
      Issues i s ∧ s.executing i = laneBit 0 ∧ exec i s = .next t ∧ (s.mem.l1.filter (fun y => y.core == s.me.core)).length < Config.l1Lines ∧
      Allowed s va 1 needR e ∧ AtHome s va 128 ∧ homeFind s.mem (s.eaAt va) (lnOf va) = some h ∧ h.line.valid = BitVec.allOnes 128 ∧
      if x then leafClass e ≠ 0 ∧ sealedPage s.mem (s.eaAt va) (pageOf va) = false else min lc.toNat (leafLcap e) ≠ 0 ∧ leaseLen s.leaseL1 (min lc.toNat (leafLcap e)) ≠ some 0) ∧
    (∃ s, Issues (.pref u 4#7 0#3 true) s ∧ ∀ l < 32, (s.executing (.pref u 4#7 0#3 true)).getLsbD l = true → canonical ((s.spindle s.cur.sp).getD 4 l) = false) ∧
    ∃ (s : State) (e : DWord), Issues (.pref u 4#7 0#3 true) s ∧ s.executing (.pref u 4#7 0#3 true) = laneBit 0 ∧
      let va := (s.spindle s.cur.sp).getD 4 0
      sealedPage s.mem (s.eaAt va) (pageOf va) = true ∧ Allowed s va 1 needR e := by
  refine ⟨⟨ready (.pref u 4#7 7#3 true) 1#32, issues_of _ _ (by decide +kernel), by decide +kernel, by decide +kernel⟩, fun x => ?_,
    ⟨readyWith (.pref u 4#7 0#3 true) 1#32 (fun sp => sp.setD 4 0 (2#64 ^ 57)), issues_of _ _ (by decide +kernel), by decide +kernel⟩,
    (readyWith (.pref u 4#7 0#3 true) 1#32 (ptrs (fun _ => 0x20000))).modMem (fun m => { m with seals := [(1, 0x20)] }), 0x21F#64, issues_of _ _ (by decide +kernel), by decide +kernel,
    by decide +kernel, allowed_of (by decide +kernel)⟩
  have b : ∀ x : Bool, let i : Instr := .pref u 4#7 7#3 x
      let s := (withLeaf leaseLeaf (readyWith i 1#32 (ptrs (fun _ => 0x20000)))).modMem (fun m => { m with home := m.home ++ [hline 1024] })
      (issuesB i s && s.executing i == laneBit 0 && decide ((s.mem.l1.filter (fun y => y.core == s.me.core)).length < Config.l1Lines) &&
        allowedB s ((s.spindle s.cur.sp).getD 4 0) 1 needR leaseLeaf && atHomeB s ((s.spindle s.cur.sp).getD 4 0) 128 &&
        homeFind s.mem (s.eaAt ((s.spindle s.cur.sp).getD 4 0)) (lnOf ((s.spindle s.cur.sp).getD 4 0)) == some (hline 1024) && leaseLen s.leaseL1 (min 7 (leafLcap leaseLeaf)) != some 0 &&
        match exec i s with
        | .next _ => true
        | _ => false) = true := by
    decide +kernel
  have h := b x
  simp only [Bool.and_eq_true, beq_iff_eq, bne_iff_ne, decide_eq_true_eq] at h
  have k := h.2
  split at k
  · rename_i t e
    refine ⟨_, t, 7#3, leaseLeaf, hline 1024, issues_of _ _ h.1.1.1.1.1.1.1, h.1.1.1.1.1.1.2, e, h.1.1.1.1.1.2, allowed_of h.1.1.1.1.2, atHome_of h.1.1.1.2, h.1.1.2, rfl, ?_⟩
    cases x
    · exact ⟨(by decide : min 7 (leafLcap leaseLeaf) ≠ 0), h.1.2⟩
    · exact ⟨(by decide : leafClass leaseLeaf ≠ 0), rfl⟩
  · cases k

-- Barriers (07 R178-R181)

/-- The lanes of spindle 0 stand in `st`. -/
def holds (st : LaneSt) (i : Instr) : State := readyWith i 3#32 (fun sp => { sp with lanes := sp.lanes.map (fun y => { y with st := st }) })
/-- Beside spindle 0, whose word stands at issue for lanes `x`, spindle 511 of the team, all of whose lanes stand in `st`. -/
def twoSpindles (i : Instr) (x : LaneMask) (st : LaneSt) : State :=
  let s := ready i x
  { s with spindles := s.spindles ++ [{ s.spindle 0 with idx := 511, lanes := (s.spindle 0).lanes.map (fun y => { y with st := st }) }] }
def tb : Instr := .tbar u
theorem witness_TeamBarrier : (∃ s, Issues tb s ∧ (s.spindle s.cur.sp).idx < 512 ∧ Lacks tb .tbar (s.members (s.spindle s.cur.sp).team) s) ∧
    (∃ s, Issues tb s ∧ (s.spindle s.cur.sp).idx < 512 ∧ (s.spindle 1).standsAt .tbar = true ∧ Lacks tb .tbar (s.members (s.spindle s.cur.sp).team) s) ∧
    (∃ s, Issues tb s ∧ (s.spindle s.cur.sp).idx < 512 ∧ (s.team (s.spindle s.cur.sp).team).rollb = false ∧ 1 ∈ s.members (s.spindle s.cur.sp).team ∧
      s.cur.sp ∈ s.members (s.spindle s.cur.sp).team ∧ CompletesArrival tb .tbar s ∧
      ∀ k ∈ s.members (s.spindle s.cur.sp).team, k ≠ s.cur.sp → (s.spindle k).standsAt .tbar = true) ∧
    (∃ (s : State) (t : Nat), t < s.teams.length ∧ (∃ i ∈ s.members t, (s.spindle i).standsAt .tbar = false) ∧
      ∃ k ∈ s.members t, (s.spindle k).barred = none ∧ (s.spindle k).arrival ≠ none) ∧
    ∃ (s : State) (t : Nat), t < s.teams.length ∧ (s.team t).rollb = false ∧ s.members t ≠ [] ∧ ∀ i ∈ s.members t, (s.spindle i).standsAt .tbar = true :=
  ⟨⟨twoSpindles tb 0xFFFF_FFFF#32 .eligible, issues_of _ _ (by decide +kernel), by decide +kernel, .inl ⟨1, by decide +kernel, by decide +kernel, by decide +kernel⟩⟩,
   ⟨twoSpindles tb 3#32 (.held .tbar), issues_of _ _ (by decide +kernel), by decide +kernel, by decide +kernel,
     .inr ⟨by decide +kernel, by decide +kernel, 31, by decide, by decide +kernel, by decide +kernel, by decide +kernel⟩⟩,
   ⟨twoSpindles tb 0xFFFF_FFFF#32 (.held .tbar), issues_of _ _ (by decide +kernel), by decide +kernel, by decide +kernel, by decide +kernel, by decide +kernel,
     ⟨by decide +kernel, by decide +kernel⟩, by decide +kernel⟩,
   ⟨twoSpindles tb 3#32 (.held .tbar), 0, by decide +kernel, ⟨0, by decide +kernel, by decide +kernel⟩, 1, by decide +kernel, by decide +kernel, by decide +kernel⟩,
   holds (.held .tbar) tb, 0, by decide +kernel, by decide +kernel, by decide +kernel, by decide +kernel⟩

/-- b15 of the team is initialised with expected count n and no arrivals; s4 holds 1023, s6 a token of phase 0. -/
def barState (i : Instr) (n : Nat) (tok : DWord) : State :=
  ((readyWith i 3#32 (fun sp => (sp.setS 4 1023#32).setSD 6 tok)).modTeam 0 (fun t =>
    { t with nbars := (List.range 16).map (fun _ => { init := decide (n ≠ 0), expected := n, arrived := 0, bytes := 0#48, phase := false }) }))
theorem witness_NamedBarriers :
    (∃ s, Issues (.nbarInit u 15#7 4#7) s ∧ 0 < ((s.spindle s.cur.sp).getS 4).toNat ∧ ((s.spindle s.cur.sp).getS 4).toNat ≤ 1023 ∧ (s.nbar (s.spindle s.cur.sp).team 15).arrived = 0) ∧
    (∃ s, Issues (.nbarArrive u 15#7 6#7) s ∧ (s.nbar (s.spindle s.cur.sp).team 15).init = true) ∧
    (∃ s, Issues (.nbarArriveWait u 15#7 6#7) s ∧ (s.nbar (s.spindle s.cur.sp).team 15).init = true) ∧
    (∃ s, Issues (.nbarWait u 15#7 6#7) s ∧ (s.nbar (s.spindle s.cur.sp).team 15).init = true ∧
      (s.nbar (s.spindle s.cur.sp).team 15).phase ≠ ((s.spindle s.cur.sp).getSD 6).getLsbD 0) ∧
    ∃ s, Issues (.nbarWait u 15#7 6#7) s ∧ (s.nbar (s.spindle s.cur.sp).team 15).init = true ∧
      (s.nbar (s.spindle s.cur.sp).team 15).phase = ((s.spindle s.cur.sp).getSD 6).getLsbD 0 :=
  ⟨⟨barState (.nbarInit u 15#7 4#7) 0 0#64, issues_of _ _ (by decide +kernel), by decide +kernel, by decide +kernel, by decide +kernel⟩,
   ⟨barState (.nbarArrive u 15#7 6#7) 1 0#64, issues_of _ _ (by decide +kernel), by decide +kernel⟩,
   ⟨barState (.nbarArriveWait u 15#7 6#7) 1023 0#64, issues_of _ _ (by decide +kernel), by decide +kernel⟩,
   ⟨barState (.nbarWait u 15#7 6#7) 2 1#64, issues_of _ _ (by decide +kernel), by decide +kernel, by decide +kernel⟩,
   barState (.nbarWait u 15#7 6#7) 2 0#64, issues_of _ _ (by decide +kernel), by decide +kernel, by decide +kernel⟩

theorem witness_Arrivals : (∃ (s : State) (t n : Nat), t < s.teams.length ∧ n < (s.team t).nbars.length ∧ (s.nbar t n).arrived + 1 < (s.nbar t n).expected) ∧
    ∃ (s : State) (t n : Nat), t < s.teams.length ∧ n < (s.team t).nbars.length ∧ (s.nbar t n).expected ≤ (s.nbar t n).arrived + 1 ∧ ∃ i, takesPart s t i ∧ (s.spindle i).lanes.length = 32 :=
  ⟨⟨barState (.nop u) 2 0#64, 0, 15, by decide +kernel, by decide +kernel, by decide +kernel⟩,
   barState (.nop u) 1 0#64, 0, 15, by decide +kernel, by decide +kernel, by decide +kernel, 0, ⟨by decide +kernel, by decide +kernel, by decide +kernel⟩, by decide +kernel⟩

/-- The group table of the launch stands in line 1024. -/
def groupState (bits : Nat) (x : LaneMask) (st : LaneSt) : State :=
  let s := twoSpindles (.gbar u 0#8) x st
  ({ s with launches := s.launches.map (fun y => { y with grouptab := 0x20000#64 }) } : State).modMem (fun m =>
    { m with home := m.home ++ [{ hline 1024 with line := { (hline 1024).line with data := BitVec.ofNat 1024 bits } }] })
theorem group_of (bits : Nat) (x : LaneMask) (st : LaneSt) (h : gotB (groupMask ((groupState bits x st).advance 1) 0 0) (fun _ m => m == bits) = true) :
    ∃ s1, groupMask ((groupState bits x st).advance 1) 0 0 = .ok s1 bits := by
  obtain ⟨s1, m, e, k⟩ := got_of h
  rw [beq_iff_eq.1 k] at e
  exact ⟨s1, e⟩
def gb : Instr := .gbar u 0#8
/-- Of the members of mask `bits`: one that has not arrived, all arrived with the word, and a spindle that is no member. -/
theorem witness_Groups :
    (∃ s s1, Issues gb s ∧ groupMask (s.advance 1) (s.spindle s.cur.sp).team 0 = .ok s1 (2 ^ 511 + 1) ∧
      Lacks gb (.gbar 0) ((s.liveSpindles (s.spindle s.cur.sp).team).filter (fun i => (2 ^ 511 + 1).testBit (s.spindle i).idx)) s) ∧
    (∃ s s1, Issues gb s ∧ groupMask (s.advance 1) (s.spindle s.cur.sp).team 0 = .ok s1 (2 ^ 511 + 1) ∧ CompletesArrival gb (.gbar 0) s ∧
      let m := (s.liveSpindles (s.spindle s.cur.sp).team).filter (fun i => (2 ^ 511 + 1).testBit (s.spindle i).idx)
      s.cur.sp ∈ m ∧ 1 ∈ m ∧ ∀ k ∈ m, k ≠ s.cur.sp → (s.spindle k).standsAt (.gbar 0) = true) ∧
    ∃ s s1, Issues gb s ∧ groupMask (s.advance 1) (s.spindle s.cur.sp).team 0 = .ok s1 (2 ^ 511) ∧ (2 ^ 511).testBit (s.spindle s.cur.sp).idx = false ∧ CanFault (s.executing gb) s := by
  obtain ⟨s1, a⟩ := group_of (2 ^ 511 + 1) 0xFFFF_FFFF#32 .eligible (by decide +kernel)
  obtain ⟨s2, b⟩ := group_of (2 ^ 511 + 1) 0xFFFF_FFFF#32 (.held (.gbar 0)) (by decide +kernel)
  obtain ⟨s3, c⟩ := group_of (2 ^ 511) 3#32 .eligible (by decide +kernel)
  exact ⟨⟨_, s1, issues_of _ _ (by decide +kernel), a, .inl ⟨1, by decide +kernel, by decide +kernel, by decide +kernel⟩⟩,
    ⟨_, s2, issues_of _ _ (by decide +kernel), b, ⟨by decide +kernel, by decide +kernel⟩, by decide +kernel, by decide +kernel, by decide +kernel⟩,
    _, s3, issues_of _ _ (by decide +kernel), c, by decide +kernel, faults_of _ _ (by decide +kernel)⟩

-- Engine commands (08, 09, 10)

/-- Registers and tables for every command: regions in s4 (A of a wide MMA), s6 (C), s22 (five rows), s26 (four rows), s28 (one row), a tile in s8,
a window of 4 by 2 by 1 elements in s10, a layout of four-byte elements in s12, one of rows in s16, a descriptor in s36, a list of two elements in s20,
an area in s24, a stream of two entries in s30, weights in s32 to s34. -/
def engine (sp : Spindle) : Spindle :=
  { (((((((((((((((sp.setSD 4 (BitVec.ofNat 64 (regionWord 0 128 0 8))).setSD 6 (BitVec.ofNat 64 (regionWord 128 128 0 32))).setS 8 255#32).setSD 10 0x1_0002_0004#64).setSD 12
      0x4000_0010_0000#64).setSD 16 0x4000_0000_0000#64).setSD 36 0x4_0000#64).setSD 20 0x2_0000_0100#64).setSD 22 (BitVec.ofNat 64 (regionWord 0 5 0 32))).setSD 26
      (BitVec.ofNat 64 (regionWord 8 4 0 1))).setSD 28 (BitVec.ofNat 64 (regionWord 508 1 0 4))).setS 24 0x3_FC00#32).setSD 30 0x2_0000_1000#64).setSD 32 0x3000_0000_2000#64).setS 34 4#32) with
    k := cellSet sp.k 0 0x80#8, gang := 0#64 }
def commandState (i : Instr) : State := (readyWith i 3#32 engine).modPart 0 (fun q => { q with tiletab := 0x3000F#64 })
def tail0 : CmdTail := { acq := false, rel := false, scope := 3#3, bar := 0#4, ben := false }
/-- The queue of engine e of core 0 holds n commands. -/
def queued (s : State) (e : Engine) (n : Nat) : State := { s with cmds := List.replicate n (newCmd s (.nop u) e 3#32) }

def regionB (t : Team) (x : DWord) : Bool :=
  x.extractLsb' 42 22 == 0#22 && x.extractLsb' 17 6 == 0#6 && (regionOf x).rows != 0 && (regionOf x).cols != 0 && decide ((regionOf x).col0 + (regionOf x).cols ≤ 256) &&
    decide ((regionOf x).row0 + (regionOf x).rows ≤ t.tiles)
theorem region_of {t : Team} {x : DWord} (h : regionB t x = true) : RegionFits t x := by
  simp only [regionB, Bool.and_eq_true, beq_iff_eq, bne_iff_ne, decide_eq_true_eq] at h
  exact ⟨⟨h.1.1.1.1.1, h.1.1.1.1.2⟩, ⟨h.1.1.1.2, h.1.1.2, h.1.2⟩, h.2⟩
def tileB (p : Partition) (x : Word) : Bool := decide (x.toNat < 2 ^ 16) && p.tiletab &&& ~~~0xFFF#64 != 0#64 && decide (x.toNat < (p.tiletab.toNat % 2 ^ 12 + 1) * 16)
theorem tile_of {p : Partition} {x : Word} (h : tileB p x = true) : TileNamed p x := by
  simp only [tileB, Bool.and_eq_true, bne_iff_ne, decide_eq_true_eq] at h
  exact ⟨h.1.1, h.1.2, h.2⟩
def windowB (t : Team) (a : Word) (al n : Nat) : Bool := a.toNat % al == 0 && decide (a.toNat < 2 ^ 18) && decide (a.toNat < t.share) && decide (a.toNat + n ≤ t.share)
theorem window_of {t : Team} {a : Word} {al n : Nat} (h : windowB t a al n = true) : WindowFits t a al n := by
  simp only [windowB, Bool.and_eq_true, beq_iff_eq, decide_eq_true_eq] at h
  exact ⟨h.1.1.1, h.1.1.2, h.1.2, h.2⟩
theorem free_bar (s : State) : BarReady s tail0 := fun h => by cases h

/-- The hypotheses of `EngineCommands` for i, with a queue that has room for one command more and with a full one. -/
def EngineWitness (i : Instr) : Prop := ∀ full : Bool, ∃ s e f ok, Issues i s ∧ ChargesFlag s 2 false f ∧ engineCommand s i = some (e, ok) ∧ ok ∧
  if full then QueueFull s (s.spindle s.cur.sp).core e else ¬ QueueFull s (s.spindle s.cur.sp).core e
def engineB (i : Instr) (e : Engine) : Bool :=
  let n := if e = .matrix then 8 else 16
  let count (s : State) : Nat := (s.cmds.filter (fun c => c.core == (s.spindle s.cur.sp).core && c.engine == e && !c.saved)).length
  let a := queued (commandState i) e n
  let b := queued (commandState i) e (n - 1)
  issuesB i a && chargesB a 2 false 2 head && issuesB i b && chargesB b 2 false 2 head && decide (n ≤ count a) && decide (count b < n)
theorem engine_of {i : Instr} {e : Engine} {ok : State → Prop} (h : engineB i e = true) (hc : ∀ s, engineCommand s i = some (e, ok s))
    (ha : ok (queued (commandState i) e (if e = .matrix then 8 else 16))) (hb : ok (queued (commandState i) e ((if e = .matrix then 8 else 16) - 1))) : EngineWitness i := by
  simp only [engineB, Bool.and_eq_true, decide_eq_true_eq] at h
  obtain ⟨⟨⟨⟨⟨h1, h2⟩, h3⟩, h4⟩, h5⟩, h6⟩ := h
  intro full
  cases full
  · exact ⟨_, e, 2, _, issues_of _ _ h3, charges_of head h4, hc _, hb, fun q => Nat.lt_irrefl _ (Nat.lt_of_lt_of_le h6 q)⟩
  · exact ⟨_, e, 2, _, issues_of _ _ h1, charges_of head h2, hc _, ha, h5⟩

theorem witness_EngineCommands_mma : EngineWitness (.mma u 6#7 4#7 4#7 0#4 true false 8#6 tail0) :=
  engine_of (by decide +kernel) (fun _ => rfl)
    ⟨by decide +kernel, by decide +kernel, ⟨region_of (by decide +kernel), region_of (by decide +kernel), fun _ => tile_of (by decide +kernel), by decide +kernel, by decide +kernel,
      by decide +kernel, (fun h => by cases h), free_bar _⟩⟩
    ⟨by decide +kernel, by decide +kernel, ⟨region_of (by decide +kernel), region_of (by decide +kernel), fun _ => tile_of (by decide +kernel), by decide +kernel, by decide +kernel,
      by decide +kernel, (fun h => by cases h), free_bar _⟩⟩
theorem witness_EngineCommands_tld : EngineWitness (.tld u 6#7 8#7 tail0) :=
  engine_of (by decide +kernel) (fun _ => rfl) ⟨region_of (by decide +kernel), tile_of (by decide +kernel), free_bar _⟩
    ⟨region_of (by decide +kernel), tile_of (by decide +kernel), free_bar _⟩
theorem witness_EngineCommands_tst : EngineWitness (.tst u 6#7 8#7 tail0) :=
  engine_of (by decide +kernel) (fun _ => rfl) ⟨region_of (by decide +kernel), tile_of (by decide +kernel), free_bar _⟩
    ⟨region_of (by decide +kernel), tile_of (by decide +kernel), free_bar _⟩
theorem layout_fits (s : State) (h : (s.spindle s.cur.sp).getS 12 = 0x10_0000#32) (h' : (s.spindle s.cur.sp).getS 13 = 0x4000#32) (h'' : (s.spindle s.cur.sp).getS 14 = 0#32)
    (k : 0x20 ≤ (s.teamOf s.cur.sp).share) : EndFits s 1#2 12#7 4 (4, 2, 1) := by
  show LayoutFits _ _ _ _ _ _
  simp only [show (12#7 : Reg).toNat = 12 from rfl, h, h', h'']
  exact ⟨by decide, by decide, by decide, fun i hi j hj k hk => by
    simp only [List.mem_cons, List.not_mem_nil, or_false] at hi hj hk
    have : (layoutOf (layoutWord 0x10_0000#32 0x4000#32 0#32)).plain i j k ≤ 0x20 - 4 ∧ 0 ≤ (layoutOf (layoutWord 0x10_0000#32 0x4000#32 0#32)).plain i j k := by
      rcases hi with rfl | rfl <;> rcases hj with rfl | rfl <;> rcases hk with rfl | rfl <;> decide
    omega⟩
theorem witness_EngineCommands_cpy : EngineWitness (.cpy u 12#7 6#7 10#7 1#2 2#2 2#3 tail0) :=
  engine_of (by decide +kernel) (fun _ => rfl)
    ⟨by decide +kernel, by decide +kernel, by decide +kernel, by decide +kernel, layout_fits _ (by decide +kernel) (by decide +kernel) (by decide +kernel) (by decide +kernel),
      ⟨region_of (by decide +kernel), by decide +kernel, by decide +kernel, by decide +kernel⟩, free_bar _⟩
    ⟨by decide +kernel, by decide +kernel, by decide +kernel, by decide +kernel, layout_fits _ (by decide +kernel) (by decide +kernel) (by decide +kernel) (by decide +kernel),
      ⟨region_of (by decide +kernel), by decide +kernel, by decide +kernel, by decide +kernel⟩, free_bar _⟩
theorem witness_EngineCommands_cpy_tile : EngineWitness (.cpy u 8#7 6#7 10#7 0#2 2#2 2#3 tail0) :=
  engine_of (by decide +kernel) (fun _ => rfl)
    ⟨by decide +kernel, by decide +kernel, by decide +kernel, by decide +kernel, (tile_of (by decide +kernel) : TileNamed _ _),
      ⟨region_of (by decide +kernel), by decide +kernel, by decide +kernel, by decide +kernel⟩, free_bar _⟩
    ⟨by decide +kernel, by decide +kernel, by decide +kernel, by decide +kernel, (tile_of (by decide +kernel) : TileNamed _ _),
      ⟨region_of (by decide +kernel), by decide +kernel, by decide +kernel, by decide +kernel⟩, free_bar _⟩
theorem witness_EngineCommands_gathf : EngineWitness (.gathf u 4#7 36#7 20#7 true tail0) :=
  engine_of (by decide +kernel) (fun _ => rfl)
    ⟨⟨by decide +kernel, by decide +kernel, window_of (by decide +kernel), fun _ => ⟨region_of (by decide +kernel), by decide +kernel⟩, fun h => by cases h⟩, free_bar _⟩
    ⟨⟨by decide +kernel, by decide +kernel, window_of (by decide +kernel), fun _ => ⟨region_of (by decide +kernel), by decide +kernel⟩, fun h => by cases h⟩, free_bar _⟩
theorem witness_EngineCommands_scatf : EngineWitness (.scatf u 16#7 36#7 20#7 false 1#3 tail0) :=
  engine_of (by decide +kernel) (fun _ => rfl)
    ⟨⟨by decide +kernel, by decide +kernel, window_of (by decide +kernel), (fun h => by cases h),
      (fun _ => ⟨by decide +kernel, by decide +kernel, by decide +kernel, by decide +kernel, by decide +kernel, by decide +kernel⟩)⟩, free_bar _⟩
    ⟨⟨by decide +kernel, by decide +kernel, window_of (by decide +kernel), (fun h => by cases h),
      (fun _ => ⟨by decide +kernel, by decide +kernel, by decide +kernel, by decide +kernel, by decide +kernel, by decide +kernel⟩)⟩, free_bar _⟩

/-- The conditions of `TilesFit` on the fields of a factorisation. -/
def tilesB (s : State) (c : Fac) (d : Reg) (x o : Option Reg) : Bool :=
  let sp := s.spindle s.cur.sp
  let t := s.teamOf s.cur.sp
  regionB t (sp.getSD d.toNat) && (if c.batch then decide (2 ≤ c.rc.rows) && decide ((c.rc.rows - 1) % c.n = 0) && decide (c.b * c.n ≤ 128) else decide (c.rc.rows = c.n + 1)) &&
    decide (c.n * c.e ≤ c.rc.width) && decide (32 + (if c.permInHeader then c.n else 0) ≤ c.rc.width) &&
    x.all (fun r => regionB t (sp.getSD r.toNat) && !c.x.overlaps c.rc && if c.solves then decide (c.x.rows = c.b * c.n) && decide (c.x.width % c.e = 0) else decide (c.x.rows = 1) && decide (c.n * c.e ≤ c.x.width)) &&
    o.all (fun r => windowB t (sp.getS r.toNat) 8 c.area)
theorem tiles_of {s : State} {i : Instr} {d : Reg} {x o : Option Reg} (h : (facOf i (s.spindle s.cur.sp).getS).any (fun c => tilesB s c d x o) = true) : TilesFit s i d x o := by
  obtain ⟨c, hc, h⟩ := (Option.any_eq_true _ _).1 h
  simp only [tilesB, Bool.and_eq_true, decide_eq_true_eq] at h
  obtain ⟨⟨⟨⟨⟨h1, h2⟩, h3⟩, h4⟩, h5⟩, h6⟩ := h
  refine ⟨region_of h1, fun c' e => ?_, fun c' r e k => ?_, fun c' r e k => ?_⟩ <;> (rw [hc] at e; cases e)
  · refine ⟨?_, h3, h4⟩
    split at h2
    · rename_i q
      simp only [Bool.and_eq_true, decide_eq_true_eq] at h2
      rw [if_pos q]
      exact ⟨h2.1.1, h2.1.2, h2.2⟩
    · rename_i q
      rw [if_neg q]
      simpa using h2
  · rw [k] at h5
    simp only [Option.all_some, Bool.and_eq_true, Bool.not_eq_true'] at h5
    refine ⟨region_of h5.1.1, h5.1.2, ?_⟩
    have h7 := h5.2
    split at h7
    · rename_i q
      rw [if_pos q]
      simpa using h7
    · rename_i q
      rw [if_neg q]
      simpa using h7
  · rw [k] at h6
    exact window_of (by simpa using h6)

theorem witness_EngineCommands_flu : EngineWitness (.flu u 22#7 28#7 0#7 0#4 3#7 false true false tail0) :=
  engine_of (by decide +kernel) (fun _ => rfl) ⟨tiles_of (by decide +kernel), free_bar _⟩ ⟨tiles_of (by decide +kernel), free_bar _⟩
theorem witness_EngineCommands_flu_batch : EngineWitness (.flu u 22#7 0#7 24#7 0#4 0#7 true true false tail0) :=
  engine_of (by decide +kernel) (fun _ => rfl) ⟨tiles_of (by decide +kernel), free_bar _⟩ ⟨tiles_of (by decide +kernel), free_bar _⟩
theorem witness_EngineCommands_fchol : EngineWitness (.fchol u 22#7 0#7 24#7 0#4 1#7 true false tail0) :=
  engine_of (by decide +kernel) (fun _ => rfl) ⟨tiles_of (by decide +kernel), free_bar _⟩ ⟨tiles_of (by decide +kernel), free_bar _⟩
theorem witness_EngineCommands_fqr : EngineWitness (.fqr u 22#7 28#7 24#7 0#4 3#7 false tail0) :=
  engine_of (by decide +kernel) (fun _ => rfl) ⟨tiles_of (by decide +kernel), free_bar _⟩ ⟨tiles_of (by decide +kernel), free_bar _⟩
theorem witness_EngineCommands_ftrs : EngineWitness (.ftrs u 22#7 26#7 0#4 3#7 false false true false true true tail0) :=
  engine_of (by decide +kernel) (fun _ => rfl) ⟨tiles_of (by decide +kernel), free_bar _⟩ ⟨tiles_of (by decide +kernel), free_bar _⟩
theorem witness_EngineCommands_fupd : EngineWitness (.fupd u 22#7 8#7 28#7 0#4 3#7 true true tail0) :=
  engine_of (by decide +kernel) (fun _ => rfl) ⟨tiles_of (by decide +kernel), free_bar _⟩ ⟨tiles_of (by decide +kernel), free_bar _⟩
theorem witness_EngineCommands_sjoin : EngineWitness (.sjoin u 30#7 8#7 1#8 false tail0) :=
  engine_of (by decide +kernel) (fun _ => rfl) ⟨by decide +kernel, by decide +kernel, by decide +kernel, window_of (by decide +kernel), free_bar _⟩
    ⟨by decide +kernel, by decide +kernel, by decide +kernel, window_of (by decide +kernel), free_bar _⟩
theorem witness_EngineCommands_sfuse : EngineWitness (.sfuse u 30#7 30#7 32#7 0#6 63#6 tail0) :=
  engine_of (by decide +kernel) (fun _ => rfl) ⟨window_of (by decide +kernel), window_of (by decide +kernel), window_of (by decide +kernel), window_of (by decide +kernel), free_bar _⟩
    ⟨window_of (by decide +kernel), window_of (by decide +kernel), window_of (by decide +kernel), window_of (by decide +kernel), free_bar _⟩
theorem witness_EngineCommands_stopk : EngineWitness (.stopk u 30#7 30#7 true true tail0) :=
  engine_of (by decide +kernel) (fun _ => rfl) ⟨by decide +kernel, by decide +kernel, window_of (by decide +kernel), window_of (by decide +kernel), free_bar _⟩
    ⟨by decide +kernel, by decide +kernel, window_of (by decide +kernel), window_of (by decide +kernel), free_bar _⟩

/-- Every cursor of core 0 is taken. -/
def takenAll (s : State) : State := { s with cursors := (List.range 64).map (fun n =>
  { core := 0, num := n, rank := 0, team := 0, sp := 0, base := 0#64, nb := 0, lc := 0#3, b := 0, i := 0, off := 0, hdr := 0#128, packed := false, docs := [], impacts := 0, impBad := [],
    lastDoc := none, st := .ready, closing := false, saved := false }) }
def sopenI : Instr := .sopen u 1#7 4#7 7#3 0#3
def onCursor : List Instr := [.sclose u 0#7, .sadv u 4#7 0#7, .sseek u 4#7 0#7 6#6, .stend u 0#7 0#7]
theorem witness_Cursors :
    (∃ s, ChargesFlag s 1 false 2 ∧ Issues sopenI s ∧ ((s.spindle s.cur.sp).getK 1).getLsbD 7 = false ∧ ((s.spindle s.cur.sp).getSD 4).toNat % 16 = 0 ∧
      (∀ n < Config.cursorCount, s.cursor (s.spindle s.cur.sp).core n ≠ none) ∧ ¬ QueueFull s (s.spindle s.cur.sp).core .ple) ∧
    (∃ s, ChargesFlag s 1 false 2 ∧ Issues sopenI s ∧ QueueFull s (s.spindle s.cur.sp).core .ple) ∧
    (∃ s, ChargesFlag s 1 false 2 ∧ Issues sopenI s ∧ ((s.spindle s.cur.sp).getK 1).getLsbD 7 = false ∧ ((s.spindle s.cur.sp).getSD 4).toNat % 16 = 0 ∧
      (∃ n < Config.cursorCount, s.cursor (s.spindle s.cur.sp).core n = none) ∧ ¬ QueueFull s (s.spindle s.cur.sp).core .ple) ∧
    ∀ i ∈ onCursor, ∀ full : Bool, ∃ s a, ChargesFlag s 1 false 2 ∧ Issues i s ∧ cursorOf i = some a ∧ ((s.spindle s.cur.sp).getK a.toNat).getLsbD 7 = true ∧
      if full then QueueFull s (s.spindle s.cur.sp).core .ple else ¬ QueueFull s (s.spindle s.cur.sp).core .ple := by
  have room : ∀ i ∈ onCursor, (let n (s : State) : Nat := (s.cmds.filter (fun c => c.core == (s.spindle s.cur.sp).core && c.engine == .ple && !c.saved)).length
      let a := queued (commandState i) .ple 16
      let b := queued (commandState i) .ple 15
      issuesB i a && chargesB a 1 false 2 head && issuesB i b && chargesB b 1 false 2 head && decide (16 ≤ n a) && decide (n b < 16) &&
        (cursorOf i).any (fun r => ((a.spindle a.cur.sp).getK r.toNat).getLsbD 7 && ((b.spindle b.cur.sp).getK r.toNat).getLsbD 7)) = true := by decide +kernel
  refine ⟨⟨takenAll (commandState sopenI), charges_of head (by decide +kernel), issues_of _ _ (by decide +kernel), by decide +kernel, by decide +kernel, by decide +kernel, by
      unfold QueueFull
      decide +kernel⟩,
    ⟨queued (commandState sopenI) .ple 16, charges_of head (by decide +kernel), issues_of _ _ (by decide +kernel), by
      unfold QueueFull
      decide +kernel⟩,
    ⟨commandState sopenI, charges_of head (by decide +kernel), issues_of _ _ (by decide +kernel), by decide +kernel, by decide +kernel, ⟨63, by decide, by decide +kernel⟩, by
      unfold QueueFull
      decide +kernel⟩, fun i hi full => ?_⟩
  have h := room i hi
  simp only [Bool.and_eq_true, decide_eq_true_eq, Option.any_eq_true] at h
  obtain ⟨⟨⟨⟨⟨⟨h1, h2⟩, h3⟩, h4⟩, h5⟩, h6⟩, r, h7, h8, h9⟩ := h
  cases full
  · exact ⟨_, r, charges_of head h4, issues_of _ _ h3, h7, h9, fun q => Nat.lt_irrefl _ (Nat.lt_of_lt_of_le h6 q)⟩
  · exact ⟨_, r, charges_of head h2, issues_of _ _ h1, h7, h8, h5⟩

def launchI : Instr := .launch u 4#7 36#7 { tail0 with rel := true, scope := 2#3 }
theorem witness_SpawnCommands :
    (∃ s, ChargesFlag s 2 false 2 ∧ (s.teamOf s.cur.sp).rollb = false ∧ Issues (.spawn u 4#7 0#21) s ∧ TargetHeld s (packetAt s 0#21)) ∧
    (∃ s, ChargesFlag s 2 false 2 ∧ (s.teamOf s.cur.sp).rollb = false ∧ Issues (.spawno u 8#7 4#7 10#7 0#21) s ∧ TargetHeld s (packetAt s 0#21) ∧ ((s.spindle s.cur.sp).getSD 10).toNat % 8 = 0) ∧
    ∃ s, ChargesFlag s 2 false 2 ∧ (s.teamOf s.cur.sp).rollb = false ∧ Issues launchI s ∧ BarReady s { tail0 with rel := true, scope := 2#3 } ∧ ((s.spindle s.cur.sp).getSD 36).toNat % 64 = 0 :=
  ⟨⟨ready (.spawn u 4#7 0#21) 3#32, charges_of head (by decide +kernel), by decide +kernel, issues_of _ _ (by decide +kernel), target_of (by decide +kernel)⟩,
   ⟨ready (.spawno u 8#7 4#7 10#7 0#21) 3#32, charges_of head (by decide +kernel), by decide +kernel, issues_of _ _ (by decide +kernel), target_of (by decide +kernel), by decide +kernel⟩,
   commandState launchI, charges_of head (by decide +kernel), by decide +kernel, issues_of _ _ (by decide +kernel), (fun h => by cases h), by decide +kernel⟩

-- Transactions and the allotment of registers (11 R256-R264)

theorem arena_of {s : State} {t : Nat} (l : List Nat) (h : (l.Nodup ∧ ∀ c ∈ l, (s.launchRec t).chunkFirst ≤ c ∧ c < 32 * ((s.team t).regarena.toNat % 2 ^ 16) ∧ c ∉ (s.team t).chunks)) : ArenaRoom s t l.length :=
  ⟨l, h.1, rfl, h.2⟩

def openTx : Txn := { ts := false, fallback := placedText, txbpc := placedText, start := 0, chkV := cellSet [] 5 7#32, chkP := 0x55#7, chkFlags := 0#6, chkRng := 0#32, reads := [], writes := [], chkRegs := [] }
/-- Lane 0 runs a transaction and lane 1 none. -/
def inTx (i : Instr) : State := (ready i 3#32).modLane 0 0 (fun y => { y with tx := true, txn := some openTx })
theorem witness_Transactions :
    (∀ ts, ∃ s, Issues (.txb u ts 0#21) s ∧ TargetHeld s (packetAt s 0#21) ∧ (∀ l < 32, (s.executing (.txb u ts 0#21)).getLsbD l = true → (s.lane s.cur.sp l).spec = false) ∧
      ArenaRoom s (s.spindle s.cur.sp).team (txNeed s (s.executing (.txb u ts 0#21)))) ∧
    (∃ s, Issues (.txe u) s ∧ ∀ l < 32, (s.executing (.txe u)).getLsbD l = true → (s.lane s.cur.sp l).spec = false) ∧
    (∃ (s : State) (x : Nat → Txn), Issues (.txa u 127#7) s ∧ ∀ l < 32, (s.executing (.txa u 127#7)).getLsbD l = true → (s.lane s.cur.sp l).spec = false ∧
      ((s.lane s.cur.sp l).tx = true → (s.lane s.cur.sp l).txn = some (x l) ∧ (x l).chkV.Pairwise (fun a b => a.1 < b.1))) ∧
    ∃ s, Issues (.txs u 4#7) s := by
  have a : ∀ ts : Bool, issuesB (.txb u ts 0#21) (ready (.txb u ts 0#21) 0x8000_0003#32) = true := by decide +kernel
  have b : ∀ ts : Bool, targetB (ready (.txb u ts 0#21) 0x8000_0003#32) (packetAt (ready (.txb u ts 0#21) 0x8000_0003#32) 0#21) = true := by decide +kernel
  have c : ∀ ts : Bool, ∀ l < 32, ((ready (.txb u ts 0#21) 0x8000_0003#32).lane 0 l).spec = false := by decide +kernel
  have d : ∀ ts : Bool, txNeed (ready (.txb u ts 0#21) 0x8000_0003#32) ((ready (.txb u ts 0#21) 0x8000_0003#32).executing (.txb u ts 0#21)) = ((List.range 32).map (· + 1000)).length := by decide +kernel
  have e : ∀ ts : Bool, (((List.range 32).map (· + 1000)).Nodup ∧ ∀ c ∈ (List.range 32).map (· + 1000), ((ready (.txb u ts 0#21) 0x8000_0003#32).launchRec 0).chunkFirst ≤ c ∧
      c < 32 * (((ready (.txb u ts 0#21) 0x8000_0003#32).team 0).regarena.toNat % 2 ^ 16) ∧ c ∉ ((ready (.txb u ts 0#21) 0x8000_0003#32).team 0).chunks) := by decide +kernel
  refine ⟨fun ts => ⟨_, issues_of _ _ (a ts), target_of (b ts), fun l hl _ => c ts l hl, ?_⟩,
    ⟨inTx (.txe u), issues_of _ _ (by decide +kernel), by decide +kernel⟩,
    ⟨inTx (.txa u 127#7), fun _ => openTx, issues_of _ _ (by decide +kernel), by decide +kernel⟩, inTx (.txs u 4#7), issues_of _ _ (by decide +kernel)⟩
  rw [d ts]
  exact arena_of _ (e ts)

/-- A spindle of 16 registers, whose lanes 0 and 1 wait for seven chunks with p6. -/
def growState (i : Instr) (q : List Nat) (st : LaneSt) : State :=
  (readyWith i 3#32 (fun sp => { sp with vcount := 16, lanes := sp.lanes.map (fun y => { y with st := st }) })).modTeam 0 (fun t => { t with growq := q })
def grow7 : Instr := .reggrow u 6#7 7#7
theorem room7 (i : Instr) (q : List Nat) (st : LaneSt) (h : (∀ c ∈ [1, 2, 3, 4, 5, 6, 7], ((growState i q st).launchRec 0).chunkFirst ≤ c + 1000 ∧
    c + 1000 < 32 * (((growState i q st).team 0).regarena.toNat % 2 ^ 16) ∧ c + 1000 ∉ ((growState i q st).team 0).chunks)) : ArenaRoom (growState i q st) 0 7 :=
  ⟨[1, 2, 3, 4, 5, 6, 7].map (· + 1000), by decide, rfl, fun c hc => by
    obtain ⟨b, hb, rfl⟩ := List.mem_map.1 hc
    exact h b hb⟩
/-- Two spindles of one quadrant wait for chunks that the arena has not. -/
def stuck : State :=
  let s := growState grow7 [1] (.held (.reggrow 6 7 1))
  s.modTeam 0 (fun t => { t with regarena := 1#64 })
/-- A spindle of the team waits before the one at issue. -/
def waitedFor : State :=
  let s := growState grow7 [1] .eligible
  { s with spindles := s.spindles ++ [{ s.spindle 0 with idx := 511, lanes := (s.spindle 0).lanes.map (fun y => { y with st := .held (.reggrow 6 7 1) }) }] }
theorem witness_RegisterAllotment :
    (∃ s, Issues grow7 s ∧ (s.spindle s.cur.sp).vcount + 16 * ((s.spindle s.cur.sp).growPending + 7) ≤ 128 ∧ growFirst s (s.spindle s.cur.sp).team = none ∧
      ArenaRoom s (s.spindle s.cur.sp).team 7 ∧ s.mem.hostHeld = []) ∧
    (∃ s, Issues grow7 s ∧ (s.spindle s.cur.sp).vcount + 16 * ((s.spindle s.cur.sp).growPending + 7) ≤ 128 ∧ growFirst s (s.spindle s.cur.sp).team ≠ none) ∧
    (∃ s, Issues (.regshrink u 7#7) s ∧ 16 + 16 * ((s.spindle s.cur.sp).shrinkPending + 7) ≤ (s.spindle s.cur.sp).vcount ∧ (s.spindle s.cur.sp).flagsClear = true) ∧
    (∃ s, Issues (.regshrink u 7#7) s ∧ 16 + 16 * ((s.spindle s.cur.sp).shrinkPending + 7) ≤ (s.spindle s.cur.sp).vcount ∧ (s.spindle s.cur.sp).flagsClear = false) ∧
    (∃ s i id g pd m, growFirst s (s.spindle i).team = some id ∧ (s.spindle i).growId = some id ∧ (s.spindle i).st = .resident ∧ (s.team (s.spindle i).team).st = .running ∧ i < s.spindles.length ∧
      (s.spindle i).team < s.teams.length ∧ (s.spindle i).growLanes = (g, pd, m) ∧ g ≠ 0#32 ∧ ArenaRoom s (s.spindle i).team m) ∧
    ∃ s i id g pd m, growStuck s i = true ∧ (s.spindle i).growId = some id ∧ i < s.spindles.length ∧ (s.spindle i).team < s.teams.length ∧ (s.spindle i).growLanes = (g, pd, m) :=
  ⟨⟨growState grow7 [] .eligible, issues_of _ _ (by decide +kernel), by decide +kernel, by decide +kernel, room7 _ _ _ (by decide +kernel), rfl⟩,
   ⟨waitedFor, issues_of _ _ (by decide +kernel), by decide +kernel, by decide +kernel⟩,
   ⟨ready (.regshrink u 7#7) 3#32, issues_of _ _ (by decide +kernel), by decide +kernel, by decide +kernel⟩,
   ⟨busyState (.regshrink u 7#7), issues_of _ _ (by decide +kernel), by decide +kernel, by decide +kernel⟩,
   ⟨growState grow7 [1] (.held (.reggrow 6 7 1)), 0, 1, 0xFFFF_FFFF#32, 6, 7, by decide +kernel, by decide +kernel, by decide +kernel, by decide +kernel, by decide +kernel, by decide +kernel,
     by decide +kernel, by decide +kernel, room7 _ _ _ (by decide +kernel)⟩,
   stuck, 0, 1, 0xFFFF_FFFF#32, 6, 7, by decide +kernel, by decide +kernel, by decide +kernel, by decide +kernel, by decide +kernel⟩

-- System registers, predicate 7 and traps (11 R265-R274)

/-- `ready`, but that earlier work stood when the chain was formed. -/
def notClear (i : Instr) : State := let s := ready i 3#32; { s with cur := { s.cur with clear := false } }
theorem witness_SystemRegisters :
    (∃ s, Issues (.mfs u 4#7 false true 0x04#8) s) ∧ (∃ s, Issues (.mfs u 4#7 true false 0x03#8) s) ∧
    (∃ s, Issues (.mts u 4#7 true true 0x20#8) s ∧ (s.spindle s.cur.sp).team < s.teams.length ∧ (s.team (s.spindle s.cur.sp).team).part < s.parts.length ∧
      (s.team (s.spindle s.cur.sp).team).launch < s.launches.length ∧ sysBad 0x20 ((s.spindle s.cur.sp).getSD 4) = false) ∧
    (∃ s, Issues (.mts u 4#7 false false 0x02#8) s ∧ ∀ l < 32, (s.executing (.mts u 4#7 false false 0x02#8)).getLsbD l = true → sysBad 2 ((s.spindle s.cur.sp).getVD false 4 l) = false) ∧
    (∃ s, Issues (.clkTime u 4#7 true) s ∧ s.cur.clear = true) ∧ (∃ s, Issues (.clkCycle u 4#7 true) s ∧ s.cur.clear = true) ∧
    (∃ s, Issues (.clkTime u 4#7 true) s ∧ s.cur.clear = false) ∧ ∃ s, Issues (.clkCycle u 4#7 true) s ∧ s.cur.clear = false :=
  ⟨⟨ready (.mfs u 4#7 false true 0x04#8) 3#32, issues_of _ _ (by decide +kernel)⟩, ⟨ready (.mfs u 4#7 true false 0x03#8) 3#32, issues_of _ _ (by decide +kernel)⟩,
   ⟨ready (.mts u 4#7 true true 0x20#8) 3#32, issues_of _ _ (by decide +kernel), by decide +kernel, by decide +kernel, by decide +kernel, by decide +kernel⟩,
   ⟨ready (.mts u 4#7 false false 0x02#8) 3#32, issues_of _ _ (by decide +kernel), by decide +kernel⟩,
   ⟨ready (.clkTime u 4#7 true) 3#32, issues_of _ _ (by decide +kernel), by decide +kernel⟩, ⟨ready (.clkCycle u 4#7 true) 3#32, issues_of _ _ (by decide +kernel), by decide +kernel⟩,
   ⟨notClear (.clkTime u 4#7 true), issues_of _ _ (by decide +kernel), rfl⟩, notClear (.clkCycle u 4#7 true), issues_of _ _ (by decide +kernel), rfl⟩

theorem witness_PredicateSeven : ∃ s, Issues (.icmp u 7#7 4#7 5#7 0#4 false false 7#3 0#2 6#3) s := ⟨ready (.icmp u 7#7 4#7 5#7 0#4 false false 7#3 0#2 6#3) 1#32, issues_of _ _ (by decide +kernel)⟩

/-- Lines 4096 to 4127 (chunks 0 and 1 of the arena at 0x80000) and 4608 to 4671 (the frame slot at 0x90000) stand at their homes; lane 0 has a pending trap. -/
def trapState : State :=
  let s := readyWith (.eret u) 1#32 (fun sp => { sp with
    vcount := 16, chunks := [1],
    lanes := (enumFrom 0 sp.lanes).map (fun x => if x.1 = 0 then { x.2 with st := .parked, pendingTrap := true, tcause := 0x18#9, tcode := 5#7 } else { x.2 with st := .exited }) })
  ((s.modTeam 0 (fun t => { t with regarena := 0x8_0000#64 })).modPart 0 (fun q => { q with tframe := 0x9_0000#64, trapvec := placedText })).modMem (fun m =>
    { m with home := m.home ++ ((List.range 32).map (fun k => hline (4096 + k))) ++ ((List.range 64).map (fun k => hline (4608 + k))) })

def frameTakenB (s : State) (i : Nat) (m : LaneMask) (cause : BitVec 16) (f : State → Bool) : Bool :=
  gotB (writeImage s i) (fun s1 _ => match frameRights s1 i (s.frameVa i) with
    | .ok s2 => gotB (devWrite s2 (s2.who i) (s.frameVa i) 2048 (frameRecord s2 i m false)) (fun s3 _ =>
      gotB (putLines (s3.modSp i (fun _ => handlerSpindle s3 i m cause (s.frameVa i))) (s3.who i)
          (handlerLines (s3.modSp i (fun _ => handlerSpindle s3 i m cause (s.frameVa i))) i (s.frameVa i))) (fun s4 _ =>
        match checkTarget s4 i (s.partOf i).trapvec with
        | (s5, .good) => f (rcDrop s5 i)
        | _ => false))
    | _ => false)
theorem frame_of {s : State} {i : Nat} {m : LaneMask} {cause : BitVec 16} {f : State → Bool} (h : frameTakenB s i m cause f = true) : ∃ t, FrameTaken s i m cause t ∧ f t = true := by
  unfold frameTakenB at h
  obtain ⟨s1, _, e1, h⟩ := got_of h
  split at h
  · rename_i s2 e2
    obtain ⟨s3, _, e3, h⟩ := got_of h
    obtain ⟨s4, _, e4, h⟩ := got_of h
    split at h
    · rename_i s5 e5
      exact ⟨_, ⟨s1, s2, s3, s4, s5, e1, e2, e3, e4, e5, rfl⟩, h⟩
    · cases h
  · cases h

/-- The conditions of the return, on the handler's state. -/
def returnsB (t : State) : Bool :=
  let s := { t with cur := trapState.cur }
  let sp0 := s.spindle 0
  issuesB (.eret u) s && sp0.flagsClear && match sp0.trapped with
  | none => false
  | some r =>
    gotB (putLines (s.advance 1) s.me (handlerLines (s.advance 1) s.cur.sp r.frame)) (fun s1 _ => gotB (devRead s1 s.me (r.frame + 18#64) 1) (fun s2 _ =>
      gotB (readImage (s2.modSp s.cur.sp (fun sp => shownTrapped sp r)) s.cur.sp) (fun s3 uv =>
        let sp := clearReleased r.wrel (applyImage (s3.spindle s.cur.sp) (uv.1.map (·.1)) uv.2)
        uv.1.all (fun x => x.2 == 0#4) && r.lanes.length == 32 && (List.range 32).all (fun l => ((sp.lane l).pc == r.epc.getD l 0#64) && !(sp.lane l).serial && (sp.lane l).rel.isNone))))

theorem witness_trap : ∃ t, FrameTaken trapState 0 (lmask trapState 0) 0x0A18#16 t ∧ returnsB t = true :=
  frame_of (show frameTakenB trapState 0 (lmask trapState 0) 0x0A18#16 returnsB = true by decide +kernel)

theorem witness_TrapDelivery : ∃ (s : State) (i : Nat) (cause : BitVec 16) (t : State), i < s.spindles.length ∧ (s.spindle i).lanes.length = 32 ∧ trapReady s i = true ∧
    (∀ l < 32, (s.lane i l).pendingTrap = true → (s.lane i l).tx = false) ∧
    cause = BitVec.ofNat 16 ((s.lane i (lowestLane (lmask s i))).tcode.toNat * 512 +
      (if (lanesOf (lmask s i)).any (fun l => (s.lane i l).deferred.isSome) then 256 else 0) + (s.lane i (lowestLane (lmask s i))).cause.toNat) ∧
    (s.partOf i).tframe ≠ 0#64 ∧ (s.partOf i).trapvec ≠ 0#64 ∧ FrameTaken s i (lmask s i) cause t := by
  obtain ⟨t, h, _⟩ := witness_trap
  exact ⟨trapState, 0, 0x0A18#16, t, by decide +kernel, by decide +kernel, by decide +kernel, by decide +kernel, by decide +kernel, by decide +kernel, by decide +kernel, h⟩

/-- Without a frame area. -/
theorem witness_TrapDelivery_kill : ∃ (s : State) (i : Nat), i < s.spindles.length ∧ (s.spindle i).lanes.length = 32 ∧ trapReady s i = true ∧
    (∀ l < 32, (s.lane i l).pendingTrap = true → (s.lane i l).tx = false) ∧ (s.partOf i).tframe = 0#64 ∧ (s.spindle i).team < s.teams.length ∧
    ∃ s1, writeImage s i = .ok s1 () := by
  obtain ⟨s1, _, h, _⟩ := got_of (f := fun _ _ => true) (show gotB (writeImage (trapState.modPart 0 (fun q => { q with tframe := 0#64 })) 0) (fun _ _ => true) = true by decide +kernel)
  exact ⟨trapState.modPart 0 (fun q => { q with tframe := 0#64 }), 0, by decide +kernel, by decide +kernel, by decide +kernel, by decide +kernel, by decide +kernel, by decide +kernel, s1, h⟩

/-- With a flag that counts. -/
theorem witness_TrapDelivery_flags : ∃ (s : State) (i : Nat) (f : Cells 6), i < s.spindles.length ∧ (s.spindle i).lanes.length = 32 ∧ trapReady s i = true ∧
    (∀ l < 32, (s.lane i l).pendingTrap = true → (s.lane i l).tx = false) ∧ ((s.modSp i (fun sp => { sp with f := f })).spindle i).flagsClear = false ∧ (s.spindle i).stopped = false :=
  ⟨trapState, 0, cellSet [] 11 1#6, by decide +kernel, by decide +kernel, by decide +kernel, by decide +kernel, by decide +kernel, by decide +kernel⟩

theorem witness_TrapReturn : ∃ (s : State) (r : Trapped) (s1 s2 s3 : State) (fl : Nat) (u' v : List (Nat × BitVec 4)),
    Issues (.eret u) s ∧ (s.spindle s.cur.sp).trapped = some r ∧ (s.spindle s.cur.sp).flagsClear = true ∧
    putLines (s.advance 1) s.me (handlerLines (s.advance 1) s.cur.sp r.frame) = .ok s1 () ∧ devRead s1 s.me (r.frame + 18#64) 1 = .ok s2 fl ∧
    readImage (s2.modSp s.cur.sp (fun sp => shownTrapped sp r)) s.cur.sp = .ok s3 (u', v) ∧ (∀ x ∈ u', x.2 = 0#4) ∧ r.lanes.length = 32 ∧
    (∀ l < 32, (clearReleased r.wrel (applyImage (s3.spindle s.cur.sp) (u'.map (·.1)) v) |>.lane l).pc = r.epc.getD l 0#64 ∧
      (clearReleased r.wrel (applyImage (s3.spindle s.cur.sp) (u'.map (·.1)) v) |>.lane l).serial = false) ∧
    ∀ l < 32, (clearReleased r.wrel (applyImage (s3.spindle s.cur.sp) (u'.map (·.1)) v) |>.lane l).rel = none := by
  obtain ⟨t, _, h⟩ := witness_trap
  unfold returnsB at h
  simp only [Bool.and_eq_true] at h
  obtain ⟨⟨h1, h2⟩, h⟩ := h
  split at h
  · cases h
  · rename_i r e
    obtain ⟨s1, _, e1, h⟩ := got_of h
    obtain ⟨s2, fl, e2, h⟩ := got_of h
    obtain ⟨s3, ⟨u', v⟩, e3, h⟩ := got_of h
    simp only [Bool.and_eq_true, List.all_eq_true, beq_iff_eq, Option.isNone_iff_eq_none, List.mem_range, Bool.not_eq_true'] at h
    exact ⟨{ t with cur := trapState.cur }, r, s1, s2, s3, fl, u', v, issues_of _ _ h1, e, h2, e1, e2, e3, h.1.1, h.1.2, fun l hl => (h.2 l hl).1, fun l hl => (h.2 l hl).2⟩

-- Steps (03 R68-R71)

def nextB (r : Host.Outcome State Fault Refusal) (f : State → Bool) : Bool :=
  match r with
  | .next t => f t
  | _ => false
theorem next_of {r : Host.Outcome State Fault Refusal} {f : State → Bool} (h : nextB r f = true) : ∃ t, r = .next t ∧ f t = true := by
  cases r <;> simp only [nextB] at h
  · exact ⟨_, rfl, h⟩
  all_goals cases h

theorem witness_StepKeeps : ∃ s t, Memory.wf s.mem.phys ∧ ThirtyTwo s ∧ step s = .next t :=
  let ⟨t, h, _⟩ := next_of (f := fun _ => true) (show nextB (step State.reset) (fun _ => true) = true by decide +kernel)
  ⟨State.reset, t, by decide +kernel, ⟨fun _ hs => (List.not_mem_nil hs).elim, fun _ hx => (List.not_mem_nil hx).elim⟩, h⟩

theorem witness_DecodeEncode : (∃ i, wf i = true ∧ encode i ≠ []) ∧ ∃ i rest, decode (bytesOfWord 0x0000_0000#32) = .ok (i, rest) :=
  ⟨⟨.nop u, by decide, by decide⟩, .zeroWord, [], rfl⟩

def c1 : Pfx := { c := true, g := 7#3 }
/-- A word of one word with and without a chain bit, and a word of two words. -/
theorem witness_StepRunsDecoded_chain :
    (∃ s pc w0, WordHeld s 0 pc w0 ∧ xMajor (w0.extractLsb' 21 7).toNat = false ∧ w0.getLsbD 31 = false) ∧
    (∃ s pc w0 w1, WordHeld s 0 pc w0 ∧ xMajor (w0.extractLsb' 21 7).toNat = true ∧ slotOf pc < 2 ∧ WordHeld s 0 (pc + 4#64) w1) ∧
    ∃ s pc w0, ∃ l : List CWord, WordHeld s 0 pc w0 ∧ w0.getLsbD 31 = true ∧ (w0.extractLsb' 21 7).toNat ≠ 0x7F ∧ slotOf pc + 1 < 3 ∧ fetchChain s 0 0 (pc + 4#64) = (s, .words l) :=
  ⟨⟨ready (.mov u 4#7 5#7) 1#32, placedText + 4#64, ((encode (.mov u 4#7 5#7)).getD 0 0#32), held_of (by decide +kernel), by decide +kernel, by decide +kernel⟩,
   ⟨ready (.movl u 4#7 false 9#32) 1#32, placedText + 4#64, ((encode (.movl u 4#7 false 9#32)).getD 0 0#32), 9#32, held_of (by decide +kernel), by decide +kernel, by decide +kernel,
     held_of (by decide +kernel)⟩,
   ready (.mov c1 4#7 5#7) 1#32, placedText + 4#64, ((encode (.mov c1 4#7 5#7)).getD 0 0#32), [], held_of (by decide +kernel), by decide +kernel, by decide +kernel, by decide +kernel, rfl⟩

theorem calm {s : State} (h : (s.mem.drops.isEmpty && s.reports.isEmpty) = true) : Unreported s := by
  simp only [Bool.and_eq_true, List.isEmpty_iff] at h
  exact ⟨h.1, fun r hr => by
    rw [h.2] at hr
    cases hr⟩

/-- The chain that stands where fragment (m, pc) of spindle k is to issue, with the states that its fetches leave, and its clause's header. -/
def chainAt (s : State) (k : Nat) (m : LaneMask) (pc : DWord) : Option (State × CWord × List CWord × State × Word × DWord) :=
  match fetchChain (standing (arbitrate s (s.spindle k).core) k m pc) k 3 pc with
  | (v, .words (c :: rest)) =>
    match chainHeader v k pc (c :: rest) with
    | (x, .word h, a) => some (v, c, rest, x, h, a)
    | _ => none
  | _ => none
theorem chainAt_of {s : State} {k : Nat} {m : LaneMask} {pc : DWord} {v x : State} {c : CWord} {rest : List CWord} {h : Word} {a : DWord}
    (e : chainAt s k m pc = some (v, c, rest, x, h, a)) :
    fetchChain (standing (arbitrate s (s.spindle k).core) k m pc) k 3 pc = (v, .words (c :: rest)) ∧ chainHeader v k pc (c :: rest) = (x, .word h, a) := by
  unfold chainAt at e
  split at e
  · rename_i e1
    split at e
    · rename_i e2
      cases e
      exact ⟨e1, e2⟩
    · cases e
  · cases e
/-- The state in which the chain's first word stands at issue. -/
def standsIn (x : State) (k : Nat) (c : CWord) (rest : List CWord) : State :=
  earlyResults { x with cur := { x.cur with w0 := c.w0, w1 := c.w1, more := !rest.isEmpty, rest := rest.map (fun d => (d.w0, d.w1)), clear := (x.spindle k).workDone } } k
def chainReadyB (s t : State) (k : Nat) (m : LaneMask) (w : Except DecodeError Instr) : Bool :=
  !queueBlocks s (s.spindle k).core t.cur.chain && decide (((chainWrites t.cur.chain).foldl insertNat (pinnedRegs s k)).length ≤ 8) && (chainWaits k m 2 (issueWord (bookIssue t k m t.cur.chain) w)).isNone &&
    (chainRegs t.cur.chain).all (fun r => !decide (r < (s.spindle k).vcount) || rcHas s k r) && (!usesE t.cur.chain || !portTaken s k) && Machine.pairs s k t.cur.chain
theorem chainReady_of {s t : State} {k : Nat} {m : LaneMask} {w : Except DecodeError Instr} (h : chainReadyB s t k m w = true) : ChainReady s t k m w := by
  simp only [chainReadyB, Bool.and_eq_true, decide_eq_true_eq, Option.isNone_iff_eq_none, List.all_eq_true, Bool.or_eq_true, Bool.not_eq_true', decide_eq_false_iff_not] at h
  obtain ⟨⟨⟨⟨⟨h0, h1⟩, h2⟩, h3⟩, h4⟩, h5⟩ := h
  refine ⟨h0, h1, h2, fun r hr n => (h3 r hr).resolve_left (fun m => m n), fun e => ?_, h5⟩
  rcases h4 with h4 | h4
  · rw [e] at h4; cases h4
  · exact h4

def readsB (r : Except DecodeError Instr) (i : Instr) : Bool :=
  match r with
  | .ok j => j == i
  | .error _ => false
theorem reads_of {r : Except DecodeError Instr} {i : Instr} (h : readsB r i = true) : r = .ok i := by
  cases r <;> simp only [readsB] at h
  · cases h
  · rw [beq_iff_eq.1 h]

def movWord : Nat := ((encode (.mov u 4#7 5#7)).getD 0 0#32).toNat
def reservedWord : Nat := 0x7020_4001
def badHead : Nat := 0x7FE0_01A4
def isErr (r : Except DecodeError Instr) : Bool := r.toOption.isNone
/-- The hypotheses of the clauses on a chain's start, with the word placed at issue: a word and a header, each of which decodes or is refused. -/
def StartsChain (s : State) (bad hd : Bool) : Prop := ∃ k m pc v c rest x h a, Undisturbed s ∧ (s.clock.cycle % 2 = 1 → nextInternal s = none) ∧ pickSpindle s = some k ∧
  bestFragment (s.spindle k) = some (m, pc) ∧ fetchChain (standing (arbitrate s (s.spindle k).core) k m pc) k 3 pc = (v, .words (c :: rest)) ∧ badHeaderWord (c :: rest) = none ∧ chainBad (c :: rest) = false ∧
  chainHeader v k pc (c :: rest) = (x, .word h, a) ∧ flagRoom (x.spindle k) h (c :: rest) = true ∧ isErr (decodeWords c.w0 c.w1) = bad ∧ isHeader c.w0 = hd ∧
  (hd = false → ChainReady (arbitrate s (s.spindle k).core) (standsIn x k c rest) k m (decodeWords c.w0 c.w1))
def startsB (s : State) (pc : DWord) (bad hd : Bool) : Bool :=
  (chainAt s 0 0xFFFF_FFFF#32 pc).any (fun r => match r with
    | (_, c, rest, x, h, _) => (badHeaderWord (c :: rest)).isNone && !chainBad (c :: rest) && flagRoom (x.spindle 0) h (c :: rest) && isErr (decodeWords c.w0 c.w1) == bad &&
        isHeader c.w0 == hd && (hd || chainReadyB (arbitrate s (s.spindle 0).core) (standsIn x 0 c rest) 0 0xFFFF_FFFF#32 (decodeWords c.w0 c.w1)))
theorem starts_of {s : State} {pc : DWord} {bad hd : Bool} (h : startsB s pc bad hd = true) (q : Undisturbed s) (e : s.clock.cycle % 2 = 1 → nextInternal s = none)
    (p : pickSpindle s = some 0) (b : bestFragment (s.spindle 0) = some (0xFFFF_FFFF#32, pc)) : StartsChain s bad hd := by
  obtain ⟨⟨v, c, rest, x, hw, a⟩, h1, h2⟩ := (Option.any_eq_true _ _).1 h
  simp only [Bool.and_eq_true, Option.isNone_iff_eq_none, Bool.not_eq_true', beq_iff_eq, Bool.or_eq_true] at h2
  obtain ⟨⟨⟨⟨⟨k1, k2⟩, k3⟩, k4⟩, k5⟩, k6⟩ := h2
  obtain ⟨e1, e2⟩ := chainAt_of h1
  refine ⟨0, _, pc, v, c, rest, x, hw, a, q, e, p, b, e1, k1, k2, e2, k3, k4, k5, fun n => ?_⟩
  rcases k6 with k6 | k6
  · rw [n] at k6; cases k6
  · exact chainReady_of k6
theorem witness_StepRunsDecoded_issue : (∃ s, StartsChain s false false) ∧ (∃ s, StartsChain s true false) ∧ (∃ s, StartsChain s false true) ∧ ∃ s, StartsChain s true true :=
  ⟨⟨State.reset.withFetchWord 32 movWord, starts_of (pc := placedText + 4#64) (by decide +kernel) ⟨calm (by decide +kernel), by decide +kernel, by decide +kernel⟩ (by decide +kernel) (by decide +kernel) (by decide +kernel)⟩,
   ⟨State.reset.withFetchWord 32 reservedWord, starts_of (pc := placedText + 4#64) (by decide +kernel) ⟨calm (by decide +kernel), by decide +kernel, by decide +kernel⟩ (by decide +kernel) (by decide +kernel) (by decide +kernel)⟩,
   ⟨State.reset.withFetchWord 32 head.toNat, starts_of (pc := placedText) (by decide +kernel) ⟨calm (by decide +kernel), by decide +kernel, by decide +kernel⟩ (by decide +kernel) (by decide +kernel) (by decide +kernel)⟩,
   ⟨State.reset.withFetchWord 32 badHead, starts_of (pc := placedText) (by decide +kernel) ⟨calm (by decide +kernel), by decide +kernel, by decide +kernel⟩ (by decide +kernel) (by decide +kernel) (by decide +kernel)⟩⟩

/-- The second word of a chain, for the lanes that stand at it and for none, and one that is refused. -/
def chained (w : Word) (pc : DWord) : State :=
  let s := ready (.mov c1 4#7 5#7) 3#32
  { s with cur := { s.cur with more := true, rest := [(w, 0#32)] }, spindles := s.spindles.map (fun sp => { sp with lanes := sp.lanes.map (fun y => { y with pc := pc }) }) }
theorem witness_StepRunsDecoded_next : (∃ (s : State) (w0 w1 : Word) (rest : List (Word × Word)), s.cur.more = true ∧ s.cur.rest = (w0, w1) :: rest ∧
      s.cur.lanes &&& maskBy (fun l => (s.lane s.cur.sp l).st.isEligible && (s.lane s.cur.sp l).pc == nextPc s) ≠ 0#32 ∧ isErr (decodeWords w0 w1) = false) ∧
    (∃ (s : State) (w0 w1 : Word) (rest : List (Word × Word)), s.cur.more = true ∧ s.cur.rest = (w0, w1) :: rest ∧
      s.cur.lanes &&& maskBy (fun l => (s.lane s.cur.sp l).st.isEligible && (s.lane s.cur.sp l).pc == nextPc s) ≠ 0#32 ∧ isErr (decodeWords w0 w1) = true) ∧
    ∃ (s : State) (w0 w1 : Word) (rest : List (Word × Word)), s.cur.more = true ∧ s.cur.rest = (w0, w1) :: rest ∧
      s.cur.lanes &&& maskBy (fun l => (s.lane s.cur.sp l).st.isEligible && (s.lane s.cur.sp l).pc == nextPc s) = 0#32 :=
  ⟨⟨chained (BitVec.ofNat 32 movWord) (placedText + 8#64), BitVec.ofNat 32 movWord, 0#32, [], rfl, rfl, by decide +kernel, by decide +kernel⟩,
   ⟨chained (BitVec.ofNat 32 reservedWord) (placedText + 8#64), BitVec.ofNat 32 reservedWord, 0#32, [], rfl, rfl, by decide +kernel, by decide +kernel⟩,
   chained (BitVec.ofNat 32 movWord) placedText, BitVec.ofNat 32 movWord, 0#32, [], rfl, rfl, by decide +kernel⟩

def doneOp : PendingOp := { id := 5, sp := 0, flag := 11, lanes := 1#32, writes := [(32 * 4, 7#32), (32 * 127 + 31, 8#32)], pwrites := [(6, 0, true), (6, 1, false)], second := [] }
def opState : State := let s := busyState (.nop u); { s with ops := [doneOp], clock := { s.clock with cycle := 3 }, distNext := 16 }
theorem witness_StepRunsDecoded_events :
    (∃ (s : State) (e : Instr) (rest : List Instr), Unreported s ∧ s.cur.more = false ∧ s.agenda = e :: rest ∧ s.clock.cycle % 4 ≠ 1 ∧ s.clock.cycle % 4 ≠ 2) ∧
    (∃ (s : State) (e : Instr), Undisturbed s ∧ nextInternal s = some e ∧ s.clock.cycle % 2 = 1) ∧ ∃ s : State, Undisturbed s ∧ nextInternal s = none ∧ pickSpindle s = none :=
  ⟨⟨{ State.reset with agenda := [.powerLoss] }, .powerLoss, [], calm (by decide +kernel), by decide +kernel, rfl, by decide +kernel, by decide +kernel⟩,
   ⟨opState, .operationCompletion 5, ⟨calm (by decide +kernel), by decide +kernel, .inl (by decide +kernel)⟩, by decide +kernel, by decide +kernel⟩,
   { State.reset with distNext := 16 }, ⟨calm (by decide +kernel), by decide +kernel, .inl (by decide +kernel)⟩, by decide +kernel, by decide +kernel⟩

-- Completions and fetches (03 R75, R76, R463; 07 R151; 08 R188; 12 R288; 18 R389)

/-- A queued `STEND` on an open cursor, and a command that has run. -/
def commandOf (i : Instr) (e : Engine) (st : CmdSt) (s : State) : State :=
  { s with cmds := [{ newCmd s i e 3#32 with id := 5, st := st, charges := [(0, 2)], swrites := [(63, 9#32), (0, 1#32)], pwrite := some (6, true) }] }
theorem witness_Completions :
    (∃ (s : State) (o : PendingOp), s.ops.find? (fun y => y.id == o.id) = some o ∧ o.sp < s.spindles.length ∧ (o.writes.map (·.1)).Nodup ∧ (o.pwrites.map (fun y => (y.1, y.2.1))).Nodup) ∧
    (∃ (s : State) (i l n : Nat), i < s.spindles.length ∧ (s.spindle i).lanes.length = 32 ∧ s.active i = true ∧ l < 32 ∧ (s.lane i l).st = .held (.completing n)) ∧
    (∃ (s : State) (i l n : Nat), i < s.spindles.length ∧ (s.spindle i).lanes.length = 32 ∧ s.active i = true ∧ l < 32 ∧ (∃ id, (s.lane i l).st = .held (.regshrink n id)) ∧ (s.spindle i).flagsClear = true) ∧
    (∃ (s : State) (i l : Nat) (h : Word), i < s.spindles.length ∧ (s.spindle i).lanes.length = 32 ∧ s.active i = true ∧ l < 32 ∧ (s.lane i l).st = .header ∧ (fetchWord s i (s.lane i l).pc).2 = .word h ∧
      ∀ n < 12, h.getLsbD (9 + n) = true → (s.spindle i).flag n = 0#6) ∧
    (∃ (s : State) (c : Cmd), s.cmds.find? (fun y => y.id == c.id) = some c ∧ startable s c = true ∧ (s.team c.team).st = .running ∧ ∃ p d a x, c.instr = .stend p d a ∧
      s.cursor c.core ((cellGet c.kregs a.toNat).toNat % 64) = some x) ∧
    ∃ (s : State) (c : Cmd), s.cmds.find? (fun y => y.id == c.id) = some c ∧ completable s c = true ∧ ∃ f, c.sp < s.spindles.length ∧ (s.spindle c.sp).st ≠ .ended ∧ c.charges = [(c.sp, f)] ∧
      c.bar = none ∧ c.launch = none ∧ (∀ p a, c.instr ≠ .sclose p a) ∧ (c.swrites.map (·.1)).Nodup := by
  refine ⟨⟨opState, doneOp, by decide +kernel, by decide +kernel, by decide, by decide⟩,
    ⟨holds (.held (.completing 2)) (.nop u), 0, 31, 2, by decide +kernel, by decide +kernel, by decide +kernel, by decide, by decide +kernel⟩,
    ⟨holds (.held (.regshrink 7 3)) (.nop u), 0, 0, 7, by decide +kernel, by decide +kernel, by decide +kernel, by decide, ⟨3, by decide +kernel⟩, by decide +kernel⟩,
    ⟨(holds .header (.nop u)).modSp 0 (fun sp => { sp with lanes := sp.lanes.map (fun y => { y with pc := placedText }) }), 0, 0, head, by decide +kernel, by decide +kernel, by decide +kernel, by decide,
      by decide +kernel, by decide +kernel, by decide +kernel⟩, ?_, ?_⟩
  · let s := commandOf (.stend u 0#7 0#7) .ple .queued (takenAll (commandState (.stend u 0#7 0#7)))
    have h : (s.cmds.head?.any (fun c => s.cmds.find? (fun y => y.id == c.id) == some c && startable s c && (s.team c.team).st == .running && c.instr == .stend u 0#7 0#7 &&
      (s.cursor c.core ((cellGet c.kregs 0).toNat % 64)).isSome)) = true := by decide +kernel
    obtain ⟨c, hc, h⟩ := (Option.any_eq_true _ _).1 h
    simp only [Bool.and_eq_true, beq_iff_eq, Option.isSome_iff_exists] at h
    obtain ⟨⟨⟨⟨h1, h2⟩, h3⟩, h4⟩, x, h5⟩ := h
    exact ⟨s, c, h1, h2, h3, u, 0#7, 0#7, x, h4, h5⟩
  · let s := commandOf (.stend u 0#7 0#7) .ple .ran (commandState (.stend u 0#7 0#7))
    have h : (s.cmds.head?.any (fun c => s.cmds.find? (fun y => y.id == c.id) == some c && completable s c && decide (c.sp < s.spindles.length) && (s.spindle c.sp).st != .ended &&
      c.charges == [(c.sp, 2)] && c.bar.isNone && c.launch.isNone && c.instr == .stend u 0#7 0#7 && decide (c.swrites.map (·.1)).Nodup)) = true := by decide +kernel
    obtain ⟨c, hc, h⟩ := (Option.any_eq_true _ _).1 h
    simp only [Bool.and_eq_true, beq_iff_eq, bne_iff_ne, Option.isNone_iff_eq_none, decide_eq_true_eq] at h
    obtain ⟨⟨⟨⟨⟨⟨⟨⟨h1, h2⟩, h3⟩, h4⟩, h5⟩, h6⟩, h7⟩, h8⟩, h9⟩ := h
    exact ⟨s, c, h1, h2, 2, h3, h4, h5, h6, h7, fun p a e => (by rw [h8] at e; cases e), h9⟩

/-- Page tables of partition 1 at 0x100000 that map the low 1 GiB to itself by one leaf, a translation queue at 0x110000 with one command, and the reverse
map at 0x130000 that gives the first host frame to page 0x20 of context 1. -/
def tables (leaf : Nat) (op : Nat) : Memory :=
  [(0x10_0010, 0x10_1001), (0x10_0018, 1), (0x10_1000, 0x10_2001), (0x10_2000, 0x10_3001), (0x10_3000, leaf), (0x11_0000, 0), (0x11_0008, 1), (0x11_1000, op + 0x1_0000), (0x11_1008, 0x20000), (0x11_1010, 1),
    (0x3013_0000, 0x20 * 2 ^ 15 + 2 ^ 14 + 1)].foldl (fun m x => bytesSet m x.1 8 x.2) []
def mapped (op : Nat) (s : State) : State :=
  { s with mem := { s.mem with phys := tables 0x21F op, home := s.mem.home ++ [hline 1024] },
           adeol := { s.adeol with astbase := 0x10_0001#64, tcq := 0x11_0002#64, rmapbase := 0x13_0000#64, hostframes := 1#64, hdm := (2#64 ^ 46) ||| 1#64 },
           parts := s.parts.map (fun p => { p with pavs := [0] }) }
/-- The fragment of lane 31 of `ready` of a move, at its word. -/
def atMove : State :=
  let s := ready (.mov u 4#7 5#7) 3#32
  { s with cur := { sp := 0, lanes := (fragmentOf (s.spindle 0) ((s.spindle 0).lanesIn LaneSt.canIssue) 31).1, pc := (s.lane 0 31).pc, w0 := 0#32, w1 := 0#32, chained := false, more := false,
                    rest := [], clear := false } }
theorem witness_Fetches :
    (∃ (s : State) (i l : Nat) (ws : List CWord), s.active i = true ∧ (s.lane i l).st.canIssue = true ∧
      let c : Issue := { sp := i, lanes := (fragmentOf (s.spindle i) ((s.spindle i).lanesIn LaneSt.canIssue) l).1, pc := (s.lane i l).pc, w0 := 0#32, w1 := 0#32, chained := false, more := false, rest := [], clear := false }
      fetchChain { s with cur := c } i 3 (s.lane i l).pc = ({ s with cur := c }, .words ws)) ∧
    (∃ (s : State) (core ea va : Nat) (p : Partition), partFor s core ea = some p ∧ rightsFind s.mem core ea (va % 2 ^ 57 / 4096) = none ∧ ∃ e lv, walk s (some p.pnum) ea (va % 2 ^ 57 / 4096) = .leaf e lv) ∧
    (∃ (s : State) (i reg : Nat), i < s.spindles.length ∧ s.active i = true ∧ reg < (s.spindle i).vcount ∧ rcHas s i reg = false ∧ reg ∉ (s.spindle i).want) ∧
    ∃ (s : State) (i reg : Nat) (s1 s2 : State) (v : Nat × BitVec 4), i < s.spindles.length ∧ s.active i = true ∧ reg < (s.spindle i).vcount ∧ rcHas s i reg = false ∧ reg ∈ (s.spindle i).want ∧
      rcRoom s (s.spindle i).core 1 = .ok s1 () ∧ devReadLine s1 (s.who i) (s.vectorVa i reg) = .ok s2 v := by
  let w : Word := (encode (.mov u 4#7 5#7)).getD 0 0#32
  have h : WordHeld atMove 0 atMove.cur.pc w := held_of (by decide +kernel)
  have a : fetchChain atMove 0 3 atMove.cur.pc = (atMove, .words [{ pc := atMove.cur.pc, w0 := w, w1 := 0#32, op := (w.extractLsb' 21 7).toNat }]) := by
    unfold fetchChain
    rw [fetchWord_held h]
    have e1 : (xMajor (fld w 21 7).toNat && decide (slotOf atMove.cur.pc < 2)) = false := by decide +kernel
    have e2 : (({ pc := atMove.cur.pc, w0 := w, w1 := 0#32, op := (fld w 21 7).toNat } : CWord).chains && (fld w 21 7).toNat != 0x7F &&
      decide (slotOf atMove.cur.pc + ({ pc := atMove.cur.pc, w0 := w, w1 := 0#32, op := (fld w 21 7).toNat } : CWord).len < 3)) = false := by decide +kernel
    simp only [e1, e2, Bool.false_eq_true, if_false]
    rfl
  refine ⟨⟨ready (.mov u 4#7 5#7) 3#32, 0, 31, _, by decide +kernel, by decide +kernel, a⟩, ?_, ?_⟩
  · let s := (mapped 1 (ready (.nop u) 3#32)).modMem (fun m => { m with rights := [] })
    have h : ((partFor s 7 1).any (fun p => walk s (some p.pnum) 1 (0x20000 % 2 ^ 57 / 4096) == .leaf 0x21F#64 2)) = true := by decide +kernel
    obtain ⟨p, h, k⟩ := (Option.any_eq_true _ _).1 h
    exact ⟨s, 7, 1, 0x20000, p, h, by decide +kernel, _, _, by simpa using k⟩
  · let f (w : List Nat) : State := { trapState.modSp 0 (fun sp => { sp with want := w, lanes := sp.lanes.map (fun y => { y with st := .eligible }) }) with rcache := [] }
    have h : gotB (rcRoom (f [15]) ((f [15]).spindle 0).core 1) (fun s1 _ => gotB (devReadLine s1 ((f [15]).who 0) ((f [15]).vectorVa 0 15)) (fun _ _ => true)) = true := by decide +kernel
    obtain ⟨s1, _, h1, h⟩ := got_of h
    obtain ⟨s2, v, h2, _⟩ := got_of h
    exact ⟨⟨f [14], 0, 15, by decide +kernel, by decide +kernel, by decide +kernel, by decide +kernel, by decide +kernel⟩,
      f [15], 0, 15, s1, s2, v, by decide +kernel, by decide +kernel, by decide +kernel, by decide +kernel, by decide +kernel, h1, h2⟩

-- Events (05 R122-R126; 07 R169-R171; 11 R253-R260; 14 R328-R340; 13 R303-R306)

/-- Lane 0 waits with a monitor of the word at 0x20008, as its value stands, and the others have exited. -/
def watchState (m : Monitor) : State :=
  (atHomes (.nop u) f8).modSp 0 (fun sp => { sp with lanes := (enumFrom 0 sp.lanes).map (fun x => if x.1 = 0 then { x.2 with st := .waiting, monitor := some m } else { x.2 with st := .exited }) })
def watch : Monitor := { ea := 1, va := 0x20008#64, cmp := 0#4, w64 := true, operand := 0#64, acq := false, scope := 3#3, dest := 8, tissue := 0, counted := false }
/-- `trapState`, its lanes in the given states. -/
def lanesIn (st : LaneSt) (f : Lane → Lane) (k : SpSt) : State :=
  trapState.modSp 0 (fun sp => { sp with st := k, lanes := (enumFrom 0 sp.lanes).map (fun x => if x.1 = 0 then f { x.2 with st := st, pendingTrap := false } else x.2) })
theorem witness_SpindleEvents_end : ∃ (s s1 : State), 0 < s.spindles.length ∧ (s.spindle 0).lanes.length = 32 ∧ (s.spindle 0).st = .resident ∧ (s.spindle 0).inHandler = false ∧
    (∀ l < 32, (s.lane 0 l).st = .exited) ∧ (s.spindle 0).flagsClear = true ∧ (s.teamOf 0).st.holds = true ∧ (s.teamOf 0).rollb = false ∧ writeImage (closeCursors s 0) 0 = .ok s1 () := by
  let s := lanesIn .exited id .resident
  obtain ⟨s1, _, h, _⟩ := got_of (f := fun _ _ => true) (show gotB (writeImage (closeCursors s 0) 0) (fun _ _ => true) = true by decide +kernel)
  exact ⟨s, s1, by decide +kernel, by decide +kernel, by decide +kernel, by decide +kernel, by decide +kernel, by decide +kernel, by decide +kernel, by decide +kernel, h⟩
theorem witness_SpindleEvents_dormant : ∃ (s s1 : State), 0 < s.spindles.length ∧ (s.spindle 0).lanes.length = 32 ∧ s.active 0 = true ∧ (s.spindle 0).inHandler = false ∧
    (∃ l < 32, (s.lane 0 l).st ≠ .exited) ∧ (∀ l < 32, (s.lane 0 l).st = .exited ∨ (s.lane 0 l).st = .waiting) ∧ (s.spindle 0).flagsClear = true ∧
    (∀ l < 32, (s.lane 0 l).pendingTrap = false) ∧ writeImage s 0 = .ok s1 () := by
  let s := lanesIn .waiting id .resident
  obtain ⟨s1, _, h, _⟩ := got_of (f := fun _ _ => true) (show gotB (writeImage s 0) (fun _ _ => true) = true by decide +kernel)
  exact ⟨s, s1, by decide +kernel, by decide +kernel, by decide +kernel, by decide +kernel, ⟨0, by decide, by decide +kernel⟩, by decide +kernel, by decide +kernel, by decide +kernel, h⟩
theorem witness_SpindleEvents_return : ∃ (s : State) (q k : Nat) (s1 : State) (x : List (Nat × BitVec 4) × List (Nat × BitVec 4)) (r : Release), 0 < s.spindles.length ∧ (s.spindle 0).lanes.length = 32 ∧
    freePlace s (s.spindle 0).core = some (q, k) ∧ (s.spindle 0).st = .dormant ∧ wakes (s.spindle 0) = true ∧ (s.teamOf 0).st = .running ∧ readImage s 0 = .ok s1 x ∧ (∀ y ∈ x.1, y.2 = 0#4) ∧
    (s.lane 0 0).rel = some r := by
  let s := lanesIn .waiting (fun y => { y with rel := some { pc := placedText, val := none } }) .dormant
  obtain ⟨s1, x, h, k⟩ := got_of (f := fun _ (x : List (Nat × BitVec 4) × List (Nat × BitVec 4)) => x.1.all (fun y => y.2 == 0#4)) (show gotB (readImage s 0) (fun _ x => x.1.all (fun y => y.2 == 0#4)) = true by decide +kernel)
  simp only [List.all_eq_true, beq_iff_eq] at k
  exact ⟨s, 0, 0, s1, x, _, by decide +kernel, by decide +kernel, by decide +kernel, by decide +kernel, by decide +kernel, by decide +kernel, h, k, rfl⟩
theorem witness_SpindleEvents_monitor : ∀ w : Bool, ∃ (s : State) (m : Monitor) (v : DWord), m.w64 = w ∧ 0 < s.spindles.length ∧ (s.spindle 0).lanes.length = 32 ∧ (s.spindle 0).st = .resident ∧
    (s.spindle 0).inHandler = false ∧ (s.spindle 0).trapped = none ∧ (s.teamOf 0).st.holds = true ∧ (s.lane 0 0).st = .waiting ∧ (s.lane 0 0).monitor = some m ∧ (s.lane 0 0).rel = none ∧ m.acq = false ∧
    s.mem.hostHeld = [] ∧ s.links.down = [] ∧ locked s m.ea (lnOf m.va) = false ∧ l1Find s.mem (s.spindle 0).core m.ea (lnOf m.va) = none ∧
    (∃ h, homeFind s.mem m.ea (lnOf m.va) = some h ∧ byteMask (offOf m.va) (if m.w64 then 8 else 4) &&& ~~~h.line.valid = 0#128 ∧ h.owner = none ∧ h.undo = [] ∧
      marksHit h.line (byteMask (offOf m.va) (if m.w64 then 8 else 4)) = 0#4 ∧ v = BitVec.ofNat 64 (lineBytesGet h.line.data (offOf m.va) (if m.w64 then 8 else 4))) ∧
    (if m.w64 then compares m.cmp v m.operand else compares m.cmp (v.setWidth 32 : Word) (m.operand.setWidth 32)) = true
  | true => ⟨watchState watch, watch, 0#64, rfl, by decide +kernel, by decide +kernel, by decide +kernel, by decide +kernel, by decide +kernel, by decide +kernel, by decide +kernel, by decide +kernel,
      by decide +kernel, rfl, by decide +kernel, rfl, by decide +kernel, by decide +kernel, ⟨hline 1024, by decide +kernel, by decide +kernel, rfl, rfl, by decide +kernel, by decide +kernel⟩, by decide +kernel⟩
  | false => ⟨watchState { watch with w64 := false, cmp := 9#4 }, { watch with w64 := false, cmp := 9#4 }, 0#64, rfl, by decide +kernel, by decide +kernel, by decide +kernel, by decide +kernel,
      by decide +kernel, by decide +kernel, by decide +kernel, by decide +kernel, by decide +kernel, rfl, by decide +kernel, rfl, by decide +kernel, by decide +kernel,
      ⟨hline 1024, by decide +kernel, by decide +kernel, rfl, rfl, by decide +kernel, by decide +kernel⟩, by decide +kernel⟩
/-- The watched line is one of host memory. -/
def hostWatch : State :=
  let s := watchState watch
  { s with mem := { s.mem with phys := bytesSet [] 0x10_0010 8 0x10_1001 |> (bytesSet · 0x10_0018 8 1) |> (bytesSet · 0x10_1000 8 0x10_2001) |> (bytesSet · 0x10_2000 8 0x10_3001) |>
             (bytesSet · 0x10_3000 8 (0x21F + Config.hostBase)) },
           adeol := { s.adeol with astbase := 0x10_0001#64, hostframes := 0x40000#64 } }
theorem witness_SpindleEvents_recheck : ∃ (s : State) (die slice : Nat), s.clock.ns % 2048 = 0 ∧ (watchers s die slice).any (watchesHost s) = true :=
  ⟨hostWatch, homeDie hostWatch 1 1024, sliceOf 1 1024, by decide +kernel, by decide +kernel⟩
theorem witness_SpindleEvents_timers : (∃ (s : State) (til : Nat), s.active 0 = true ∧ til ≤ s.clock.cycle ∧ (s.lane 0 31).st = .sleeping til) ∧
    (∃ (s : State) (til : Nat), s.active 0 = true ∧ til ≤ s.clock.cycle ∧ (s.lane 0 31).st = .backoff til) ∧
    (∃ (s : State) (til : Nat), s.clock.cycle < til ∧ (s.lane 0 31).st = .sleeping til) ∧ ∃ (s : State) (til : Nat), s.clock.cycle < til ∧ (s.lane 0 31).st = .backoff til :=
  ⟨⟨holds (.sleeping 0) (.nop u), 0, by decide +kernel, by decide +kernel, by decide +kernel⟩, ⟨holds (.backoff 0) (.nop u), 0, by decide +kernel, by decide +kernel, by decide +kernel⟩,
   ⟨holds (.sleeping 1) (.nop u), 1, by decide +kernel, by decide +kernel⟩, holds (.backoff 1) (.nop u), 1, by decide +kernel, by decide +kernel⟩

/-- Lanes 0 and 1 are held at `TXE` with empty logs. -/
def commitState : State :=
  (ready (.nop u) 3#32).modSp 0 (fun sp => { sp with lanes := (enumFrom 0 sp.lanes).map (fun x => if x.1 < 2 then { x.2 with st := .held .txe, tx := true, txn := some openTx } else x.2) })
/-- Lane 0 waits for the token of number 1024 in the domain at 0x20000, whose NEXT is 1024. -/
def token : TokenReq := { ea := 1, va := 0x20000#64, seq := 1024#32, sp := 0, lane := 0, since := 0, granted := false }
def tokenState : State := { (atHomes (.nop u) f8).modSp 0 (fun sp => { sp with lanes := sp.lanes.map (fun y => { y with st := .held .serial }) }) with tokens := [token] }
def oneThread : SpawnRec := { entry := placedText, domain := 0#64, args := [1#32, 2#32, 3#32, 4#32], seq := 0#32, ordered := false, slot := 0 }
def oneBin (r : Option Nat) (start : Nat) : Bin :=
  { core := 0, num := 15, rank := 0, team := 0, entry := placedText, domain := 0#64, ordered := false, threads := [oneThread], start := start, ready := r, saved := false, elapsed := 0 }
def binState (r : Option Nat) : State := let s := ready (.nop u) 3#32; { s with bins := [oneBin r 0], clock := { s.clock with cycle := 65536 } }
theorem witness_ThreadEvents :
    (∃ (s : State) (m : LaneMask), 0 < s.spindles.length ∧ (s.spindle 0).lanes.length = 32 ∧ m = commitLanes (s.spindle 0) ∧ m ≠ 0#32 ∧ s.active 0 = true ∧ (s.spindle 0).inHandler = false ∧
      waitingCommit s 0 = none ∧ s.mem.commits = [] ∧ ∀ l < 32, m.getLsbD l = true → (s.lane 0 l).txReads = [] ∧ (s.lane 0 l).txWrites = []) ∧
    (∃ (s s1 : State) (k : TokenReq) (hit : BitVec 4), s.tokens.find? (fun y => y.ea == k.ea && y.va.toNat == k.va.toNat && y.seq.toNat == k.seq.toNat && tokenReady s y) = some k ∧
      (∀ c ∈ s.mem.commits, c.sp ≠ k.sp) ∧ domainNext s k.sp k.va = .ok s1 (k.seq, hit) ∧ (s.lane k.sp k.lane).st = .held .serial) ∧
    (∃ (s : State) (ea va : Nat) (k : TokenReq) (s1 : State) (next : Word) (hit : BitVec 4),
      s.tokens.find? (fun k => k.ea == ea && k.va.toNat == va && (servedDomains s).contains (k.ea, k.va) && decide (k.since + 16384 ≤ s.clock.ns)) = some k ∧
      domainNext s k.sp k.va = .ok s1 (next, hit) ∧ k ∈ s.tokens ∧ k.ea = ea ∧ k.va.toNat = va ∧ (k.ea, k.va) ∈ servedDomains s ∧ k.seq = next ∧ k.since + 16384 ≤ s.clock.ns) ∧
    (∃ (s : State) (core n : Nat) (b : Bin), s.bins.find? (fun y => y.core == core && y.num == n && !y.saved) = some b ∧ b.ready = none ∧ b.threads ≠ [] ∧ (s.team b.team).st = .running ∧
      b.start + (max 64 ((s.team b.team).spawntimer.toNat % 65536) - b.elapsed) ≤ s.clock.cycle) ∧
    ∃ (s : State) (core n : Nat) (b : Bin) (q k idx : Nat), s.bins.find? (fun y => y.core == core && y.num == n && !y.saved) = some b ∧ (∀ sp ∈ s.spindles, sp.st = .ended → sp.uchunk = 0) ∧
      freePlace s core = some (q, k) ∧ freeIndex s b.team = some idx ∧ ArenaRoom s b.team (1 + (s.launchOf b.team).info.vcount / 16) ∧ binTurn s b = true ∧ b.ordered = false := by
  refine ⟨⟨commitState, 3#32, by decide +kernel, by decide +kernel, by decide +kernel, by decide, by decide +kernel, by decide +kernel, by decide +kernel, by decide +kernel, by decide +kernel⟩, ?_, ?_,
    ⟨binState none, 0, 15, oneBin none 0, by decide +kernel, rfl, by decide, by decide +kernel, by decide +kernel⟩,
    binState (some 64), 0, 15, oneBin (some 64) 0, ?_⟩
  · obtain ⟨s1, x, h, k⟩ := got_of (f := fun _ (x : Word × BitVec 4) => x == (1024#32, 0#4) && (tokenState.lane 0 0).st == .held .serial)
      (show gotB (domainNext tokenState 0 0x20000#64) (fun _ x => x == (1024#32, 0#4) && (tokenState.lane 0 0).st == .held .serial) = true by decide +kernel)
    simp only [Bool.and_eq_true, beq_iff_eq] at k
    rw [k.1] at h
    exact ⟨tokenState, s1, token, 0#4, by decide +kernel, by decide +kernel, h, k.2⟩
  · let s : State := { tokenState with clock := { tokenState.clock with ns := 16384 } }
    obtain ⟨s1, x, h, k⟩ := got_of (f := fun _ (x : Word × BitVec 4) => x == (1024#32, 0#4)) (show gotB (domainNext s 0 0x20000#64) (fun _ x => x == (1024#32, 0#4)) = true by decide +kernel)
    rw [beq_iff_eq.1 k] at h
    exact ⟨s, 1, 0x20000, token, s1, 1024#32, 0#4, by decide +kernel, h, by decide +kernel, rfl, by decide, by decide +kernel, rfl, by decide +kernel⟩
  · have h : freePlace (binState (some 64)) 0 = some ((freePlace (binState (some 64)) 0).getD (0, 0)) := by decide +kernel
    have r : (∀ c ∈ [1, 2, 3, 4, 5, 6, 7, 8, 9], ((binState (some 64)).launchRec 0).chunkFirst ≤ c + 1000 ∧ c + 1000 < 32 * (((binState (some 64)).team 0).regarena.toNat % 2 ^ 16) ∧
      c + 1000 ∉ ((binState (some 64)).team 0).chunks) := by decide +kernel
    exact ⟨_, _, 512, by decide +kernel, by decide +kernel, h, by decide +kernel, ⟨[1, 2, 3, 4, 5, 6, 7, 8, 9].map (· + 1000), by decide, by decide +kernel, fun c hc => by
      obtain ⟨b, hb, rfl⟩ := List.mem_map.1 hc
      exact r b hb⟩, by decide +kernel, rfl⟩

theorem witness_HomeEvents :
    (∃ (s : State) (x : L1Line), l1Find s.mem 0 1 1024 = some x ∧ x.owned = false ∧ x.serves s.clock.ns = false ∧ x.line.dirty ≠ 0#128 ∧ x ≠ x.ownOnly) ∧
    (∃ (s : State) (x : L1Line), l1Find s.mem 0 1 1024 = some x ∧ x.owned = false ∧ x.serves s.clock.ns = false ∧ x.line.dirty = 0#128) ∧
    (∃ (s : State) (x : L1Line), l1Find s.mem 0 1 1024 = some x ∧ x.line.dirty ≠ 0#128) ∧
    ∀ own : Bool, ∃ (s : State) (k : Nat) (x : LeafEntry) (h : HomeLine), locked s 1 1024 = false ∧ (s.mem.l1.filter (fun y => y.core == 0)).length < Config.l1Lines ∧ teamOn s 0 1 = some k ∧ rightsFind s.mem 0 1 (pageOfLn 1024) = some x ∧
      (if own then leafW x.leaf = true ∧ leafLock x.leaf = false ∧ sealedPage s.mem 1 (pageOfLn 1024) = false ∧ leafClass x.leaf ≠ 0
       else leafR x.leaf = true ∧ min 3 (leafLcap x.leaf) ≠ 0 ∧ leaseLen s.leaseL1 (min 3 (leafLcap x.leaf)) ≠ some 0) ∧
      homeFind s.mem 1 1024 = some h ∧ h.line.valid = BitVec.allOnes 128 ∧ h.owner = none ∧ h.undo = [] ∧ s.mem.hostHeld = [] ∧ s.links.down = [] ∧ (own = true → moving s 1 (pageOfLn 1024) = false) ∧ l1Find s.mem 0 1 1024 = none := by
  refine ⟨⟨(dirtyState (.nop u)).modMem (fun m => { m with l1 := m.l1.map (fun x => { x with til := some 0 }) }), _, rfl, by decide +kernel, by decide +kernel, by decide +kernel, by decide +kernel⟩,
    ⟨(dirtyState (.nop u)).modMem (fun m => { m with l1 := m.l1.map (fun x => { x with til := some 0, line := { x.line with dirty := 0#128 } }) }), _, rfl, by decide +kernel, by decide +kernel, by decide +kernel⟩,
    ⟨dirtyState (.nop u), _, rfl, by decide +kernel⟩, fun own => ⟨withLeaf leaseLeaf (atHomes (.nop u) f8), 0, { unit := 0, ea := 1, page := 0, span := 262144, leaf := leaseLeaf }, hline 1024,
      by decide +kernel, by decide +kernel, by decide +kernel, by decide +kernel, ?_, by decide +kernel, by decide +kernel, rfl, rfl, by decide +kernel, rfl, fun _ => by decide +kernel, by decide +kernel⟩⟩
  cases own
  · exact (by decide +kernel : leafR leaseLeaf = true ∧ min 3 (leafLcap leaseLeaf) ≠ 0 ∧ leaseLen (withLeaf leaseLeaf (atHomes (.nop u) f8)).leaseL1 (min 3 (leafLcap leaseLeaf)) ≠ some 0)
  · exact (by decide +kernel : leafW leaseLeaf = true ∧ leafLock leaseLeaf = false ∧ sealedPage (withLeaf leaseLeaf (atHomes (.nop u) f8)).mem 1 (pageOfLn 1024) = false ∧ leafClass leaseLeaf ≠ 0)

-- The host, links, translation and placement (08 R206; 17; 18; 19)

def hostState : State := mapped 1 (ready (.nop u) 3#32)
/-- A command with row 3 outstanding at device 7. -/
def rowState : State :=
  let s := commandState (.scatf u 16#7 36#7 20#7 false 1#3 tail0)
  { s with cmds := [{ newCmd s (.scatf u 16#7 36#7 20#7 false 1#3 tail0) .gather 3#32 with id := 5, st := .ran, remote := [(3, 7)] }], clock := { s.clock with ns := 100_000_000 } }
theorem fabric_of {s : State} {ea : Nat} {va : DWord} {e : DWord} {lv : Nat} (h : canonical va = true) (k : (agentLeaf s ea (lnOf va)).1 = .leaf e lv) (r : leafR e = true) :
    fabricCheck s ea va false = .ok s e := by
  unfold fabricCheck
  rw [show agentLeaf s ea (lnOf va) = (.leaf e lv, (agentLeaf s ea (lnOf va)).2) from Prod.ext k rfl]
  simp [h, r]
theorem witness_HostTraffic :
    (∃ (s : State) (pa ea ln : Nat) (h : HomeLine), Config.hostBase ≤ pa / 128 * 128 ∧ pa / 128 * 128 < Config.hostTop ∧ fencedHost s = false ∧ lineOfPa s (pa / 128 * 128) = some (ea, ln) ∧
      homeFind s.mem ea ln = some h ∧ locked s ea ln = false ∧ h.owner = none ∧ h.line.valid = BitVec.allOnes 128) ∧
    (∃ (s : State) (off size pa : Nat), pa = s.adeol.hdm.toNat / 2 ^ 30 % 2 ^ 22 * 2 ^ 30 + off ∧ size ≠ 0 ∧ pa % 128 + size ≤ 128 ∧ off + size ≤ s.adeol.hdm.toNat % 2 ^ 16 * 2 ^ 30 ∧ fencedHost s = false ∧
      s.adeol.astbase.getLsbD 0 = false) ∧
    (∃ (s : State) (pa : Nat), fencedHost s = false ∧ pa / 128 * 128 < Config.hostTop ∧ s.mem.hostHeld.contains (pa / 128) = true) ∧
    (∃ (s : State) (pa : Nat), fencedHost s = false ∧ pa / 128 * 128 < Config.hostTop ∧ s.mem.hostHeld.contains (pa / 128) = false ∧ s.mem.hostWait.any (fun x => x.1 == pa / 128) = false ∧
      Config.hostBase ≤ pa / 128 * 128 ∧ lineOfPa s (pa / 128 * 128) = none) ∧
    (∃ (s : State) (asid va size : Nat) (h : HomeLine) (e : DWord), 0 < size ∧ offOf (BitVec.ofNat 64 va) + size ≤ 128 ∧
      fabricCheck s (eaOf (BitVec.ofNat 14 asid) (BitVec.ofNat 64 va)) (BitVec.ofNat 64 va) false = .ok s e ∧ s.mem.hostHeld = [] ∧ s.links.down = [] ∧
      locked s (eaOf (BitVec.ofNat 14 asid) (BitVec.ofNat 64 va)) (lnOf (BitVec.ofNat 64 va)) = false ∧
      homeFind s.mem (eaOf (BitVec.ofNat 14 asid) (BitVec.ofNat 64 va)) (lnOf (BitVec.ofNat 64 va)) = some h ∧ h.line.valid = BitVec.allOnes 128 ∧ h.owner = none ∧ h.undo = []) ∧
    (∃ va : Nat, canonical (BitVec.ofNat 64 va) = false) ∧
    ∃ (s : State) (id pos : Nat) (c : Cmd), s.cmds.find? (fun y => y.id == id && y.remote.any (fun x => x.1 == pos)) = some c ∧ ∀ p d a b lk t, c.instr ≠ .gathf p d a b lk t := by
  refine ⟨⟨hostState, Config.hostBase + 127, 1, 1024, hline 1024, by decide +kernel, by decide +kernel, by decide +kernel, by decide +kernel, by decide +kernel, by decide +kernel, rfl, by decide +kernel⟩,
    ⟨{ State.reset with adeol := { State.reset.adeol with hdm := 1#64 } }, 2 ^ 30 - 1, 1, 2 ^ 30 - 1, by decide +kernel, by decide, by decide, by decide +kernel, by decide +kernel, by decide +kernel⟩,
    ⟨hostState.modMem (fun m => { m with hostHeld := [Config.hostBase / 128] }), Config.hostBase, by decide +kernel, by decide +kernel, by decide +kernel⟩,
    ⟨State.reset, Config.hostBase, by decide +kernel, by decide +kernel, by decide +kernel, by decide +kernel, by decide +kernel, by decide +kernel⟩,
    ⟨hostState, 1, 0x20000, 128, hline 1024, 0x21F#64, by decide, by decide +kernel, fabric_of (e := 0x21F#64) (lv := 2) (by decide +kernel) (by decide +kernel) (by decide), by decide +kernel, rfl, by decide +kernel, by decide +kernel, by decide +kernel, rfl, rfl⟩,
    ⟨2 ^ 57, by decide +kernel⟩, ?_⟩
  have h : (rowState.cmds.head?.any (fun c => rowState.cmds.find? (fun y => y.id == 5 && y.remote.any (fun x => x.1 == 3)) == some c && c.instr == .scatf u 16#7 36#7 20#7 false 1#3 tail0)) = true := by
    decide +kernel
  obtain ⟨c, _, h⟩ := (Option.any_eq_true _ _).1 h
  simp only [Bool.and_eq_true, beq_iff_eq] at h
  exact ⟨rowState, 5, 3, c, h.1, fun p d a b lk t e => by rw [h.2] at e; cases e⟩

/-- `rowState`, its row asked for at 0 ns. -/
def askedState : State := { rowState with cmds := rowState.cmds.map (fun c => { c with asked := 0 }) }
theorem witness_Links : (∃ s, fencedHost s = false) ∧ (∃ s party, overdue s party = false) ∧
    (∃ s : State, fencedHost s = false ∧ ∃ x ∈ s.mem.hostWait, x.1 < dieKey 0 ∧ x.2 + max 1 (s.adeol.isolto.toNat % 2 ^ 32) * 1000 ≤ s.clock.ns) ∧
    (∃ s : State, ∃ d < 4, fencedDie s d = false ∧ ∃ x ∈ s.mem.hostWait, x.1 = dieKey d ∧ x.2 + max 1 (s.adeol.isolto.toNat % 2 ^ 32) * 1000 ≤ s.clock.ns) ∧
    ∃ (s : State) (n : Nat), n ∉ s.deadDevices ∧ ∃ c ∈ s.cmds, ∃ x ∈ c.remote, x.2 = n ∧ c.asked + max 1 (s.adeol.isolto.toNat % 2 ^ 32) * 1000 ≤ s.clock.ns :=
  let late (k : Nat) : State := { State.reset.modMem (fun m => { m with hostWait := [(k, 0)] }) with clock := { State.reset.clock with ns := 200_000 } }
  ⟨⟨State.reset, by decide +kernel⟩, ⟨State.reset, .host, by decide +kernel⟩, ⟨late 0, by decide +kernel, (0, 0), by decide +kernel, by decide +kernel, by decide +kernel⟩,
   ⟨late (dieKey 3), 3, by decide, by decide +kernel, (dieKey 3, 0), by decide +kernel, rfl, by decide +kernel⟩,
   askedState, 7, by decide +kernel, by
     have h : (askedState.cmds.any (fun c => c.remote.any (fun x => x.2 == 7 && decide (c.asked + max 1 (askedState.adeol.isolto.toNat % 2 ^ 32) * 1000 ≤ askedState.clock.ns)))) = true := by decide +kernel
     simp only [List.any_eq_true, Bool.and_eq_true, beq_iff_eq, decide_eq_true_eq] at h
     exact h⟩

/-- One command of each kind at the head of the queue, with translation on. -/
theorem witness_TranslationQueue : (∀ op ∈ [0, 1, 2, 3, 4, 5, 6, 255], ∀ bad : Bool, ∃ (s : State) (c : TcqEntry), s.mem.commits = [] ∧ s.links.down = [] ∧ s.mem.moves = [] ∧ tcqHead (takeWrites s) = some c ∧ c.op = op ∧ (takeWrites s).adeol.astbase.getLsbD 0 = true ∧ c.bad = bad) ∧
    (∃ (s : State) (c : TcqEntry), tcqHead (takeWrites s) = some c ∧ (takeWrites s).adeol.astbase.getLsbD 0 = false) ∧
    (∃ (s : State) (c : TcqEntry), tcqHead (takeWrites s) = some c ∧ (takeWrites s).adeol.astbase.getLsbD 0 = true ∧ c.bad = false ∧ c.op = 4 ∧ migrateMoves (dropEntries (takeWrites s) c.range) c = none) ∧
    (∀ m : Bool, ∃ s : State, s.mem.moves = [] ∧ s.due.place ≤ s.clock.ns ∧ s.adeol.place.getLsbD 63 = m) := by
  have a : ∀ op ∈ [0, 1, 2, 3, 4, 5, 6, 255], ∀ bad : Bool, (let s := mapped (op + if bad then 2048 else 0) (ready (.nop u) 3#32)
      (tcqHead (takeWrites s)).any (fun c => c.op == op && (takeWrites s).adeol.astbase.getLsbD 0 && c.bad == bad)) = true := by decide +kernel
  have b : ((tcqHead (takeWrites (mapped 1 (ready (.nop u) 3#32)))).any (fun _ => true)) = true := by decide +kernel
  have d : ((tcqHead (takeWrites { hostState with adeol := { hostState.adeol with astbase := 0#64 } })).any (fun _ => true)) = true := by decide +kernel
  have e : ((tcqHead (takeWrites (mapped 4 (ready (.nop u) 3#32)))).any (fun c => !c.bad && c.op == 4 && migrateMoves (dropEntries (takeWrites (mapped 4 (ready (.nop u) 3#32))) c.range) c == none)) = true := by decide +kernel
  refine ⟨fun op ho bad => ?_, ?_, ?_, fun m => ?_⟩
  · obtain ⟨c, h, k⟩ := (Option.any_eq_true _ _).1 (a op ho bad)
    simp only [Bool.and_eq_true, beq_iff_eq] at k
    exact ⟨_, c, rfl, rfl, rfl, h, k.1.1, k.1.2, k.2⟩
  · obtain ⟨c, h, _⟩ := (Option.any_eq_true _ _).1 d
    exact ⟨_, c, h, by decide +kernel⟩
  · obtain ⟨c, h, k⟩ := (Option.any_eq_true _ _).1 e
    simp only [Bool.and_eq_true, beq_iff_eq, Bool.not_eq_true'] at k
    exact ⟨_, c, h, by decide +kernel, k.1.1, k.1.2, k.2⟩
  · cases m
    · exact ⟨{ State.reset with clock := { State.reset.clock with ns := 2_000_000 }, adeol := { State.reset.adeol with place := 0#64 } }, rfl, by decide +kernel, by decide +kernel⟩
    · exact ⟨{ State.reset with clock := { State.reset.clock with ns := 2_000_000 }, adeol := { State.reset.adeol with place := 1#64 <<< 63 } }, rfl, by decide +kernel, by decide +kernel⟩

/-- A team that stops, its context record and its image at their homes. -/
def stopping : State :=
  let s := lanesIn .eligible id .resident
  (s.modTeam 0 (fun t => { t with st := .suspending, share := 128, tiles := 1 })).modMem (fun m => { m with home := m.home ++ (List.range 16).map (fun k => hline (4128 + k)) })
/-- A team that waits in the queue of die 3 since time 0. -/
def queuedTeam : State := let s := (ready (.nop u) 3#32).modTeam 0 (fun t => { t with st := .pending, qdie := 3, since := 0 }); { s with clock := { s.clock with ns := 20000 }, spindles := [] }
/-- A launch that waits for the word at 0x20008 to reach 0. -/
def dependent : State := { hostState with launches := hostState.launches.map (fun x => { x with st := .waiting, sat := [true, false], info := { x.info with deps := [(0#64, 0), (0x20008#64, 0)] } }) }
theorem witness_Distribution : (∃ s : State, s.distNext ≤ s.clock.ns) ∧ (∃ s v : State, (s.team 0).st = .suspending ∧ stopsLate s 0 = false ∧ suspendTeam s 0 = .ok v ()) ∧
    (∃ s, waitsForPlace s 0 = true ∧ (s.team 0).since + 20000 ≤ s.clock.ns ∧ bestDie s (s.team 0).part ≠ (s.team 0).qdie) ∧ (∃ s : State, 0 ∈ s.distMsgs ∧ 0 < s.teams.length ∧ messageBefore s 0 = false) ∧
    (∃ (s : State) (n d v : Nat) (a : DWord) (h : HomeLine), (s.launch n).st = .waiting ∧ (s.launch n).sat[d]? = some false ∧ (s.launch n).abandoned = false ∧ (s.part (s.launch n).part).haltReason = 0 ∧
      (s.launch n).info.deps[d]? = some (a, v) ∧ wordAccess s (s.launch n).part a false = .usable ∧ s.mem.hostHeld = [] ∧ s.links.down = [] ∧ locked s (eaOf (s.part (s.launch n).part).asid a) (lnOf a) = false ∧
      homeFind s.mem (eaOf (s.part (s.launch n).part).asid a) (lnOf a) = some h ∧ h.owner = none ∧ h.undo = [] ∧ marksHit h.line (byteMask (offOf a) 8) = 0#4 ∧ v ≤ lineBytesGet h.line.data (offOf a) 8) ∧
    ∃ s : State, 0 < s.teams.length ∧ teamDone s 0 = true := by
  refine ⟨⟨State.reset, by decide +kernel⟩, ?_, ⟨queuedTeam, by decide +kernel, by decide +kernel, by decide +kernel⟩,
    ⟨{ ready (.nop u) 3#32 with distMsgs := [0] }, by decide +kernel, by decide +kernel, by decide +kernel⟩,
    ⟨dependent, 0, 1, 0, 0x20008#64, hline 1024, by decide +kernel, by decide +kernel, by decide +kernel, by decide +kernel, by decide +kernel, by decide +kernel, by decide +kernel, by decide +kernel,
      by decide +kernel, rfl, rfl, by decide +kernel, by decide +kernel⟩,
    readyWith (.nop u) 3#32 (fun sp => { sp with st := .ended }), by decide +kernel, by decide +kernel⟩
  obtain ⟨v, _, h, _⟩ := got_of (f := fun _ _ => true) (show gotB (suspendTeam stopping 0) (fun _ _ => true) = true by decide +kernel)
  exact ⟨stopping, v, by decide +kernel, by decide +kernel, h⟩

-- The device and its controller (21; 22)

def timed (ns : Nat) (s : State) : State := { s with clock := { s.clock with ns := ns } }
def scanState : State :=
  let s := timed 1_000_000_000 State.reset
  { s with adeol := { s.adeol with scanctl := (1#64 <<< 63) ||| 100#64, scanrec := 0x20_0000#64 } }
theorem witness_DeviceEvents :
    (∃ pa : Nat, pa < Config.hbmTop) ∧ (∃ (s : State), l1Find s.mem 0 1 1024 ≠ none) ∧ (∃ (s : State), homeFind s.mem 1 1024 ≠ none) ∧ (∃ (s : State), bufFind s.mem 1 1024 ≠ none) ∧
    (∃ (s : State) (i reg : Nat), i < s.spindles.length ∧ (s.spindle i).st = .resident ∧ reg < (s.spindle i).vcount) ∧ (∃ (s : State), s.cmds ≠ []) ∧
    (∃ (s : State) (k rank line : Nat), (s.team k).st.holds = true ∧ rank < (s.team k).cores ∧ 128 * line < (s.team k).share ∧ line < 8 * (s.team k).tiles) ∧
    (∃ s : State, s.due.energy ≤ s.clock.ns) ∧ (∃ s : State, 1250 ≤ s.clock.mhz) ∧ (∃ s : State, s.clock.mhz ≤ 3750) ∧ (∃ s : State, s.due.minute ≤ s.clock.ns) ∧
    (∃ s : State, s.due.commit ≤ s.clock.ns ∧ (s.nvm.pend.map (·.1)).Nodup) ∧
    (∃ (s : State) (c : Nat), nextScan s = some c ∧ s.adeol.scanctl.getLsbD 63 = true ∧ baseOf s.adeol.scanrec ≠ 0 ∧ s.scan.core = none ∧ s.scan.began + scanPeriod s ≤ s.clock.ns) ∧
    ∃ (s : State) (c : Nat), s.scan.core = some c ∧ coreFree s c = true ∧ s.scan.held + s.adeol.scanctl.toNat % 2 ^ 32 * 1_000_000 ≤ s.clock.ns :=
  ⟨⟨0, by decide⟩, ⟨dirtyState (.nop u), by decide +kernel⟩, ⟨dirtyState (.nop u), by decide +kernel⟩,
   ⟨State.reset.modMem (fun m => { m with buf := [{ agent := 0, ea := 1, ln := 1024, line := Line.empty }] }), by decide +kernel⟩,
   ⟨ready (.nop u) 3#32, 0, 127, by decide +kernel, by decide +kernel, by decide +kernel⟩, ⟨rowState, by decide +kernel⟩, ⟨ready (.nop u) 3#32, 0, 0, 2047, by decide +kernel, by decide +kernel, by decide +kernel, by decide +kernel⟩,
   ⟨timed 1000 State.reset, by decide +kernel⟩, ⟨State.reset, by decide +kernel⟩, ⟨{ State.reset with clock := { State.reset.clock with mhz := 3750 } }, by decide +kernel⟩,
   ⟨timed 60_000_000_000 State.reset, by decide +kernel⟩, ⟨timed 600_000_000_000 State.reset, by decide +kernel, by decide +kernel⟩,
   ⟨scanState, 0, by decide +kernel, by decide +kernel, by decide +kernel, by decide +kernel, by decide +kernel⟩,
   { scanState with scan := { scanState.scan with core := some 191 } }, 191, rfl, by decide +kernel, by decide +kernel⟩

theorem witness_ControllerCommands :
    (∃ (s : State) (pnum : Nat) (pavs : List Nat), pnum < 2 ^ 16 ∧ partNum s pnum = none ∧ pavs ≠ [] ∧ pavs.Nodup ∧ ∀ v ∈ pavs, v < 24 ∧ ∀ x ∈ s.parts, v ∉ x.pavs) ∧
    (∃ (s : State) (part asid p : Nat), partNum s part = some p ∧ (s.part p).started = false ∧ asid < 2 ^ 14 ∧ s.adeol.astbase.getLsbD 0 = false) ∧
    (∃ (s : State) (k : Nat), k < s.teams.length ∧ (s.team k).st.over = false) ∧
    (∃ (s : State) (part p : Nat), partNum s part = some p ∧ (s.part p).started = true ∧ (s.part p).haltReason = 0) ∧
    (∀ n ∈ [0, 2 ^ 20 - 1, 2 ^ 20], ∃ s : State, s.nvm.recovery = false ∧ s.nvm.attidx = n) ∧
    ∃ v : DWord, v &&& ~~~0x000F_FFFF_FFFF_F001#64 = 0#64 ∧ v.getLsbD 0 = true ∧ v &&& 0x000F_FFFF_FFFF_F000#64 ≠ 0#64 :=
  ⟨⟨ready (.nop u) 3#32, 65535, [1, 23], by decide, by decide +kernel, by decide, by decide, by decide +kernel⟩,
   ⟨(ready (.nop u) 3#32).modPart 0 (fun q => { q with started := false }), 1, 16383, 0, by decide +kernel, by decide +kernel, by decide, by decide +kernel⟩,
   ⟨ready (.nop u) 3#32, 0, by decide +kernel, by decide +kernel⟩, ⟨ready (.nop u) 3#32, 1, 0, by decide +kernel, by decide +kernel, by decide +kernel⟩,
   fun n _ => ⟨{ State.reset with nvm := { State.reset.nvm with attidx := n } }, (by decide +kernel : State.reset.nvm.recovery = false), rfl⟩, 0x1001#64, by decide⟩

theorem witness_Resets : (∃ s : State, s.nvm.recovery = true) ∧ (∃ s : State, s.nvm.recovery = false ∧ (∀ p ∈ s.parts, p.started = false) ∧ measureImage s.nvm.image = s.nvm.measurement) ∧
    ∃ image : FirmwareImage, image.ms ≤ 5000 :=
  ⟨⟨{ State.reset with nvm := { State.reset.nvm with recovery := true } }, rfl⟩,
   ⟨{ State.reset with nvm := { State.reset.nvm with measurement := measureImage State.reset.nvm.image } }, by decide +kernel, fun _ hp => (List.not_mem_nil hp).elim, rfl⟩,
   State.reset.nvm.image, by decide +kernel⟩

-- Single instructions whose results the manual states

def gives (i : Instr) (s : State) (f : Spindle → Bool) : Bool := nextB (exec i s) (fun t => f (t.spindle 0))

/-- 02 R41, the example: 2^-100 by 2^-30 with FTZ 0 gives the subnormal 2^-130 and no flag. -/
theorem test_fmul_subnormal : gives (.fmul u 4#7 5#7 6#7) (readyWith (.fmul u 4#7 5#7 6#7) 1#32 (fun sp => (sp.setV 5 0 0x0D80_0000#32).setV 6 0 0x3080_0000#32))
    (fun sp => sp.getV 4 0 == 0x0008_0000#32 && (sp.lane 0).fpflags == 0#6) = true := by decide +kernel
/-- The same with FTZ 1 gives +0 and sets UF and NX. -/
theorem test_fmul_flush : gives (.fmul u 4#7 5#7 6#7) (readyWith (.fmul u 4#7 5#7 6#7) 1#32 (fun sp => { (sp.setV 5 0 0x0D80_0000#32).setV 6 0 0x3080_0000#32 with ftz := true }))
    (fun sp => sp.getV 4 0 == 0#32 && (sp.lane 0).fpflags == fUf ||| fNx) = true := by decide +kernel

/-- 02 R55, the example: lane 0 of SRSEED 1 converts 1 + 2^-9 to BF16. -/
def srConvert : Instr := .fcvt u 4#7 5#7 0#4 3#4 4#3
def srState (st : Word) : State := readyWith srConvert 1#32 (fun sp => { sp.setV 5 0 0x3F80_4000#32 with lanes := sp.lanes.map (fun y => { y with rng := st }) })
theorem test_fcvt_sr_up : gives srConvert (srState 1#32) (fun sp => sp.getV 4 0 == 0x3F81#32 && (sp.lane 0).rng == 0x0004_2021#32 && (sp.lane 0).fpflags == fNx) = true := by decide +kernel
theorem test_fcvt_sr_down : gives srConvert (srState 0x0408_0601#32) (fun sp => sp.getV 4 0 == 0x3F80#32 && (sp.lane 0).rng == 0x9DCC_A8C5#32 && (sp.lane 0).fpflags == fNx) = true := by decide +kernel

/-- 06 R142, the example: `MXQ.E4M3 v8, v4, s2`, then `MXDQ.MX8.F32 v9, v8, s2`. -/
def mxqE : Instr := .mxq u 8#7 4#7 2#7 1#8 0#3
theorem test_mxq : gives mxqE (readyWith mxqE 0xFFFF_FFFF#32 (fun sp => ((sp.setV 4 0 0x447A_0000#32).setV 4 1 0xC040_0000#32).setV 4 2 0x3DCC_CCCD#32))
    (fun sp => sp.getS 2 == 0x180#32 && sp.getV 8 0 == 0x7E#32 && sp.getV 8 1 == 0xBC#32 && sp.getV 8 2 == 0x15#32 && sp.getV 8 31 == 0#32 &&
      (sp.lane 0).fpflags == fSat ||| fNx && (sp.lane 1).fpflags == 0#6 && (sp.lane 2).fpflags == fNx) = true := by decide +kernel
def mxdqE : Instr := .mxdq u 9#7 8#7 2#7 8#4 0#2 0#3
theorem test_mxdq : gives mxdqE (readyWith mxdqE 0xFFFF_FFFF#32 (fun sp => (((sp.setV 8 0 0x7E#32).setV 8 1 0xBC#32).setV 8 2 0x15#32).setS 2 0x180#32))
    (fun sp => sp.getV 9 0 == 0x4460_0000#32 && sp.getV 9 1 == 0xC040_0000#32 && sp.getV 9 2 == 0x3DD0_0000#32 && sp.getV 9 3 == 0#32) = true := by decide +kernel

/-- 00 R10 to R12, the example: `IADD v1, v1, v2` under `?p3`, true in lanes 4 and 9 of a fragment with lanes 0, 4 and 9. -/
def guardP3 : Pfx := { c := false, g := 3#3 }
theorem test_guard : gives (.iadd guardP3 1#7 1#7 2#7) (readyWith (.iadd guardP3 1#7 1#7 2#7) 0x211#32 (fun sp =>
      ([0, 4, 9].foldl (fun (sp : Spindle) l => (sp.setV 1 l 0xFFFF_FFFF#32).setV 2 l 3#32) sp).setPred 3 0x211#32 0x210#32))
    (fun sp => sp.getV 1 0 == 0xFFFF_FFFF#32 && sp.getV 1 4 == 2#32 && sp.getV 1 9 == 2#32) = true := by decide +kernel

/-- 05, the worked example: the branch at 0x0012_000C with offset 2 goes to 0x0012_0024. -/
theorem test_bra : (match transferTarget { ready (.bra u 2#21) 1#32 with cur := { (ready (.bra u 2#21) 1#32).cur with pc := 0x0012_0014#64 } } (.bra u 2#21) with
    | some (t, _) => t 0 == 0x0012_0024#64
    | none => false) = true := by decide +kernel

/-- 01 R38, the example: v37 of a spindle whose chunk 2 is 0x52, at REGARENA 0x0000_7F40_0000_0040. -/
theorem test_register_address : (((readyWith (.nop u) 1#32 (fun sp => { sp with chunks := [0x31, 0x07, 0x52] })).modTeam 0 (fun t => { t with regarena := 0x0000_7F40_0000_0040#64 })).vectorVa 0 37 +
    BitVec.ofNat 64 (4 * 9)) = 0x0000_7F40_0002_92A4#64 := by decide +kernel

-- Further clauses: exits, refused accesses, barriers and system registers (05 R122; 07 R148, R178, R179; 11 R265; 14 R336-R339)

/-- A single-lane issue whose spindle's ordered threads have the domain word at 0x20000, on a device-coherent page, NEXT being 1024. -/
def orderedState (i : Instr) (f : Lane → Lane) : State :=
  ((readyWith i 1#32 (fun sp => { sp with domain := 0x20000#64, lanes := (enumFrom 0 sp.lanes).map (fun x => if x.1 = 0 then f { x.2 with spec := true } else x.2) })).modMem (fun m =>
    { m with home := m.home ++ [hline 1024], rights := m.rights.map (fun x => { x with leaf := 0x22F#64 }) }))
def domainB (s : State) : Bool :=
  canonical (s.spindle s.cur.sp).domain &&
    (rightsFind s.mem (s.who s.cur.sp).core (eaOf (s.who s.cur.sp).asid (s.spindle s.cur.sp).domain) (pageOf (s.spindle s.cur.sp).domain)).any (fun x => leafClass x.leaf != 0)
theorem domain_of {s : State} (h : domainB s = true) : DomainGood s := by
  simp only [domainB, Bool.and_eq_true, Option.any_eq_true, bne_iff_ne] at h
  exact ⟨h.1, h.2⟩
def exitTx (n : Nat) (y : Lane) : Lane := { y with tx := true, txn := some openTx, seq := BitVec.ofNat 32 n }
theorem witness_Exits_handler : ∃ s, Issues (.exit u) s ∧ (s.spindle s.cur.sp).trapped ≠ none ∧ (s.spindle s.cur.sp).team < s.teams.length ∧ (s.team (s.spindle s.cur.sp).team).st.over = false :=
  ⟨handlerState (.exit u), issues_of _ _ (by decide +kernel), by decide +kernel, by decide +kernel, by decide +kernel⟩
theorem witness_Exits_ordered : ∀ b : Bool, ∃ (s s1 : State) (next : Word), Issues (.exit u) s ∧ (s.spindle s.cur.sp).trapped = none ∧ (s.spindle s.cur.sp).st ≠ .ended ∧ s.executing (.exit u) = laneBit 0 ∧
    (s.lane s.cur.sp 0).spec = true ∧ (s.lane s.cur.sp 0).tx = true ∧ DomainGood s ∧ domainNext (s.advance 1) s.cur.sp (s.spindle s.cur.sp).domain = .ok s1 (next, 0#4) ∧
    behind (s.lane s.cur.sp 0).seq next = b := by
  have h : ∀ b : Bool, let s := orderedState (.exit u) (exitTx (if b then 1023 else 1024))
      (issuesB (.exit u) s && (s.spindle s.cur.sp).trapped.isNone && (s.spindle s.cur.sp).st != .ended && s.executing (.exit u) == laneBit 0 && (s.lane s.cur.sp 0).spec && (s.lane s.cur.sp 0).tx && domainB s &&
        gotB (domainNext (s.advance 1) s.cur.sp (s.spindle s.cur.sp).domain) (fun _ x => x.2 == 0#4 && behind (s.lane s.cur.sp 0).seq x.1 == b)) = true := by decide +kernel
  intro b
  have h := h b
  simp only [Bool.and_eq_true, Option.isNone_iff_eq_none, bne_iff_ne, beq_iff_eq] at h
  obtain ⟨⟨⟨⟨⟨⟨⟨h1, h2⟩, h3⟩, h4⟩, h5⟩, h6⟩, h7⟩, h8⟩ := h
  obtain ⟨s1, ⟨next, hit⟩, e, k⟩ := got_of h8
  simp only [Bool.and_eq_true, beq_iff_eq] at k
  obtain ⟨rfl, k⟩ := k
  exact ⟨_, s1, next, issues_of _ _ h1, h2, h3, h4, h5, h6, domain_of h7, e, k⟩
theorem witness_Exits_serial : ∃ (s s1 : State), Issues (.exit u) s ∧ (s.spindle s.cur.sp).trapped = none ∧ s.executing (.exit u) = laneBit 0 ∧ (s.lane s.cur.sp 0).spec = true ∧
    (s.lane s.cur.sp 0).tx = false ∧ (s.lane s.cur.sp 0).serial = true ∧
    bumpNext ((coreRelease (s.advance 1) (s.spindle s.cur.sp).core).modLane s.cur.sp 0 (fun y => { y with pc := s.cur.pc })) s.cur.sp 0 = .ok s1 () := by
  let s := orderedState (.exit u) (fun y => { y with serial := true })
  obtain ⟨s1, _, h, _⟩ := got_of (f := fun _ _ => true) (show gotB (bumpNext ((coreRelease (s.advance 1) (s.spindle s.cur.sp).core).modLane s.cur.sp 0 (fun y => { y with pc := s.cur.pc })) s.cur.sp 0)
    (fun _ _ => true) = true by decide +kernel)
  exact ⟨s, s1, issues_of _ _ (by decide +kernel), by decide +kernel, by decide +kernel, by decide +kernel, by decide +kernel, by decide +kernel, h⟩

/-- A single-lane access at the address in d4, of a lane in a transaction or not, on pages of the given leaf. -/
def refusedState (i : Instr) (va : Nat) (leaf : DWord) (tx : Bool) : State :=
  withLeaf leaf (readyWith i 1#32 (fun sp => { sp.setD 4 0 (BitVec.ofNat 64 va) with lanes := sp.lanes.map (fun y => { y with tx := tx, txn := if tx then some openTx else none }) }))
/-- What the checks refuse: nothing, a misaligned address, one of no canonical form, a page without the right, and a non-coherent page in a transaction. -/
def refusedB (s : State) (va : DWord) (n : Nat) (nd : Need) (e : DWord) : Nat → Bool
  | 0 => va.toNat % n != 0
  | 1 => va.toNat % n == 0 && !canonical va
  | 2 => va.toNat % n == 0 && canonical va && (rightsFind s.mem s.me.core (s.eaAt va) (pageOf va)).any (fun x => x.leaf == e) && ((nd.r && !leafR e) || (nd.w && !leafW e))
  | _ => allowedB s va n nd e && (s.lane s.cur.sp 0).tx && leafClass e == 0
theorem refused_of {s : State} {va : DWord} {n : Nat} {nd : Need} {e : DWord} {k : Nat} (h : refusedB s va n nd e k = true) :
    ∃ c r, Refused s va n nd (s.lane s.cur.sp 0).tx c r := by
  unfold refusedB at h
  split at h
  · exact ⟨_, _, .misaligned (bne_iff_ne.1 h)⟩
  · simp only [Bool.and_eq_true, beq_iff_eq, Bool.not_eq_true'] at h
    exact ⟨_, _, .form h.1 h.2⟩
  · simp only [Bool.and_eq_true, beq_iff_eq, Bool.or_eq_true, Bool.not_eq_true', Option.any_eq_true] at h
    obtain ⟨⟨⟨h1, h2⟩, x, h3, rfl⟩, h4⟩ := h
    exact ⟨_, _, .rights x h1 h2 h3 (h4.imp id (fun k => ⟨k.1, .inl k.2⟩))⟩
  · simp only [Bool.and_eq_true, beq_iff_eq] at h
    exact ⟨_, _, .noTransaction e (allowed_of h.1.1) h.1.2 h.2⟩
def refusedLeaf (w : Bool) : Nat → DWord
  | 2 => if w then 0x21B#64 else 0x21D#64
  | 3 => 0x20F#64
  | _ => 0x21F#64
def refusedPlace (back : Nat) (k : Nat) : Nat := (if k = 0 then 0x20001 else if k = 1 then 2 ^ 57 else 0x20000) + back
theorem lane0_of {x : LaneMask} {p : Nat → Prop} (h : x = 1#32) (k : p 0) : ∀ l < 32, x.getLsbD l = true → p l := by
  subst h
  intro l hl hx
  have : ∀ l < 32, (1#32 : LaneMask).getLsbD l = true → l = 0 := by decide
  rw [this l hl hx]
  exact k
theorem witness_Loads_refused : ∀ k < 4, ∃ (s : State) (va : Nat → DWord) (cause : Nat → BitVec 8) (rights : Nat → BitVec 16), Issues ld16 s ∧ ChargesFlag s 2 true 1 ∧
    (∀ l, va l = BitVec.ofInt 64 (((s.spindle s.cur.sp).getD 4 l).toInt + (0xFF_FFF0#24 : BitVec 24).toInt)) ∧ CanFault (s.executing ld16) s ∧ s.executing ld16 ≠ 0#32 ∧
    ∀ l < 32, (s.executing ld16).getLsbD l = true → Refused s (va l) 16 needR (s.lane s.cur.sp l).tx (cause l) (rights l) := by
  have b : ∀ k < 4, let s := refusedState ld16 (refusedPlace 16 k) (refusedLeaf false k) (decide (k = 3))
      (issuesB ld16 s && chargesB s 2 true 1 head && faultsB (s.executing ld16) s && s.executing ld16 == 1#32 &&
        refusedB s (BitVec.ofInt 64 (((s.spindle s.cur.sp).getD 4 0).toInt + (0xFF_FFF0#24 : BitVec 24).toInt)) 16 needR (refusedLeaf false k) k) = true := by decide +kernel
  intro k hk
  have h := b k hk
  simp only [Bool.and_eq_true, beq_iff_eq] at h
  obtain ⟨⟨⟨⟨h1, h2⟩, h3⟩, h4⟩, h5⟩ := h
  obtain ⟨c, r, h5⟩ := refused_of h5
  exact ⟨_, _, fun _ => c, fun _ => r, issues_of _ _ h1, charges_of head h2, fun _ => rfl, faults_of _ _ h3, by rw [h4]; decide, lane0_of h4 h5⟩
theorem witness_Stores_refused : ∀ k < 4, ∃ (s : State) (va : Nat → DWord) (cause : Nat → BitVec 8) (rights : Nat → BitVec 16), Issues st8 s ∧
    (∀ l, va l = BitVec.ofInt 64 (((s.spindle s.cur.sp).getD 4 l).toInt + (8#24 : BitVec 24).toInt)) ∧ CanFault (s.executing st8) s ∧ s.executing st8 ≠ 0#32 ∧
    ∀ l < 32, (s.executing st8).getLsbD l = true → Refused s (va l) 8 needW (s.lane s.cur.sp l).tx (cause l) (rights l) := by
  have b : ∀ k < 4, let s := refusedState st8 (refusedPlace 0 k) (refusedLeaf true k) (decide (k = 3))
      (issuesB st8 s && faultsB (s.executing st8) s && s.executing st8 == 1#32 &&
        refusedB s (BitVec.ofInt 64 (((s.spindle s.cur.sp).getD 4 0).toInt + (8#24 : BitVec 24).toInt)) 8 needW (refusedLeaf true k) k) = true := by decide +kernel
  intro k hk
  have h := b k hk
  simp only [Bool.and_eq_true, beq_iff_eq] at h
  obtain ⟨⟨⟨h1, h3⟩, h4⟩, h5⟩ := h
  obtain ⟨c, r, h5⟩ := refused_of h5
  exact ⟨_, _, fun _ => c, fun _ => r, issues_of _ _ h1, fun _ => rfl, faults_of _ _ h3, by rw [h4]; decide, lane0_of h4 h5⟩

theorem witness_TeamBarrier_spawned : ∃ s, Issues tb s ∧ 512 ≤ (s.spindle s.cur.sp).idx ∧ CanFault (s.executing tb) s :=
  ⟨readyWith tb 3#32 (fun sp => { sp with idx := 512 }), issues_of _ _ (by decide +kernel), by decide +kernel, faults_of _ _ (by decide +kernel)⟩
/-- Arrivals and waits at a barrier that is not initialised, and an INIT with the counts 0 and 1024 and after an arrival. -/
theorem witness_NamedBarriers_bad : (∀ i ∈ [Instr.nbarArrive u 15#7 6#7, .nbarWait u 15#7 6#7, .nbarArriveWait u 15#7 6#7], ∃ s, (s.nbar (s.spindle s.cur.sp).team 15).init = false ∧ Issues i s ∧ CanFault (s.executing i) s) ∧
    (∀ n ∈ [0, 1024], ∃ s, ((s.spindle s.cur.sp).getS 4).toNat = n ∧ Issues (.nbarInit u 15#7 4#7) s ∧ CanFault (s.executing (.nbarInit u 15#7 4#7)) s) ∧
    ∃ s, (s.nbar (s.spindle s.cur.sp).team 15).arrived ≠ 0 ∧ Issues (.nbarInit u 15#7 4#7) s ∧ CanFault (s.executing (.nbarInit u 15#7 4#7)) s := by
  have a : ∀ i ∈ [Instr.nbarArrive u 15#7 6#7, .nbarWait u 15#7 6#7, .nbarArriveWait u 15#7 6#7], let s := barState i 0 0#64
      (!(s.nbar (s.spindle s.cur.sp).team 15).init && issuesB i s && faultsB (s.executing i) s) = true := by decide +kernel
  have b : ∀ n ∈ [0, 1024], let s := (barState (.nbarInit u 15#7 4#7) 0 0#64).modSp 0 (fun sp => sp.setS 4 (BitVec.ofNat 32 n))
      (((s.spindle s.cur.sp).getS 4).toNat == n && issuesB (.nbarInit u 15#7 4#7) s && faultsB (s.executing (.nbarInit u 15#7 4#7)) s) = true := by decide +kernel
  refine ⟨fun i hi => ?_, fun n hn => ?_, ?_⟩
  · have h := a i hi
    simp only [Bool.and_eq_true, Bool.not_eq_true'] at h
    exact ⟨_, h.1.1, issues_of _ _ h.1.2, faults_of _ _ h.2⟩
  · have h := b n hn
    simp only [Bool.and_eq_true, beq_iff_eq] at h
    exact ⟨_, h.1.1, issues_of _ _ h.1.2, faults_of _ _ h.2⟩
  · let s := (barState (.nbarInit u 15#7 4#7) 2 0#64).setNbar 0 15 { init := true, expected := 2, arrived := 1, bytes := 0#48, phase := false }
    exact ⟨s, by decide +kernel, issues_of _ _ (by decide +kernel), faults_of _ _ (by decide +kernel)⟩
/-- Lanes that wait with their token in s6, and the last arrival. -/
theorem witness_Arrivals_pair : ∃ (s : State), 0 < s.teams.length ∧ 15 < (s.team 0).nbars.length ∧ (s.nbar 0 15).expected ≤ (s.nbar 0 15).arrived + 1 ∧ takesPart s 0 0 ∧ (s.spindle 0).lanes.length = 32 ∧
    (∀ l < 32, (s.lane 0 l).st = .held (.nbar 15 6 false)) ∧ false ≠ !(s.nbar 0 15).phase := by
  let s := (barState (.nop u) 1 0#64).modSp 0 (fun sp => { sp with lanes := sp.lanes.map (fun y => { y with st := .held (.nbar 15 6 false) }) })
  exact ⟨s, by decide +kernel, by decide +kernel, by decide +kernel, ⟨by decide +kernel, by decide +kernel, by decide +kernel⟩, by decide +kernel, by decide +kernel, by decide +kernel⟩

def standsB (i : Instr) (s : State) : Bool :=
  let sp := s.spindle s.cur.sp
  let x := s.execLanes (pfx i)
  decide (s.cur.sp < s.spindles.length) && decide (sp.lanes.length = 32) && x != 0#32 &&
    (lanesOf s.cur.lanes).all (fun l => (sp.lane l).st == .eligible) && wf i && !overVcount i sp.vcount &&
    (!needsPriv i || (lanesOf x).all (fun l => (sp.lane l).priv)) && (!handlerForbidden i || !sp.inHandler)
theorem stands_of (i : Instr) (s : State) (h : standsB i s = true) : Stands i s := by
  simp only [standsB, Bool.and_eq_true, Bool.or_eq_true, decide_eq_true_eq, bne_iff_ne, List.all_eq_true, beq_iff_eq, Bool.not_eq_true', mem_lanesOf] at h
  obtain ⟨⟨⟨⟨⟨⟨⟨h1, h2⟩, h3⟩, h4⟩, h5⟩, h6⟩, h7⟩, h8⟩ := h
  refine ⟨h1, h2, h3, fun l hl he => h4 l ⟨hl, he⟩, h5, h6, fun hn l hl he => ?_, fun hn => ?_⟩
  · rcases h7 with h7 | h7
    · rw [hn] at h7; cases h7
    · exact h7 l ⟨hl, he⟩
  · rcases h8 with h8 | h8
    · rw [hn] at h8; cases h8
    · exact h8
theorem witness_SystemRegisters_bad :
    (∃ s, Issues (.mts u 4#7 true true 0x20#8) s ∧ CanFault (s.executing (.mts u 4#7 true true 0x20#8)) s ∧ sysBad 0x20 ((s.spindle s.cur.sp).getSD 4) = true) ∧
    (∃ s, Stands (.mts u 4#7 false false 0x02#8) s ∧ CanFault (s.executing (.mts u 4#7 false false 0x02#8)) s ∧
      ∀ l < 32, (s.executing (.mts u 4#7 false false 0x02#8)).getLsbD l = true → sysBad 2 ((s.spindle s.cur.sp).getVD false 4 l) = true) ∧
    ∃ s, Issues (.mts u 4#7 true false 0x03#8) s ∧ (s.spindle s.cur.sp).team < s.teams.length ∧ (s.team (s.spindle s.cur.sp).team).part < s.parts.length ∧
      (s.team (s.spindle s.cur.sp).team).launch < s.launches.length ∧ sysBad 0x03 (((s.spindle s.cur.sp).getS 4).setWidth 64) = false :=
  ⟨⟨readyWith (.mts u 4#7 true true 0x20#8) 3#32 (fun sp => sp.setSD 4 (BitVec.allOnes 64)), issues_of _ _ (by decide +kernel), faults_of _ _ (by decide +kernel), by decide +kernel⟩,
   ⟨readyWith (.mts u 4#7 false false 0x02#8) 3#32 (fun sp => (sp.setV 4 0 64#32).setV 4 1 64#32), stands_of _ _ (by decide +kernel), faults_of _ _ (by decide +kernel), by decide +kernel⟩,
   ready (.mts u 4#7 true false 0x03#8) 3#32, issues_of _ _ (by decide +kernel), by decide +kernel, by decide +kernel, by decide +kernel, by decide +kernel⟩
/-- A complement that a predicate register takes. -/
theorem witness_PredicateSeven_other : ∃ s n x, Issues (.icmp u 7#7 4#7 5#7 0#4 false false 7#3 0#2 6#3) s ∧
    predResult (s.spindle s.cur.sp) (s.executing (.icmp u 7#7 4#7 5#7 0#4 false false 7#3 0#2 6#3)) (.icmp u 7#7 4#7 5#7 0#4 false false 7#3 0#2 6#3) = some (n, x) ∧ x.p 7 0 = some true :=
  ⟨ready (.icmp u 7#7 4#7 5#7 0#4 false false 7#3 0#2 6#3) 1#32, 2, _, issues_of _ _ (by decide +kernel), rfl, by decide +kernel⟩
theorem witness_TrapReturn_other : (∃ s, Issues (.eret u) s ∧ (s.spindle s.cur.sp).trapped ≠ none ∧ (s.spindle s.cur.sp).flagsClear = false ∧ s.cur.chained = true) ∧
    (∃ s, Issues (.eret u) s ∧ (s.spindle s.cur.sp).trapped ≠ none ∧ (s.spindle s.cur.sp).flagsClear = false ∧ s.cur.chained = false) ∧
    ∃ s, Issues (.eret u) s ∧ CanFault (s.executing (.eret u)) s := by
  let s := (handlerState (.eret u)).modSp 0 (fun sp => sp.setFlag 11 1#6)
  exact ⟨⟨{ s with cur := { s.cur with chained := true } }, issues_of _ _ (by decide +kernel), by decide +kernel, by decide +kernel, rfl⟩,
    ⟨s, issues_of _ _ (by decide +kernel), by decide +kernel, by decide +kernel, rfl⟩,
    ready (.eret u) 1#32, issues_of _ _ (by decide +kernel), faults_of _ _ (by decide +kernel)⟩

-- Further clauses: gangs, ordered threads, engine commands and commits (08 R186, R193-R202; 11 R256-R261; 14 R328-R339)

def mmaI : Instr := .mma u 6#7 4#7 4#7 0#4 false false 0#6 tail0
/-- The gang of the spindles with these two indexes. -/
def gangOf (a b : Nat) : DWord := BitVec.ofNat 64 (2 * 2 ^ 60 + b * 2 ^ 10 + a)
/-- Spindle 0 issues an `MMA` of a gang of two, whose C is 64 columns wide; spindle 1 of the team has index 1 and the given rank. -/
def gangState (a b rank : Nat) (ls : List Latch) : State :=
  let s := (commandState mmaI).modSp 0 (fun sp => { sp.setSD 6 (BitVec.ofNat 64 (regionWord 128 128 0 64)) with gang := gangOf a b })
  { s with spindles := s.spindles ++ [{ s.spindle 0 with idx := 1, crank := rank }], latches := ls }
def otherMember : LatchMember :=
  { sp := 1, lanes := 3#32, flag := 2, snap := { w0 := 0#32, w1 := 0#32, spidx := 1, pc := placedText, tacc := 0, chained := false, regs := [] }, sregs := [],
    share := { spidx := 1, live := 3#32, b := [], poison := false } }
def otherLatch : Latch :=
  { core := 0, rank := 0, team := 0, gang := gangOf 0 1, w0 := (encode mmaI).getD 0 0#32, w1 := (encode mmaI).getD 1 0#32, instr := mmaI, members := [otherMember], bad := false, saved := false }
def mmaB (s : State) : Bool :=
  let sp := s.spindle s.cur.sp
  issuesB mmaI s && chargesB s 2 false 2 head && decide (2 ≤ gangSize sp.gang) && sp.vpoison.isEmpty &&
    decide ((s.cmds.filter (fun c => c.core == sp.core && c.engine == .matrix && !c.saved)).length < 8) &&
    regionB (s.teamOf s.cur.sp) (sp.getSD 4) && regionB (s.teamOf s.cur.sp) (sp.getSD 6) &&
    decide ((regionOf (sp.getSD 4)).rows = 128 ∧ (regionOf (sp.getSD 4)).cols = mmaACols 0) &&
    decide ((regionOf (sp.getSD 6)).rows = 128 ∧ (regionOf (sp.getSD 6)).cols = mmaCCols 0 (gangSize sp.gang)) && !(regionOf (sp.getSD 4)).overlaps (regionOf (sp.getSD 6))
/-- The hypotheses of the gang's clauses. -/
def GangIssues (s : State) : Prop := Issues mmaI s ∧ ChargesFlag s 2 false 2 ∧ 2 ≤ gangSize (s.spindle s.cur.sp).gang ∧ (s.spindle s.cur.sp).vpoison = [] ∧
  MmaFits s (gangSize (s.spindle s.cur.sp).gang) 6#7 4#7 0#4 false 0#6 tail0 ∧ ¬ QueueFull s (s.spindle s.cur.sp).core .matrix
theorem gang_of {s : State} (h : mmaB s = true) : GangIssues s := by
  simp only [mmaB, Bool.and_eq_true, decide_eq_true_eq, List.isEmpty_iff, Bool.not_eq_true'] at h
  obtain ⟨⟨⟨⟨⟨⟨⟨⟨⟨h1, h2⟩, h3⟩, h4⟩, h5⟩, h6⟩, h7⟩, h8⟩, h9⟩, h10⟩ := h
  exact ⟨issues_of _ _ h1, charges_of head h2, h3, h4, ⟨region_of h6, region_of h7, (fun k => by cases k), h8, h9, h10, (fun k => by cases k), free_bar _⟩, fun q => Nat.lt_irrefl _ (Nat.lt_of_lt_of_le h5 q)⟩
def Clash (s : State) : Prop := ∃ x ∈ s.spindles, x.team = (s.spindle s.cur.sp).team ∧ x.st ≠ .ended ∧ gangNames (s.spindle s.cur.sp).gang x.idx ∧ x.crank ≠ (s.spindle s.cur.sp).crank
theorem witness_EngineCommands_gang :
    (∃ s, GangIssues s ∧ ¬ gangNames (s.spindle s.cur.sp).gang (s.spindle s.cur.sp).idx ∧ CanFault (s.executing mmaI) s) ∧
    (∃ s, GangIssues s ∧ Clash s ∧ CanFault (s.executing mmaI) s) ∧
    (∃ s, GangIssues s ∧ gangNames (s.spindle s.cur.sp).gang (s.spindle s.cur.sp).idx ∧ ¬ Clash s ∧ s.latches = []) ∧
    ∃ s l, GangIssues s ∧ gangNames (s.spindle s.cur.sp).gang (s.spindle s.cur.sp).idx ∧ ¬ Clash s ∧
      (∀ l ∈ s.latches, l.team = (s.spindle s.cur.sp).team → ∀ m ∈ l.members, m.sp ≠ s.cur.sp) ∧ (coreLatches s).filter (fun x => x.team == (s.spindle s.cur.sp).team) = [l] ∧
      l.gang = (s.spindle s.cur.sp).gang ∧ l.bad = false ∧ l.members.length + 1 = gangSize (s.spindle s.cur.sp).gang ∧ l.w0.extractLsb' 0 28 = s.cur.w0.extractLsb' 0 28 ∧ l.w1 = s.cur.w1 := by
  unfold gangNames Clash gangNames
  exact ⟨⟨gangState 2 1 0 [], gang_of (by decide +kernel), by decide +kernel, faults_of _ _ (by decide +kernel)⟩,
    ⟨gangState 0 1 1 [], gang_of (by decide +kernel), by decide +kernel, faults_of _ _ (by decide +kernel)⟩,
    ⟨gangState 0 1 0 [], gang_of (by decide +kernel), by decide +kernel, by decide +kernel, rfl⟩,
    gangState 0 1 0 [otherLatch], otherLatch, gang_of (by decide +kernel), by decide +kernel, by decide +kernel, by decide +kernel, by decide +kernel, by decide +kernel, rfl, by decide +kernel,
    by decide +kernel, by decide +kernel⟩

/-- The instructions that end an ordered thread's transaction, and those that no ordered thread may issue. -/
def orderedEnds : List Instr := [.txb u false 0#21, .txe u, .txa u 127#7]
theorem witness_Transactions_ordered : (∀ i ∈ orderedEnds, ∃ s n c xc fc, Stands i s ∧ orderedAbort i = some (n, c, xc, fc) ∧ s.mem.hostHeld = [] ∧ DomainGood s ∧ (s.spindle s.cur.sp).trapped = none ∧
      (s.spindle s.cur.sp).st ≠ .ended ∧ ∀ l < 32, (s.executing i).getLsbD l = true → (s.lane s.cur.sp l).spec = true ∧ (s.lane s.cur.sp l).tx = true ∧ (s.lane s.cur.sp l).txn = some openTx ∧
        openTx.chkV.Pairwise (fun a b => a.1 < b.1)) ∧
    (∀ i ∈ [Instr.txb u false 0#21, .txe u], ∃ s, Issues i s ∧ CanFault (s.executing i) s ∧ ∀ l < 32, (s.executing i).getLsbD l = true → (s.lane s.cur.sp l).spec = true) ∧
    ∃ s, Stands (.txb u true 0#21) s ∧ (∀ l < 32, (s.executing (.txb u true 0#21)).getLsbD l = true → (s.lane s.cur.sp l).tx = true) ∧ CanFault (s.executing (.txb u true 0#21)) s := by
  have a : ∀ i ∈ orderedEnds, let s := orderedState i (exitTx 1024)
      (standsB i s && (orderedAbort i).isSome && s.mem.hostHeld.isEmpty && domainB s && (s.spindle s.cur.sp).trapped.isNone && (s.spindle s.cur.sp).st != .ended &&
        (lanesOf (s.executing i)).all (fun l => (s.lane s.cur.sp l).spec && (s.lane s.cur.sp l).tx && (s.lane s.cur.sp l).txn == some openTx)) = true := by decide +kernel
  have b : ∀ i ∈ [Instr.txb u false 0#21, .txe u], let s := orderedState i id
      (issuesB i s && faultsB (s.executing i) s && (lanesOf (s.executing i)).all (fun l => (s.lane s.cur.sp l).spec)) = true := by decide +kernel
  refine ⟨fun i hi => ?_, fun i hi => ?_, ?_⟩
  · have h := a i hi
    simp only [Bool.and_eq_true, Option.isSome_iff_exists, List.isEmpty_iff, Option.isNone_iff_eq_none, bne_iff_ne] at h
    obtain ⟨⟨⟨⟨⟨⟨h1, ⟨n, c, xc, fc⟩, h2⟩, h3⟩, h4⟩, h5⟩, h6⟩, h7⟩ := h
    refine ⟨_, n, c, xc, fc, stands_of _ _ h1, h2, h3, domain_of h4, h5, h6, lanes_of (fun l k => ?_) _ h7⟩
    simp only [Bool.and_eq_true, beq_iff_eq] at k
    exact ⟨k.1.1, k.1.2, k.2, by decide⟩
  · have h := b i hi
    simp only [Bool.and_eq_true] at h
    exact ⟨_, issues_of _ _ h.1.1, faults_of _ _ h.1.2, lanes_of (fun l k => k) _ h.2⟩
  · exact ⟨(ready (.txb u true 0#21) 1#32).modLane 0 0 (fun y => { y with tx := true, txn := some openTx }), stands_of _ _ (by decide +kernel), by decide +kernel, faults_of _ _ (by decide +kernel)⟩

/-- A started command, alone on its team's faceplate and scratchpad. -/
def loneCommand (i : Instr) (e : Engine) (sh : List Share) : State :=
  let s := commandState i
  { s with cmds := [{ newCmd s i e 3#32 with id := 5, st := .queued, charges := [(0, 2)], shares := sh }] }
def loneB (s : State) (c : Cmd) : Bool :=
  s.cmds.find? (fun y => y.id == c.id) == some c && startable s c && (s.team c.team).st == .running && decide (c.team < s.teams.length) && (s.team c.team).facePoison.isEmpty &&
    (s.team c.team).scratchPoison.isEmpty && c.scratchOld.isEmpty && c.written.isEmpty && c.remote.isEmpty
theorem lone_of {s : State} {c : Cmd} (h : loneB s c = true) : Starts s c := by
  simp only [loneB, Bool.and_eq_true, beq_iff_eq, decide_eq_true_eq, List.isEmpty_iff] at h
  obtain ⟨⟨⟨⟨⟨⟨⟨⟨h1, h2⟩, h3⟩, h4⟩, h5⟩, h6⟩, h7⟩, h8⟩, h9⟩ := h
  exact ⟨h1, h2, h3, h4, ⟨h5, h6⟩, h7, h8, h9⟩
def oneShare (bad : Bool) : Share := { spidx := 0, live := 3#32, b := [], poison := bad }
def cpyI : Instr := .cpy u 6#7 12#7 10#7 2#2 1#2 2#3 tail0
def cmd5 (s : State) : Cmd := s.cmds.headD (newCmd s (.nop u) .matrix 3#32)
theorem witness_Completions_engines :
    (∃ s c, s.cmds.find? (fun y => y.id == c.id) = some c ∧ startable s c = true ∧ (s.team c.team).st = .running ∧ c.acq = false ∧ ∃ r cause addr, runCmd (startRun s c 0) 0 = .fault r cause addr) ∧
    (∃ s c x, Starts s c ∧ c.instr = .stend u 0#7 0#7 ∧ s.cursor c.core ((cellGet c.kregs 0).toNat % 64) = some x) ∧
    (∃ s c, Starts s c ∧ c.instr = mmaI ∧ (∀ sh ∈ c.shares, sh.poison = false) ∧ (c.region 4#7).rows = 128 ∧ (c.region 6#7).rows = 128 ∧ (c.region 4#7).overlaps (c.region 6#7) = false ∧
      (c.region 4#7).col0 + (c.region 4#7).cols ≤ 256 ∧ (c.region 6#7).col0 + (c.region 6#7).cols ≤ 256 ∧ 4 * (32 * c.shares.length) = (c.region 6#7).width) ∧
    ∃ s c, Starts s c ∧ c.instr = cpyI ∧ (c.region 6#7).col0 + (c.region 6#7).cols ≤ 256 ∧ (shapeOf (c.sd 10)).1 * 4 ≤ (c.region 6#7).width ∧ (shapeOf (c.sd 10)).2.1 ≤ (c.region 6#7).rows ∧
      (shapeOf (c.sd 10)).2.2 = 1 := by
  refine ⟨?_, ?_, ?_, ?_⟩
  · let s := loneCommand mmaI .matrix [oneShare true]
    have h : (loneB s (cmd5 s) && !(cmd5 s).acq) = true := by decide +kernel
    have f : (match runCmd (startRun s (cmd5 s) 0) 0 with
      | .fault _ _ _ => true
      | _ => false) = true := by decide +kernel
    simp only [Bool.and_eq_true, Bool.not_eq_true'] at h
    have k := lone_of h.1
    split at f
    · rename_i r c a e
      exact ⟨s, cmd5 s, k.queued, k.startable, k.running, h.2, r, c, a, e⟩
    · cases f
  · let s := takenAll (loneCommand (.stend u 0#7 0#7) .ple [])
    have h : (s.cursor (cmd5 s).core ((cellGet (cmd5 s).kregs 0).toNat % 64)).isSome = true := by decide +kernel
    obtain ⟨x, h⟩ := Option.isSome_iff_exists.1 h
    exact ⟨s, cmd5 s, x, lone_of (by decide +kernel), by decide +kernel, h⟩
  · let s := loneCommand mmaI .matrix [oneShare false]
    exact ⟨s, cmd5 s, lone_of (by decide +kernel), by decide +kernel, by decide +kernel, by decide +kernel, by decide +kernel, by decide +kernel, by decide +kernel, by decide +kernel, by decide +kernel⟩
  · let s := loneCommand cpyI .copy []
    exact ⟨s, cmd5 s, lone_of (by decide +kernel), by decide +kernel, by decide +kernel, by decide +kernel, by decide +kernel, by decide +kernel⟩

/-- The word at 0x20008 as its home has it, and the same with other bytes. -/
def seen (same : Bool) : TxLine :=
  { ea := 1, ln := 1024, version := 0, mask := 0xF00#128, data := if same then (hline 1024).line.data else BitVec.allOnes 1024 }
/-- The lanes of spindle 0 with transactions, held at `TXE`; lines 1024 and 1025 stand at their homes. -/
def commits (f : Nat → Option Txn) : State :=
  (atHomes (.nop u) f8).modSp 0 (fun sp => { sp with lanes := (enumFrom 0 sp.lanes).map (fun x => match f x.1 with
    | some t => { x.2 with st := .held .txe, tx := true, txn := some t }
    | none => x.2) })
def CommitReady (s : State) (m : LaneMask) : Prop := 0 < s.spindles.length ∧ (s.spindle 0).lanes.length = 32 ∧ m = commitLanes (s.spindle 0) ∧ m ≠ 0#32 ∧ s.active 0 = true ∧
  (s.spindle 0).inHandler = false ∧ waitingCommit s 0 = none
def commitReadyB (s : State) (m : LaneMask) : Bool := decide (0 < s.spindles.length) && decide ((s.spindle 0).lanes.length = 32) && m == commitLanes (s.spindle 0) && m != 0#32 && s.active 0 &&
  !(s.spindle 0).inHandler && (waitingCommit s 0).isNone
theorem commitReady_of {s : State} {m : LaneMask} (h : commitReadyB s m = true) : CommitReady s m := by
  simp only [commitReadyB, Bool.and_eq_true, decide_eq_true_eq, beq_iff_eq, bne_iff_ne, Bool.not_eq_true', Option.isNone_iff_eq_none] at h
  obtain ⟨⟨⟨⟨⟨⟨h1, h2⟩, h3⟩, h4⟩, h5⟩, h6⟩, h7⟩ := h
  exact ⟨h1, h2, h3, h4, h5, h6, h7⟩
def readTx (ts same : Bool) (start : Nat) : Txn := { openTx with ts := ts, start := start, reads := [seen same] }
def writeTx : Txn := { openTx with writes := [seen false] }
theorem witness_ThreadEvents_commits :
    (∃ s m x, CommitReady s m ∧ (lockLines s 0 m [] (commitWinners (s.spindle 0) (lanesOf m)).2).stop = none ∧ m.getLsbD 0 = true ∧ m.getLsbD 1 = true ∧ txConflict (s.lane 0 0) (s.lane 0 1) = true ∧
      (s.lane 0 1).txn = some x) ∧
    (∀ ts same : Bool, ∃ s x y h, CommitReady s (laneBit 0) ∧ s.mem.commits = [] ∧ (s.lane 0 0).txn = some x ∧ CommitHome s 0 y.ea y.ln h ∧ x.ts = ts ∧ x.reads = [y] ∧ x.writes = [] ∧
      marksHit h.line y.mask = 0#4 ∧ (decide (h.version ≤ x.start) = true) ∧
      if same then ∀ k < 128, y.mask.getLsbD k = true → h.line.data.extractLsb' (8 * k) 8 = y.data.extractLsb' (8 * k) 8
      else ∀ k < 128, y.mask.getLsbD k = true → h.line.data.extractLsb' (8 * k) 8 ≠ y.data.extractLsb' (8 * k) 8) ∧
    ∃ s x y h e, CommitReady s (laneBit 0) ∧ s.mem.commits = [] ∧ (s.lane 0 0).txn = some x ∧ CommitHome s 0 y.ea y.ln h ∧ x.ts = false ∧ x.reads = [] ∧ x.writes = [y] ∧
      (s.teamOf 0).rollb = false ∧ rightsFind s.mem (s.spindle 0).core y.ea (pageOfLn y.ln) = some e ∧ leafW e.leaf = true ∧ sealedPage s.mem y.ea (pageOfLn y.ln) = false := by
  refine ⟨⟨commits (fun l => if l = 0 then some writeTx else if l = 1 then some (readTx false true 0) else none), 3#32, readTx false true 0, commitReady_of (by decide +kernel), by decide +kernel,
      by decide, by decide, by decide +kernel, by decide +kernel⟩, fun ts same => ?_, ?_⟩
  · refine ⟨commits (fun l => if l = 0 then some (readTx ts same 0) else none), readTx ts same 0, seen same, hline 1024, ?_, ?_, ?_, ⟨?_, by decide +kernel, ?_, ?_, ?_⟩, rfl, rfl, rfl, ?_, ?_, ?_⟩ <;>
      cases ts <;> cases same <;> first | exact commitReady_of (by decide +kernel) | decide +kernel
  · exact ⟨commits (fun l => if l = 0 then some writeTx else none), writeTx, seen false, hline 1024, { unit := 0, ea := 1, page := 0, span := 262144, leaf := 0x21F#64 }, commitReady_of (by decide +kernel),
      by decide +kernel, by decide +kernel, ⟨by decide +kernel, by decide +kernel, by decide +kernel, by decide +kernel, by decide +kernel⟩, rfl, rfl, rfl, by decide +kernel, by decide +kernel,
      by decide +kernel, by decide +kernel⟩

-- Further clauses: the host, moves of pages, distribution, the device and its controller (17; 18 R406; 19 R413; 21; 22)

/-- The host holds the line of host memory that line 1024 of context 1 stands for. -/
theorem witness_HostTraffic_dirty : ∃ (s : State) (pa ea ln : Nat) (h : HomeLine), fencedHost s = false ∧ pa / 128 * 128 < Config.hostTop ∧ s.mem.hostHeld.contains (pa / 128) = true ∧
    lineOfPa s (128 * (pa / 128)) = some (ea, ln) ∧ homeFind s.mem ea ln = some h :=
  ⟨hostState.modMem (fun m => { m with hostHeld := [Config.hostBase / 128] }), Config.hostBase + 127, 1, 1024, hline 1024, by decide +kernel, by decide +kernel, by decide +kernel, by decide +kernel,
    by decide +kernel⟩

/-- Page 0x20 of context 1 in a leaf of its own, and a MIGRATE of it to frame 0x400000 of die 2 at the head of the queue. -/
def migrating : State :=
  let s := mapped 4 (ready (.nop u) 3#32)
  s.modMem (fun m => { m with phys := [(0x10_3000, 0x10_4001), (0x10_4000, 0x10_5001), (0x10_5100, 0x2_021F), (0x11_1018, 0x40_0000), (0x11_1020, 2)].foldl (fun m x => bytesSet m x.1 8 x.2) m.phys })
def moving20 : LeafMove := { slot := 0x10_5100, leaf := 0x2_021F#64, first := 0x20, span := 1, frame := 0x40_0000 }
def aMove (step : Nat) : Move := { ea := 1, home := 2, leaves := [moving20], step := step, since := 0, ordered := true }
/-- The move of that page, whose last step is done. -/
def inMove (step : Nat) (leaf : DWord) : State :=
  let s := { migrating with clock := { migrating.clock with cycle := 1 } }
  s.modMem (fun m => { m with moves := [aMove step], phys := bytesSet m.phys 0x10_5100 8 leaf.toNat })
theorem witness_TranslationQueue_moves :
    (∃ (s : State) (c : TcqEntry) (l : List LeafMove), s.mem.commits = [] ∧ s.links.down = [] ∧ s.mem.moves = [] ∧ tcqHead (takeWrites s) = some c ∧ (takeWrites s).adeol.astbase.getLsbD 0 = true ∧ c.bad = false ∧ c.op = 4 ∧
      migrateMoves (dropEntries (takeWrites s) c.range) c = some l ∧ l ≠ [] ∧
      (∀ x ∈ l, frameFits x.frame (levelOf x.span) (x.first / x.span) (leafContig x.leaf) = true ∧ leafFramesOk (dropEntries (takeWrites s) c.range) x.frame (levelOf x.span) = true) ∧
      fencedDie (takeWrites s) c.home = false ∧ fencedHost (takeWrites s) = false) ∧
    (∃ (s : State) (v : Move), s.mem.commits = [] ∧ s.links.down = [] ∧ s.mem.moves = [v] ∧ v.ordered = true ∧ v.since < s.clock.cycle ∧ v.step = 1 ∧ v.leaves ≠ []) ∧
    (∃ (s : State) (v : Move) (x : LeafMove), s.mem.commits = [] ∧ s.links.down = [] ∧ s.mem.moves = [v] ∧ v.ordered = true ∧ v.since < s.clock.cycle ∧ v.step = 3 ∧ v.leaves = [x] ∧ baseOf x.leaf + 4096 * x.span ≤ x.frame ∧
      Memory.wf s.mem.phys) ∧
    (∃ (s : State) (v : Move) (c : TcqEntry), s.mem.commits = [] ∧ s.links.down = [] ∧ s.mem.moves = [v] ∧ v.ordered = true ∧ v.since < s.clock.cycle ∧ v.step = 4 ∧ tcqHead (abandonMove s v) = some c ∧
      ∃ x ∈ v.leaves, BitVec.ofNat 64 (paRead s x.slot 8) ≠ lockedLeaf x.leaf) ∧
    ∃ (s : State) (v : Move) (c : TcqEntry), s.mem.commits = [] ∧ s.links.down = [] ∧ s.mem.moves = [v] ∧ v.ordered = true ∧ v.since < s.clock.cycle ∧ v.step = 6 ∧ tcqHead (finishMove s v) = some c := by
  refine ⟨?_, ⟨inMove 1 0x2_021F#64, aMove 1, rfl, rfl, rfl, rfl, by decide, rfl, by decide⟩,
    ⟨inMove 3 0x2_021F#64, aMove 3, moving20, rfl, rfl, rfl, rfl, by decide, rfl, rfl, by decide +kernel, by decide +kernel⟩, ?_, ?_⟩
  · have h : ((tcqHead (takeWrites migrating)).any (fun c => (takeWrites migrating).adeol.astbase.getLsbD 0 && !c.bad && c.op == 4 && !fencedDie (takeWrites migrating) c.home &&
        !fencedHost (takeWrites migrating) && (migrateMoves (dropEntries (takeWrites migrating) c.range) c).any (fun l => !l.isEmpty && l.all (fun x =>
          frameFits x.frame (levelOf x.span) (x.first / x.span) (leafContig x.leaf) && leafFramesOk (dropEntries (takeWrites migrating) c.range) x.frame (levelOf x.span))))) = true := by decide +kernel
    obtain ⟨c, h1, h⟩ := (Option.any_eq_true _ _).1 h
    simp only [Bool.and_eq_true, beq_iff_eq, Bool.not_eq_true', Option.any_eq_true, List.all_eq_true] at h
    obtain ⟨⟨⟨⟨⟨h2, h3⟩, h4⟩, h5⟩, h6⟩, l, h7, h8, h9⟩ := h
    exact ⟨migrating, c, l, rfl, rfl, rfl, h1, h2, h3, h4, h7, fun e => by (rw [e] at h8; cases h8), h9, h5, h6⟩
  · have h : (tcqHead (abandonMove (inMove 4 0x2_021F#64) (aMove 4))).isSome = true := by decide +kernel
    obtain ⟨c, h⟩ := Option.isSome_iff_exists.1 h
    exact ⟨inMove 4 0x2_021F#64, aMove 4, c, rfl, rfl, rfl, rfl, by decide, rfl, h, moving20, by decide, by decide +kernel⟩
  · have h : (tcqHead (finishMove (inMove 6 0x2_021F#64) (aMove 6))).isSome = true := by decide +kernel
    obtain ⟨c, h⟩ := Option.isSome_iff_exists.1 h
    exact ⟨inMove 6 0x2_021F#64, aMove 6, c, rfl, rfl, rfl, rfl, by decide, rfl, h⟩

/-- The one launch of the one partition, in the given state, and its energy; it has one team of one spindle of 16 registers. -/
def loneLaunch (st : LaunchSt) (root : Bool) (e : Nat) : Launch :=
  let l := (ready (.nop u) 3#32).launch 0
  { l with st := st, root := root, info := { l.info with energy := e, vcount := 16 } }
def alone (l : Launch) (t : List Team) (fence : DWord) : State :=
  let s := ready (.nop u) 3#32
  { s with launches := [l], teams := t, spindles := [], adeol := { s.adeol with cfence0 := fence } }
def waitingTeam : Team := { Team.blank with st := .pending, regarena := 0x40_0040#64, nspin := 1 }
theorem alone_of {l : Launch} (t : List Team) (f : DWord) (h : l.part = 0 ∧ l.discarded = false ∧ l.abandoned = false ∧ l.step = 0 ∧ l.prio < 16 ∧ 1 ≤ l.info.teams ∧ 1 ≤ l.info.spindles) :
    Alone (alone l t f) l :=
  ⟨⟨_, rfl, rfl, rfl, rfl, rfl⟩, ⟨rfl, h⟩, by simp [alone, ready, State.placeWords, State.reset]⟩
theorem witness_Distribution_launches :
    (∃ s l, AloneReady s l ∧ s.teams = [] ∧ l.root = false ∧ (s.part 0).energyres < (l.info.energy : Int)) ∧
    (∀ root : Bool, ∃ s l, AloneReady s l ∧ s.teams = [] ∧ l.root = root ∧ (l.info.energy : Int) ≤ (s.part 0).energyres ∧ ∀ v ∈ (s.part 0).pavs, ∀ k < 8, coreUsable s (8 * v + k) = false) ∧
    ∃ s l v cores u, AloneWaiting s l ∧ placeFresh l.info (pavOrder (s.part 0) (s.team 0).qdie) ((s.part 0).pavs.map (fun w => (w, pavRoom s w))) = some (v, cores) ∧
      dispatchTeam { s with distNext := (s.clock.ns / 16 + 1) * 16 } 0 v cores = .ok u () ∧ l.info.spindles = 1 := by
  refine ⟨⟨alone (loneLaunch .ready false 1) [] 0#64, loneLaunch .ready false 1, ⟨alone_of _ _ (by decide +kernel), rfl⟩, rfl, rfl, by decide +kernel⟩,
    fun root => ⟨alone (loneLaunch .ready root 0) [] 0xFF#64, loneLaunch .ready root 0, ⟨alone_of _ _ ?_, rfl⟩, rfl, rfl, ?_, ?_⟩, ?_⟩
  · cases root <;> decide +kernel
  · cases root <;> decide +kernel
  · cases root <;> decide +kernel
  · let s := alone (loneLaunch .admitted false 0) [waitingTeam] 0#64
    have h : gotB (dispatchTeam { s with distNext := (s.clock.ns / 16 + 1) * 16 } 0 0 [0]) (fun _ _ => true) = true := by decide +kernel
    obtain ⟨u, _, h, _⟩ := got_of h
    exact ⟨s, loneLaunch .admitted false 0, 0, [0], u, ⟨alone_of _ _ (by decide +kernel), rfl, by decide +kernel, by decide +kernel, rfl, _, rfl, rfl, rfl, rfl, rfl, by decide +kernel, rfl⟩,
      by decide +kernel, h, by decide +kernel⟩

theorem witness_DeviceEvents_more : (∃ (s : State) (pa : Nat), baseOf s.adeol.errring = 0 ∧ pa < Config.hbmTop ∧ s.mem.moves = []) ∧
    (∃ (s : State) (x : L1Line), baseOf s.adeol.errring = 0 ∧ l1Find s.mem 0 1 1024 = some x) ∧ (∃ (s : State) (h : HomeLine), baseOf s.adeol.errring = 0 ∧ homeFind s.mem 1 1024 = some h) ∧
    (∃ (s : State) (b : BufEntry), baseOf s.adeol.errring = 0 ∧ bufFind s.mem 1 1024 = some b) ∧ (∃ s : State, (0 < s.spindles.length ∧ (s.spindle 0).st = .resident)) ∧
    (∃ (s : State) (c : Cmd), s.cmds.find? (fun y => y.id == c.id) = some c) ∧
    (∃ s : State, ∃ cores : List (Nat × Int), s.due.energy ≤ s.clock.ns ∧ cores ≠ [] ∧ ∀ x ∈ cores, 0 ≤ x.2) ∧
    (∃ (s : State) (w : Nat), s.meter.watts = some w ∧ s.adeol.powercap.toNat < w ∧ 1250 ≤ s.clock.mhz) ∧ (∃ (s : State) (w : Nat), s.meter.watts = some w ∧ w ≤ s.adeol.powercap.toNat) ∧
    (∃ (s : State) (w : Nat), s.meter.watts = some w ∧ s.clock.mhz ≤ 3750 ∧ w * (s.clock.mhz + 250) ≤ s.adeol.powercap.toNat * s.clock.mhz) ∧
    ∃ (s : State) (temps volts : List Nat), s.due.minute ≤ s.clock.ns ∧ temps.length = 4 ∧ volts.length = 4 :=
  let metered (w mhz : Nat) : State := { State.reset with meter := { State.reset.meter with watts := some w }, clock := { State.reset.clock with mhz := mhz } }
  ⟨⟨State.reset, 0, by decide +kernel, by decide, rfl⟩, ⟨dirtyState (.nop u), _, by decide +kernel, rfl⟩, ⟨dirtyState (.nop u), hline 1024, by decide +kernel, by decide +kernel⟩,
   ⟨State.reset.modMem (fun m => { m with buf := [{ agent := 0, ea := 1, ln := 1024, line := Line.empty }] }), { agent := 0, ea := 1, ln := 1024, line := Line.empty }, by decide +kernel, by decide +kernel⟩,
   ⟨ready (.nop u) 3#32, by decide +kernel, by decide +kernel⟩, ⟨rowState, cmd5 rowState, by decide +kernel⟩, ⟨timed 1000 State.reset, [(191, 7)], by decide +kernel, by decide, by decide⟩,
   ⟨metered 3201 1250, 3201, rfl, by decide +kernel, by decide⟩, ⟨metered 3200 4000, 3200, rfl, by decide +kernel⟩, ⟨metered 3000 3750, 3000, rfl, by decide +kernel, by decide +kernel⟩,
   timed 60_000_000_000 State.reset, [0, 40, 110, 200], [0, 600, 950, 2000], by decide +kernel, rfl, rfl⟩

/-- A launch record in the two lines at 0x20000, which names the placed text as its entry. -/
def recordLine : Nat := placedText.toNat + 2 ^ 64 + 2 ^ 96 + 16 * 2 ^ 112 + 128 * 2 ^ 384
/-- The partition is configured and does not run; its record stands at its home. -/
def startState : State :=
  let s := (mapped 1 (ready (.nop u) 3#32)).modPart 0 (fun q => { q with started := false })
  { s with spindles := [], teams := [], launches := [],
           mem := { s.mem with rights := [], home := s.mem.home.filter (fun h => h.ln != 1024) ++ [{ hline 1024 with line := { (hline 1024).line with data := BitVec.ofNat 1024 recordLine } },
             { hline 1025 with line := { (hline 1025).line with data := 0#1024 } }] } }
def startFresh : State := (takeWrites startState).modPart 0 (fun x =>
  { Partition.blank with pnum := x.pnum, pavs := x.pavs, share := x.share, energyres := x.energyres, started := true, asid := BitVec.ofNat 14 1 })
theorem witness_ControllerCommands_start : (∃ u1 v u2, partNum (takeWrites startState) 1 = some 0 ∧ (startState.part 0).started = false ∧ fencedHost startState = false ∧
      (takeWrites startState).adeol.astbase.getLsbD 0 = true ∧ startState.nvm.recovery = false ∧ readRoot startFresh 0 (BitVec.ofNat 64 0x20000) = .ok u1 v ∧ recordCheck u1 0 0 v = .ok u2 none ∧
      0 < startState.parts.length) ∧
    (∃ s : State, hostWorks s = true ∧ s.signing = none ∧ s.nvm.attidx < 2 ^ 20) ∧ (∃ s : State, hostWorks s = true ∧ s.signing = none ∧ 2 ^ 20 ≤ s.nvm.attidx) ∧
    (∃ (s : State) (k : Nat) (nonce : BitVec 256), s.signing = some (k, nonce)) ∧ (∃ s, hostWorks s = false) ∧
    ∃ (s : State) (v : DWord), hostWorks s = true ∧ s.adeol.staged = [] ∧ v &&& ~~~0x000F_FFFF_FFFF_F001#64 = 0#64 ∧ v.getLsbD 0 = true ∧ v &&& 0x000F_FFFF_FFFF_F000#64 ≠ 0#64 ∧
      s.adeol.rmapbase &&& 0x000F_FFFF_FFFF_F000#64 ≠ 0#64 := by
  refine ⟨?_, ⟨State.reset, by decide +kernel, rfl, by decide +kernel⟩, ⟨{ State.reset with nvm := { State.reset.nvm with attidx := 2 ^ 20 } }, by decide +kernel, rfl, Nat.le_refl _⟩,
    ⟨{ State.reset with signing := some (7, 9#256) }, 7, 9#256, rfl⟩, ⟨{ State.reset with nvm := { State.reset.nvm with recovery := true } }, by decide +kernel⟩,
    hostState, 0x1001#64, by decide +kernel, by decide +kernel, by decide, by decide, by decide, by decide +kernel⟩
  have h : gotB (readRoot startFresh 0 (BitVec.ofNat 64 0x20000)) (fun s1 v => gotB (recordCheck s1 0 0 v) (fun _ c => c == none)) = true := by decide +kernel
  obtain ⟨u1, v, h1, h⟩ := got_of h
  obtain ⟨u2, c, h2, h3⟩ := got_of h
  rw [beq_iff_eq.1 h3] at h2
  exact ⟨u1, v, u2, by decide +kernel, by decide +kernel, by decide +kernel, by decide +kernel, by decide +kernel, h1, h2, by decide +kernel⟩

theorem witness_Resets_reentry : (∃ s : State, s.nvm.recovery = false ∧ s.mem.moves = [] ∧ (∀ p ∈ s.parts, p.started = false) ∧ s.parts ≠ [] ∧ s.adeol.staged = [] ∧ s.mem.l1 = [] ∧ s.mem.home = [] ∧
      s.mem.buf = [] ∧ s.adeol.dumpbase.getLsbD 0 = false) ∧
    ∃ s : State, s.nvm.recovery = false ∧ s.mem.moves = [] ∧ s.adeol.staged = [] ∧ (∃ p ∈ s.parts, p.started = true ∧ p.halted = false ∧ p.haltReason ≠ 0) ∧ ∀ p ∈ s.parts, p.started = true → p.haltReason ≠ 0 :=
  ⟨⟨{ State.reset with parts := [{ Partition.blank with pavs := [0] }] }, by decide +kernel, rfl, by decide +kernel, by decide +kernel, rfl, rfl, rfl, rfl, by decide +kernel⟩,
   { State.reset with parts := [{ Partition.blank with pavs := [0], started := true, haltReason := 2 }] }, by decide +kernel, rfl, rfl, by decide +kernel, by decide +kernel⟩

end Sys2Proof.Tests
end

section
/-! PROOFS. A word that no lane executes (00 R11). -/

namespace Sys2Proof.Machine

open Sys2Proof

/-- `ERET` waits for the flags of its handler only when a lane executes it: an idle one is an idle issue (00 R11; 11 R274). -/
theorem execEret_idle {s : State} {p : Pfx} (h : s.execLanes p = 0#32) : execEret p s = .next (s.advance 1) := by
  have hWaits : ¬((s.cur.chained && (s.spindle s.cur.sp).inHandler && !(s.spindle s.cur.sp).flagsClear && s.execLanes p != 0#32) = true) := by
    simp [h]
  unfold execEret
  rw [if_neg hWaits]
  exact issue_idle (.eret p) p 1 _ h

/-- Settles O15: every guarded word is one issue of its own length, and an issue for no lane only moves the fragment on. `NOP` and `ERET`, the
two words that the model does not write as one plain issue, move it on as well. -/
theorem idleWords : Obligations.IdleWords := by
  unfold Obligations.IdleWords
  intro i s hGuarded hIdle
  obtain ⟨p, rfl | rfl⟩ | ⟨eff, hIssue⟩ := exec_issue i s hGuarded
  · rfl
  · exact execEret_idle hIdle
  · rw [hIssue]
    exact issue_idle i (pfx i) _ eff hIdle

end Sys2Proof.Machine
end

section
/-! PROOFS. The F-pipe's results and flags (06 R131-R142). -/

namespace Sys2Proof.Machine

open Sys2Proof

-- One lane's write, in a format and with flags

/-- A write of one register in its format's kind (06 R127). -/
theorem laneOp_setF (f : Fmt) (d : Reg) (x : Nat → Nat) :
    LaneOp (fun l sp => sp.setF f d l (x l)) (fun reg l => toF f d (x l) reg) (fun _ y => y) := by
  unfold Spindle.setF toF
  split
  · exact laneOp_setD d (fun l => BitVec.ofNat 64 (x l))
  · exact laneOp_setV d (fun l => BitVec.ofNat 32 (x l))

/-- What a lane becomes that collects flags and, under stochastic rounding, keeps its stepped generator (02 R53, R56). -/
def roundedLane (rm : BitVec 3) (flags : BitVec 6) (g : Word) (y : Lane) : Lane :=
  { y with fpflags := y.fpflags ||| flags, rng := if rm = 4#3 then g else y.rng }

/-- A lane's write, its flags, and the step of its generator under stochastic rounding. -/
theorem LaneOp.withRounding {f : Nat → Spindle → Spindle} {v : Nat → Nat → Option Word} (h : LaneOp f v (fun _ y => y)) (rm : BitVec 3)
    (flags : Nat → BitVec 6) (g : Nat → Word) :
    LaneOp (fun l sp => if rm == 4#3 then ((f l sp).orFlags l (flags l)).modLane l (fun y => { y with rng := g l }) else (f l sp).orFlags l (flags l)) v
      (fun l y => roundedLane rm (flags l) (g l) y) := by
  have hFlags := h.withLane (fun l y => y.orFlags (flags l))
  by_cases hrm : rm = 4#3
  · exact (hFlags.withLane (fun l y => { y with rng := g l })).congr (fun _ _ => by rw [hrm]; rfl) (fun _ _ => rfl)
      (fun _ _ => by unfold roundedLane; rw [if_pos hrm]; rfl)
  · exact hFlags.congr (fun _ _ => if_neg (by simpa using hrm)) (fun _ _ => rfl) (fun _ _ => by unfold roundedLane; rw [if_neg hrm]; rfl)

/-- The rounding mode of a conversion, written out (02 R53). -/
theorem modeSr_eq (rm : BitVec 3) (g : Word) : modeSr rm g = if rm = 4#3 then .sr g else modeOf rm := by
  unfold modeSr
  by_cases hrm : rm = 4#3 <;> simp [hrm]

/-- The generators stand as they were when the fragment has moved on. -/
theorem movedLanes_rng (s : State) (n l : Nat) (h32 : (s.spindle s.cur.sp).lanes.length = 32) :
    (({ s.spindle s.cur.sp with lanes := movedLanes s n } : Spindle).lane l).rng = ((s.spindle s.cur.sp).lane l).rng := by
  have h := Spindle.lane_foldModLane (lanesOf s.cur.lanes) (fun _ y => { y with pc := s.cur.pc + BitVec.ofNat 64 (4 * n), stamp := s.clock.cycle })
    (s.spindle s.cur.sp) l (lanesOf_nodup _) (fun k hk => by rw [h32]; exact ((mem_lanesOf _ _).1 hk).1)
  have e := congrArg Lane.rng h
  rw [apply_ite Lane.rng, ite_self] at e
  exact e

/-- The s registers stand as they were when the fragment has moved on. -/
theorem getS_advance (s : State) (n r : Nat) (hp : s.cur.sp < s.spindles.length) : ((s.advance n).spindle s.cur.sp).getS r = (s.spindle s.cur.sp).getS r := by
  rw [advance_spindle s n hp]
  rfl

/-- What a word makes of its executing lanes it makes of lanes that have moved on (00 R11). -/
theorem ite_executing {α : Type} (s : State) (i : Instr) (l : Nat) (g : α → α) (moved still : α) :
    (if (s.executing i).getLsbD l then g (if s.cur.lanes.getLsbD l then moved else still) else if s.cur.lanes.getLsbD l then moved else still) =
      if (s.executing i).getLsbD l then g moved else if s.cur.lanes.getLsbD l then moved else still := by
  by_cases he : (s.executing i).getLsbD l = true
  · rw [if_pos he, if_pos he, if_pos (executing_sub s i he)]
  · rw [if_neg he, if_neg he]

-- Words that write lanes

/-- A word with a result in format f per lane writes it with its flags (06 R128). -/
theorem fpu_computes {i : Instr} {s : State} {n : Nat} {f : Fmt} {d : Reg} (h : Issues i s) (hA : isFlagA i = false) (g : Spindle → Nat → FpAns) :
    ∃ t, fpu i (pfx i) n f d s g = .next t ∧ Computes i n (fResult f d (g { s.spindle s.cur.sp with lanes := movedLanes s n })) s t :=
  alu_computes h hA ((laneOp_setF f d (fun l => (g { s.spindle s.cur.sp with lanes := movedLanes s n } l).1)).withLane
    (fun l y => y.orFlags (g { s.spindle s.cur.sp with lanes := movedLanes s n } l).2)) (fun _ _ he => he)

/-- A conversion writes its value, its flags and, under stochastic rounding, its generator (06 R137). -/
theorem execFcvt_computes {p : Pfx} {d a : Reg} {sfmt dfmt : BitVec 4} {rm : BitVec 3} {s : State} {n : Nat} {r : Result}
    (h : Issues (.fcvt p d a sfmt dfmt rm) s) (hr : floatResult (s.spindle s.cur.sp) (.fcvt p d a sfmt dfmt rm) = some (n, r)) :
    ∃ t, execFcvt p d a sfmt dfmt rm s = .next t ∧ Computes (.fcvt p d a sfmt dfmt rm) n r s t := by
  cases hr
  refine alu_computes h rfl ?_ (fun _ _ he => he)
  simp only [movedLanes_rng s 2 _ h.lanes, modeSr_eq]
  exact (laneOp_setF _ d _).withRounding rm _ _

/-- An effect that agrees with another in the state of its issue answers the same. -/
theorem issue_congr {i : Instr} {s : State} (h : Issues i s) (n : Nat) {eff eff' : LaneMask → State → Eff}
    (he : eff (s.executing i) (s.advance n) = eff' (s.executing i) (s.advance n)) : issue i (pfx i) n s eff = issue i (pfx i) n s eff' := by
  rw [issue_of_issues h, issue_of_issues h, issueExec_of_issues h, issueExec_of_issues h, he]

/-- A word whose own effect is a fault of its lanes parks them, and the barriers are evaluated (00 R12; 05 R124). -/
theorem issue_bad {i : Instr} {s : State} (h : Issues i s) (n : Nat) {eff : LaneMask → State → Eff} {c : BitVec 8} {a : DWord}
    (he : eff (s.executing i) (s.advance n) = .bad c a) (hc : c ≠ 0x10#8) (hf : CanFault (s.executing i) s) :
    ∃ u, issue i (pfx i) n s eff = .next (rcvEvalAll u s.cur.sp) ∧ Parks (s.executing i) n c 0#7 a s u := by
  refine ⟨_, ?_, faultLanes_parks s n (s.executing i) c a h.place h.lanes (fun _ _ hx => executing_sub s i hx) hf⟩
  have hroll : rollsBack (s.advance n) c = false := by
    unfold rollsBack
    simp [hc]
  rw [issue_of_issues h, issueExec_of_issues h, he]
  simp only [finishIssue, hroll, Bool.false_eq_true, if_false, advance_cur]

-- `MXDQ`

/-- The s register of an `MXDQ` names a selector of the word's class (06 R142). -/
def mxdqNames (e : Word) (fmtc : BitVec 4) : Bool := selAssigned (e.extractLsb' 8 8).toNat && (e.extractLsb' 8 8).toNat / 16 == fmtc.toNat - 8

theorem bitsOf_eq_extractLsb' (e : Word) (lo n : Nat) : bitsOf e.toNat lo n = (e.extractLsb' lo n).toNat := by
  rw [BitVec.extractLsb'_toNat]
  rfl

/-- The check of `MXDQ` refuses just what names no selector. -/
theorem mxdq_check (e : Word) (fmtc : BitVec 4) :
    (!selAssigned (e.extractLsb' 8 8).toNat || (e.extractLsb' 8 8).toNat / 16 != mxClass fmtc) = !mxdqNames e fmtc := by
  rw [mxdqNames, Bool.not_and]
  rfl

/-- An `MXDQ` whose s register names a selector of its class writes the element values with their flags (06 R142). -/
theorem execMxdq_computes {p : Pfx} {d a b : Reg} {fmtc : BitVec 4} {dfmt : BitVec 2} {rm : BitVec 3} {s : State} {n : Nat} {r : Result}
    (h : Issues (.mxdq p d a b fmtc dfmt rm) s) (hr : floatResult (s.spindle s.cur.sp) (.mxdq p d a b fmtc dfmt rm) = some (n, r)) :
    ∃ t, execMxdq p d a b fmtc dfmt rm s = .next t ∧ Computes (.mxdq p d a b fmtc dfmt rm) n r s t := by
  simp only [floatResult] at hr
  split at hr
  case isFalse => cases hr
  case isTrue hNames =>
    cases hr
    have hOk : mxdqNames ((s.spindle s.cur.sp).getS b.toNat) fmtc = true := hNames
    have hSame : execMxdq p d a b fmtc dfmt rm s = fpu (.mxdq p d a b fmtc dfmt rm) p 2 (fmtOf dfmt) d s (fun sp l =>
        (fmtOf dfmt).conv sp.ftz (modeOf rm) (mxValue (((s.spindle s.cur.sp).getS b.toNat).extractLsb' 0 8).toNat
          (((s.spindle s.cur.sp).getS b.toNat).extractLsb' 8 8).toNat (sp.getV a.toNat l).toNat)) := issue_congr h 2 (by
      simp only [advance_cur, getS_advance s 2 _ h.place, bitsOf_eq_extractLsb', mxdq_check, hOk, Bool.not_true, Bool.false_eq_true, if_false])
    rw [hSame]
    exact fpu_computes h rfl _

/-- Any other `MXDQ` is a BLOCK_FORMAT fault of its lanes (06 R142). -/
theorem execMxdq_parks {p : Pfx} {d a b : Reg} {fmtc : BitVec 4} {dfmt : BitVec 2} {rm : BitVec 3} {s : State}
    (h : Issues (.mxdq p d a b fmtc dfmt rm) s) (hr : floatResult (s.spindle s.cur.sp) (.mxdq p d a b fmtc dfmt rm) = none)
    (hf : CanFault (s.executing (.mxdq p d a b fmtc dfmt rm)) s) :
    ∃ u, execMxdq p d a b fmtc dfmt rm s = .next (rcvEvalAll u s.cur.sp) ∧
      Parks (s.executing (.mxdq p d a b fmtc dfmt rm)) 2 0x11#8 0#7 0#64 s u := by
  simp only [floatResult] at hr
  split at hr
  case isTrue => cases hr
  case isFalse hNames =>
    have hBad : mxdqNames ((s.spindle s.cur.sp).getS b.toNat) fmtc = false := Bool.eq_false_iff.2 hNames
    refine issue_bad h 2 ?_ (by decide) hf
    simp only [advance_cur, getS_advance s 2 _ h.place, bitsOf_eq_extractLsb', mxdq_check, hBad, Bool.not_false, if_true]

-- `FCMP` and `MXQ`: predicates or an s register, and then the lanes

/-- A word that writes s registers and predicates once, and then each of its lanes. -/
theorem uniformOver_computes {i : Instr} {s : State} {n : Nat} {r : Result} (h : Issues i s) (hA : isFlagA i = false)
    {f : LaneMask → Spindle → Spindle} {g : Nat → Spindle → Spindle} {base : Spindle} {sr p : Cells 32}
    (hf : f (s.executing i) { s.spindle s.cur.sp with lanes := movedLanes s n } = (lanesOf (s.executing i)).foldl (fun sp l => g l sp) base)
    (hb : base = { s.spindle s.cur.sp with lanes := movedLanes s n, s := sr, p := p })
    (op : LaneOp g r.v r.lane)
    (hs : ∀ reg, cellGet sr reg = (r.s reg).getD ((s.spindle s.cur.sp).getS reg))
    (hp : ∀ q < 7, ∀ l < 32, (({ s.spindle s.cur.sp with p := p } : Spindle).pred q).getLsbD l =
      if (s.executing i).getLsbD l then (r.p q l).getD (((s.spindle s.cur.sp).pred q).getLsbD l) else ((s.spindle s.cur.sp).pred q).getLsbD l)
    (hr : ∀ l y, y.st = .eligible → (r.lane l y).st = .eligible) :
    ∃ t, uniform i (pfx i) n s f = .next t ∧ Computes i n r s t := by
  have h32 : (movedLanes s n).length = 32 := by rw [movedLanes_length, h.lanes]
  obtain ⟨hv, hl, hFrame, -⟩ := op.fold (lanesOf (s.executing i)) { s.spindle s.cur.sp with lanes := movedLanes s n, s := sr, p := p }
    (lanesOf_nodup _) (fun l hl => ((mem_lanesOf _ _).1 hl).1) h32
  have hm : ∀ k < 32, (k ∈ lanesOf (s.executing i) ↔ (s.executing i).getLsbD k = true) := fun k hk => by
    rw [mem_lanesOf]
    simp [hk]
  apply uniform_computes h hA f
  case hr => exact hr
  all_goals rw [hf, hb]
  case hv =>
    intro reg l hl32
    rw [hv reg l hl32]
    simp only [hm l hl32]
    rfl
  case hs =>
    intro reg
    rw [hFrame]
    exact hs reg
  case hp =>
    intro q hq l hl32
    rw [hFrame]
    exact hp q hq l hl32
  case hl =>
    intro l hl32
    have hMoved : ({ s.spindle s.cur.sp with lanes := movedLanes s n, s := sr, p := p } : Spindle).lane l =
        if s.cur.lanes.getLsbD l then movedLane s n l else s.lane s.cur.sp l := movedLanes_lane s n l hl32 h.lanes
    rw [hl l, hMoved]
    simp only [hm l hl32]
    exact ite_executing s i l (r.lane l) _ _
  case hf => exact ⟨_, _, _, _, hFrame⟩

/-- A predicate below pt reads, bit by bit, as written in the lanes of the mask and as before elsewhere (01 R15). -/
theorem Spindle.getLsbD_setPred (sp : Spindle) {q k l : Nat} (m b : LaneMask) (hk : k < 7) (hl : l < 32) :
    ((sp.setPred q m b).pred k).getLsbD l = if k = q ∧ m.getLsbD l = true then b.getLsbD l else (sp.pred k).getLsbD l := by
  by_cases hq : q = 7
  · subst hq
    rw [Spindle.setPred_pt, if_neg (by omega)]
  · rw [Spindle.pred_setPred sp q k m b hq]
    by_cases hkq : k = q
    · subst hkq
      rw [if_pos rfl, BitVec.getLsbD_or, BitVec.getLsbD_and, BitVec.getLsbD_and, BitVec.getLsbD_not]
      cases m.getLsbD l <;> simp [hl]
    · rw [if_neg hkq, if_neg (fun e => hkq e.1)]

/-- A predicate and its complement, where the two differ unless both are pt (05 R113). -/
theorem Spindle.getLsbD_setPair (sp : Spindle) {d : Reg} {e : BitVec 3} {k l : Nat} (m b : LaneMask) (hde : predPairOk d e = true) (hk : k < 7)
    (hl : l < 32) : ((sp.setPair d.toNat e.toNat m b).pred k).getLsbD l =
      if m.getLsbD l then (predPair d e (b.getLsbD l) k).getD ((sp.pred k).getLsbD l) else (sp.pred k).getLsbD l := by
  have hApart : k = d.toNat → k ≠ e.toNat := by
    rintro rfl he
    simp only [predPairOk, p7, Bool.or_eq_true, bne_iff_ne, beq_iff_eq] at hde
    rcases hde with hne | rfl
    · exact hne (BitVec.eq_of_toNat_eq (by rw [he, BitVec.toNat_setWidth, Nat.mod_eq_of_lt (by omega)]))
    · exact absurd hk (by decide)
  unfold Spindle.setPair predPair
  rw [Spindle.getLsbD_setPred _ _ _ hk hl, Spindle.getLsbD_setPred _ _ _ hk hl]
  cases hm : m.getLsbD l
  · simp
  · by_cases hd : k = d.toNat
    · rw [if_neg (fun h => hApart hd h.1), if_pos ⟨hd, rfl⟩, if_pos rfl, if_pos hd]
      rfl
    · by_cases he : k = e.toNat
      · rw [if_pos ⟨he, rfl⟩, if_pos rfl, if_neg hd, if_pos he, BitVec.getLsbD_not]
        simp [hl]
      · rw [if_neg (fun h => he h.1), if_neg (fun h => hd h.1), if_pos rfl, if_neg hd, if_neg he]
        rfl

/-- A write of a predicate and its complement changes the predicates alone. -/
theorem Spindle.setPair_frame (sp : Spindle) (d e : Nat) (m b : LaneMask) : sp.setPair d e m b = { sp with p := (sp.setPair d e m b).p } := by
  unfold Spindle.setPair Spindle.setPred
  split <;> split <;> rfl

/-- The combination of a comparison with a predicate, written out (05 R113). -/
theorem combine_eq (bop : BitVec 2) (t q : Bool) : combine bop t q = if bop = 0#2 then t && q else if bop = 1#2 then t || q else t ^^ q := by
  revert bop t q
  decide

/-- `FCMP` writes the comparison combined with a predicate and its complement, with the invalid flag (06 R136). -/
theorem execFcmp_computes {p : Pfx} {d a b : Reg} {cmp : BitVec 4} {fmt : BitVec 2} {q : BitVec 3} {bop : BitVec 2} {e : BitVec 3} {s : State} {n : Nat}
    {r : Result} (h : Issues (.fcmp p d a b cmp fmt q bop e) s)
    (hr : floatSideResult (s.spindle s.cur.sp) (s.executing (.fcmp p d a b cmp fmt q bop e)) (.fcmp p d a b cmp fmt q bop e) = some (n, r)) :
    ∃ t, execFcmp p d a b cmp fmt q bop e s = .next t ∧ Computes (.fcmp p d a b cmp fmt q bop e) n r s t := by
  cases hr
  have hPair : predPairOk d e = true := by
    have hFields := (Bool.and_eq_true_iff.1 h.wellFormed).2
    exact (Bool.and_eq_true_iff.1 hFields).2
  refine uniformOver_computes h rfl rfl (Spindle.setPair_frame _ _ _ _ _) (laneOp_modLane _) (fun _ => rfl) ?_ (fun _ _ he => he)
  intro k hk l hl
  have hBits := Spindle.getLsbD_setPair { s.spindle s.cur.sp with lanes := movedLanes s 2 } (s.executing (.fcmp p d a b cmp fmt q bop e))
    (maskBy (fun l => combine bop (fcmpHolds cmp ((s.spindle s.cur.sp).getF (fmtOf fmt) a l) ((s.spindle s.cur.sp).getF (fmtOf fmt) b l)).1
      (((s.spindle s.cur.sp).pred q.toNat).getLsbD l))) hPair hk hl
  rw [getLsbD_maskBy _ _ hl, combine_eq, Spindle.setPair_frame] at hBits
  exact hBits

/-- `MXQ` writes the element codes with their flags and generators, and selector and scale into its s register (06 R140, R141). -/
theorem execMxq_computes {p : Pfx} {d a b : Reg} {sel : BitVec 8} {rm : BitVec 3} {s : State} {n : Nat} {r : Result}
    (h : Issues (.mxq p d a b sel rm) s)
    (hr : floatSideResult (s.spindle s.cur.sp) (s.executing (.mxq p d a b sel rm)) (.mxq p d a b sel rm) = some (n, r)) :
    ∃ t, execMxq p d a b sel rm s = .next t ∧ Computes (.mxq p d a b sel rm) n r s t := by
  cases hr
  refine uniformOver_computes h rfl (p := (s.spindle s.cur.sp).p) rfl rfl ?_ ?_ ?_ (fun _ _ he => he)
  · simp only [movedLanes_rng s 2 _ h.lanes, modeSr_eq]
    exact (laneOp_setV d _).withRounding rm _ _
  · intro reg
    rw [cellGet_set]
    simp only [to32]
    split <;> rfl
  · intro q _ l _
    split <;> rfl

-- The obligation

/-- The F-pipe words that write lanes (06 R131-R139, R142). -/
theorem exec_floatResult {i : Instr} {s : State} {n : Nat} {r : Result} (h : Issues i s) (hr : floatResult (s.spindle s.cur.sp) i = some (n, r)) :
    ∃ t, exec i s = .next t ∧ Computes i n r s t := by
  have hWhole := hr
  unfold floatResult at hr
  split at hr
  -- `FCVT` and `MXDQ` have lemmas of their own, `F2I` writes an integer and `HFMA2` a pair of halves; every other word is one result in one format
  case h_15 => exact execFcvt_computes h hWhole
  case h_16 => exact execMxdq_computes h hWhole
  case h_17 => cases hr
  all_goals cases hr
  case h_9 _ d a fmt u w64 rm => exact alu_computes h rfl ((laneOp_setVD w64 d _).withLane _) (fun _ _ he => he)
  case h_14 _ d a b cr rm bf => exact alu_computes h rfl ((laneOp_setV d _).withLane _) (fun _ _ he => he)
  all_goals exact fpu_computes h rfl _

/-- The F-pipe words that write predicates or an s register beside flags (06 R136, R140, R141). -/
theorem exec_floatSideResult {i : Instr} {s : State} {n : Nat} {r : Result} (h : Issues i s)
    (hr : floatSideResult (s.spindle s.cur.sp) (s.executing i) i = some (n, r)) : ∃ t, exec i s = .next t ∧ Computes i n r s t := by
  have hWhole := hr
  unfold floatSideResult at hr
  split at hr
  · exact execFcmp_computes h hWhole
  · exact execMxq_computes h hWhole
  · cases hr

/-- Settles O11: each F-pipe word is a loop of one lane's writes, after a write of predicates or of an s register for `FCMP` and `MXQ`; an `MXDQ`
whose s register names no selector of its class is a fault of its lanes. -/
theorem floatResults : Obligations.FloatResults := by
  unfold Obligations.FloatResults
  intro i s h
  constructor
  · rintro n r (hr | hr)
    · exact exec_floatResult h hr
    · exact exec_floatSideResult h hr
  · rintro p d a b fmtc dfmt rm rfl hr hf
    exact execMxdq_parks h hr hf

end Sys2Proof.Machine
end

section
/-! PROOFS. The S-pipe's arithmetic and the lane exchange (06 R143-R146; 07 R176). -/

namespace Sys2Proof.Machine

open Sys2Proof

-- Words under flag A (03 R75, R76)

/-- A word that charges its flag goes on with that flag. -/
theorem withFlag_of_charges {s : State} {n f : Nat} (hc : ChargesFlag s n true f) (hp : s.cur.sp < s.spindles.length) (k : State → Nat → Eff) :
    withFlag (s.advance n) true k = k (s.advance n) f := by
  obtain ⟨w, a, hFlags, hf, hNamed, hRoom⟩ := hc
  have hf' : faOf w = f := hf
  have hRoom' : (((s.advance n).spindle s.cur.sp).flag f == 63#6) = false := by
    rw [advance_spindle s n hp]
    exact beq_eq_false_iff_ne.2 hRoom
  unfold withFlag
  simp only [advance_cur, hFlags, if_true, hf', Nat.not_lt.2 hNamed, if_false, hRoom', Bool.false_eq_true]

/-- The cell writes w of an operation of the lanes x give each of them the words v, and no other register or lane anything. -/
def WritesLanes (x : LaneMask) (w : List (Nat × Word)) (v : Nat → Nat → Option Word) : Prop :=
  ∀ (sp : Spindle) reg, ∀ l < 32, (sp.setVs w).getV reg l = if x.getLsbD l then (v reg l).getD (sp.getV reg l) else sp.getV reg l

/-- An operation that starts in a state that differs from s in the lanes of its spindle alone: one more count of its flag, and one more operation. -/
theorem pendOp_eq {s u : State} {ls : List Lane} (f : Nat) (w : List (Nat × Word)) (second : List Nat) {x : LaneMask} (hx : x ≠ 0#32)
    (hu : u = s.modSp s.cur.sp (fun sp => { sp with lanes := ls })) :
    pendOp u f x w [] second =
      { s.modSp s.cur.sp (fun sp => { sp with bankconf := (s.spindle s.cur.sp).bankconf, lanes := ls }.setFlag f (sp.flag f + 1#6)) with
        ops := s.ops ++ [{ id := s.nextId, sp := s.cur.sp, flag := f, lanes := x, writes := w, pwrites := [], second := second }],
        nextId := s.nextId + 1 } := by
  have hCharged : charge u s.cur.sp f =
      s.modSp s.cur.sp (fun sp => { sp with bankconf := (s.spindle s.cur.sp).bankconf, lanes := ls }.setFlag f (sp.flag f + 1#6)) := by
    rw [charge, hu, State.modSp_modSp]
    exact State.modSp_congr _ _ _ _ rfl
  rw [← hCharged, hu]
  unfold pendOp
  rw [beq_eq_false_iff_ne.2 hx]
  rfl

/-- A word under flag A that changes only its lanes before it starts an operation (03 R75, R76). -/
theorem issue_pends {i : Instr} {s u : State} {n f : Nat} {r : Result} {ls : List Lane} {w : List (Nat × Word)} {second : List Nat}
    {k : LaneMask → State → Nat → Eff} (h : Issues i s) (hA : isFlagA i = true) (hc : ChargesFlag s n true f)
    (hk : k (s.executing i) (s.advance n) f = .done (pendOp u f (s.executing i) w [] second))
    (hu : u = s.modSp s.cur.sp (fun sp => { sp with lanes := ls }))
    (hl : ∀ l < 32, ls.getD l Lane.blank =
      if (s.executing i).getLsbD l then r.lane l (movedLane s n l) else if s.cur.lanes.getLsbD l then movedLane s n l else s.lane s.cur.sp l)
    (hr : ∀ l y, y.st = .eligible → (r.lane l y).st = .eligible) (hw : WritesLanes (s.executing i) w r.v) (hp : r.p = fun _ _ => none) :
    ∃ t, issue i (pfx i) n s (fun x s => withFlag s true (k x)) = .next t ∧ Pends i n f r (s.spindle s.cur.sp).bankconf s.mem s t := by
  have hPend := pendOp_eq f w second (x := s.executing i) h.runs hu
  have hLane : ∀ l < 32, (pendOp u f (s.executing i) w [] second).lane s.cur.sp l =
      if (s.executing i).getLsbD l then r.lane l (movedLane s n l) else if s.cur.lanes.getLsbD l then movedLane s n l else s.lane s.cur.sp l := by
    intro l h32
    rw [hPend, ← hl l h32]
    exact congrArg (fun sp => sp.lane l) (State.spindle_modSp_same s s.cur.sp _ h.place)
  have hCur : (pendOp u f (s.executing i) w [] second).cur = s.cur := by rw [hPend]; rfl
  refine ⟨_, ?_, hLane, ls, _, hPend, rfl, rfl, rfl, rfl, hw, fun q l b => by simp [hp]⟩
  rw [issue_of_issues h, issueExec_of_issues h, withFlag_of_charges hc h.place, hk, finishIssue, settle_done, hA, if_pos rfl]
  · intro l h32 he
    rw [hCur]
    have hEligible := hr l (movedLane s n l) (h.eligible l h32 (executing_sub s i he))
    exact (congrArg Lane.st ((hLane l h32).trans (if_pos he))).trans hEligible
  · rw [hCur, hPend]
    exact (State.length_modSp s s.cur.sp _).symm ▸ h.place

-- The cells that an operation writes

theorem Spindle.setVs_append (sp : Spindle) (w w' : List (Nat × Word)) : sp.setVs (w ++ w') = (sp.setVs w).setVs w' := by
  unfold Spindle.setVs cellSets
  rw [List.foldl_append]

/-- Writes lane by lane are one list of writes. -/
theorem Spindle.setVs_flatMap (ls : List Nat) (w : Nat → List (Nat × Word)) (sp : Spindle) :
    sp.setVs (ls.flatMap w) = ls.foldl (fun sp l => sp.setVs (w l)) sp := by
  induction ls generalizing sp with
  | nil => rfl
  | cons l ls ih => rw [List.flatMap_cons, Spindle.setVs_append, ih, List.foldl_cons]

/-- Cell writes that are each one lane's write. -/
theorem LaneOp.writesLanes {w : Nat → List (Nat × Word)} {v : Nat → Nat → Option Word} {g : Nat → Lane → Lane}
    (op : LaneOp (fun l sp => sp.setVs (w l)) v g) (x : LaneMask) : WritesLanes x ((lanesOf x).flatMap w) v := by
  intro sp reg l hl
  have hFold := (op.fold (lanesOf x) { sp with lanes := List.replicate 32 Lane.blank } (lanesOf_nodup x) (fun k hk => ((mem_lanesOf x k).1 hk).1)
    List.length_replicate).1 reg l hl
  rw [← Spindle.setVs_flatMap] at hFold
  simp only [mem_lanesOf, hl, true_and] at hFold
  exact hFold

/-- One lane's write after another. -/
theorem LaneOp.andThen {f f' : Nat → Spindle → Spindle} {v v' : Nat → Nat → Option Word} {g g' : Nat → Lane → Lane} (h : LaneOp f v g)
    (h' : LaneOp f' v' g') : LaneOp (fun l sp => f' l (f l sp)) (fun reg l => (v' reg l).or (v reg l)) (fun l y => g' l (g l y)) where
  regs sp l hl reg k hk := by
    rw [h'.regs _ l hl reg k hk, h.regs sp l hl reg k hk, h.regs sp l hl reg l hl, if_pos rfl]
    by_cases hkl : k = l
    · rw [if_pos hkl, if_pos hkl]
      cases v' reg l <;> rfl
    · rw [if_neg hkl, if_neg hkl, if_neg hkl]
  lane sp l hl k := by
    rw [h'.lane _ l (by rw [h.size]; exact hl), h.lane sp l hl, h.lane sp l hl, if_pos rfl]
    by_cases hkl : k = l
    · rw [if_pos hkl, if_pos hkl]
    · rw [if_neg hkl, if_neg hkl, if_neg hkl]
  rest sp l := by
    have hFirst := congrArg (fun y => withVL y (f' l (f l sp)).v (f' l (f l sp)).lanes) (h.rest sp l)
    exact (h'.rest (f l sp) l).trans hFirst
  size sp l := by rw [h'.size, h.size]

/-- The cells of a 32-bit result are those of a write of its register. -/
theorem Spindle.setVs_vWrites_one (sp : Spindle) (r l x : Nat) : sp.setVs (vWrites r l 1 x) = sp.setV r l (BitVec.ofNat 32 x) := rfl

/-- The cells of a 64-bit result are those of a write of its d register. -/
theorem Spindle.setVs_vWrites_two (sp : Spindle) (r l x : Nat) : sp.setVs (vWrites r l 2 x) = sp.setD r l (BitVec.ofNat 64 x) := by
  have hLow : (BitVec.ofNat 64 x).extractLsb' 0 32 = BitVec.ofNat 32 (x >>> (32 * 0)) := by
    apply BitVec.eq_of_toNat_eq
    simp
  have hHigh : (BitVec.ofNat 64 x).extractLsb' 32 32 = BitVec.ofNat 32 (x >>> (32 * 1)) := by
    apply BitVec.eq_of_toNat_eq
    simp [Nat.shiftRight_eq_div_pow]
    omega
  unfold Spindle.setD
  rw [hLow, hHigh]
  rfl

/-- The cells of a result in format f are those of a write of its register (06 R127). -/
theorem Spindle.setVs_vWrites_format (sp : Spindle) (f : Fmt) (d : Reg) (l x : Nat) :
    sp.setVs (vWrites d.toNat l (if f.w = 64 then 2 else 1) x) = sp.setF f d l x := by
  unfold Spindle.setF
  split
  · exact Spindle.setVs_vWrites_two ..
  · exact Spindle.setVs_vWrites_one ..

/-- The cells of an integer result are those of a write of its v or d register (05 R105). -/
theorem Spindle.setVs_vWrites_width (sp : Spindle) (w64 : Bool) (d : Reg) (l x : Nat) :
    sp.setVs (vWrites d.toNat l (if w64 then 2 else 1) x) = sp.setVD w64 d.toNat l (BitVec.ofNat 64 x) := by
  cases w64
  · rw [Spindle.setVD, if_neg Bool.false_ne_true, BitVec.setWidth_ofNat_of_le (by decide)]
    rfl
  · exact Spindle.setVs_vWrites_two ..

-- The S-pipe's words

/-- The lanes of the issuing spindle once the fragment has moved on and the lanes x have become as g says. -/
def workedLanes (s : State) (n : Nat) (x : LaneMask) (g : Nat → Lane → Lane) : List Lane :=
  ((lanesOf x).foldl (fun sp l => sp.modLane l (g l)) ({ s.spindle s.cur.sp with lanes := movedLanes s n } : Spindle)).lanes

theorem modLanes_advance (s : State) (n : Nat) (x : LaneMask) (g : Nat → Lane → Lane) :
    (s.advance n).modLanes s.cur.sp x g = s.modSp s.cur.sp (fun sp => { sp with lanes := workedLanes s n x g }) := by
  rw [State.modLanes_eq, advance_modSp, State.modSp_modSp]
  exact State.modSp_congr _ _ _ _ (Spindle.foldModLane_eq _ _ _)

theorem workedLanes_get {i : Instr} {s : State} (h : Issues i s) (n : Nat) (g : Nat → Lane → Lane) (l : Nat) (hl : l < 32) :
    (workedLanes s n (s.executing i) g).getD l Lane.blank =
      if (s.executing i).getLsbD l then g l (movedLane s n l) else if s.cur.lanes.getLsbD l then movedLane s n l else s.lane s.cur.sp l := by
  have h32 : (movedLanes s n).length = 32 := by rw [movedLanes_length, h.lanes]
  have hFold := Spindle.lane_foldModLane (lanesOf (s.executing i)) g { s.spindle s.cur.sp with lanes := movedLanes s n } l (lanesOf_nodup _)
    (fun k hk => by rw [h32]; exact ((mem_lanesOf _ k).1 hk).1)
  rw [movedLanes_lane s n l hl h.lanes] at hFold
  simp only [mem_lanesOf, hl, true_and] at hFold
  exact hFold.trans (ite_executing s i l (g l) _ _)

/-- A word under flag A that computes registers of its lanes from registers alone (03 R75). -/
theorem aluA_pends {i : Instr} {s : State} {n f : Nat} {w : Spindle → Nat → List (Nat × Word) × (Lane → Lane)} {v : Nat → Nat → Option Word}
    (h : Issues i s) (hA : isFlagA i = true) (hc : ChargesFlag s n true f)
    (op : LaneOp (fun l sp => sp.setVs (w { s.spindle s.cur.sp with lanes := movedLanes s n } l).1) v (fun _ y => y))
    (hr : ∀ l y, y.st = .eligible → ((w { s.spindle s.cur.sp with lanes := movedLanes s n } l).2 y).st = .eligible) :
    ∃ t, aluA i (pfx i) n s w = .next t ∧
      Pends i n f { v := v, lane := fun l => (w { s.spindle s.cur.sp with lanes := movedLanes s n } l).2 } (s.spindle s.cur.sp).bankconf s.mem s t := by
  refine issue_pends (second := secondRegs i) h hA hc ?_ (modLanes_advance s n (s.executing i) _) (workedLanes_get h n _) hr (op.writesLanes _) rfl
  simp only [advance_cur, advance_spindle s n h.place]

/-- A word under flag A with a result in format f per lane (06 R143). -/
theorem fpuA_pends {i : Instr} {s : State} {n k : Nat} {f : Fmt} {d : Reg} (h : Issues i s) (hA : isFlagA i = true) (hc : ChargesFlag s n true k)
    (g : Spindle → Nat → FpAns) :
    ∃ t, fpuA i (pfx i) n f d s g = .next t ∧
      Pends i n k (fResult f d (g { s.spindle s.cur.sp with lanes := movedLanes s n })) (s.spindle s.cur.sp).bankconf s.mem s t :=
  aluA_pends h hA hc ((laneOp_setF f d _).congr (fun _ _ => Spindle.setVs_vWrites_format ..) (fun _ _ => rfl) (fun _ _ => rfl)) (fun _ _ he => he)

/-- `SHFL` starts the writes of the values that its lanes take from one another at its issue (07 R176). -/
theorem execShfl_pends {p : Pfx} {d a b : Reg} {s : State} {n f : Nat} {r : Result} (h : Issues (.shfl p d a b) s) (hc : ChargesFlag s n true f)
    (hr : longResult (s.spindle s.cur.sp) (s.executing (.shfl p d a b)) (.shfl p d a b) = some (n, r)) :
    ∃ t, execShfl p d a b s = .next t ∧ Pends (.shfl p d a b) n f r (s.spindle s.cur.sp).bankconf s.mem s t := by
  cases hr
  refine issue_pends (second := []) h rfl hc ?_ (advance_modSp s 1) ?_ (fun _ _ he => he) ((laneOp_setV d _).writesLanes (w := fun l => [(32 * d.toNat + l, _)]) _) rfl
  · simp only [advance_cur, advance_spindle s 1 h.place, List.map_eq_flatMap]
    rfl
  · intro l hl
    rw [movedLanes_get s 1 l hl h.lanes]
    exact (ite_self _).symm.trans (ite_executing s _ l id _ _)

-- `IDIV`

/-- Two destinations of one width that are well formed and differ share no register (01 R14). -/
theorem toVD_apart {w64 : Bool} {d e : Reg} (hd : operandOk (wVD w64 d) = true) (he : operandOk (wVD w64 e) = true) (hne : d ≠ e) (x y : DWord)
    {reg : Nat} {w : Word} (h : toVD w64 d x reg = some w) : toVD w64 e y reg = none := by
  have hNat : d.toNat ≠ e.toNat := fun h => hne (BitVec.eq_of_toNat_eq h)
  cases w64
  · simp only [toVD, to32, Bool.false_eq_true, if_false, Option.ite_none_right_eq_some] at h
    exact if_neg (fun hReg => hNat (h.1.symm.trans hReg))
  · simp only [operandOk, wVD, vdKind, wr, if_true, Bool.and_eq_true, decide_eq_true_eq, beq_iff_eq] at hd he
    simp only [toVD, to64, if_true] at h ⊢
    split at h
    · rw [if_neg (by omega), if_neg (by omega)]
    · obtain ⟨hHigh, -⟩ := (Option.ite_none_right_eq_some).1 h
      rw [if_neg (by omega), if_neg (by omega)]

/-- The cells of a quotient and, under HASE, of a remainder (06 R146). -/
theorem laneOp_idivWrites {w64 hase : Bool} {d e : Reg} (hApart : hase = true → operandOk (wVD w64 d) = true ∧ operandOk (wVD w64 e) = true ∧ d ≠ e)
    (q : Nat → Nat × Nat) :
    LaneOp (fun l sp => sp.setVs (vWrites d.toNat l (if w64 then 2 else 1) (q l).1 ++
        if hase then vWrites e.toNat l (if w64 then 2 else 1) (q l).2 else []))
      (fun reg l => match toVD w64 d (BitVec.ofNat 64 (q l).1) reg with
        | some w => some w
        | none => if hase then toVD w64 e (BitVec.ofNat 64 (q l).2) reg else none) (fun _ y => y) := by
  have hQuotient := laneOp_setVD w64 d (fun l => BitVec.ofNat 64 (q l).1)
  cases hase
  · refine hQuotient.congr (fun l sp => ?_) (fun reg l => ?_) (fun _ _ => rfl)
    · rw [if_neg Bool.false_ne_true, List.append_nil, Spindle.setVs_vWrites_width]
    · cases toVD w64 d (BitVec.ofNat 64 (q l).1) reg <;> rfl
  · obtain ⟨hd, he, hne⟩ := hApart rfl
    refine (hQuotient.andThen (laneOp_setVD w64 e (fun l => BitVec.ofNat 64 (q l).2))).congr (fun l sp => ?_) (fun reg l => ?_) (fun _ _ => rfl)
    · rw [if_pos rfl, Spindle.setVs_append, Spindle.setVs_vWrites_width, Spindle.setVs_vWrites_width]
    · cases hReg : toVD w64 d (BitVec.ofNat 64 (q l).1) reg with
      | none => exact Option.or_none.symm
      | some w => rw [toVD_apart hd he hne _ _ hReg]; rfl

/-- The destinations of a well-formed `IDIV` with a remainder share no register (01 R14; 06 R146). -/
theorem idiv_destinations {p : Pfx} {d a b e : Reg} {u w64 : Bool} (h : wf (.idiv p d a b e true u w64) = true) :
    operandOk (wVD w64 d) = true ∧ operandOk (wVD w64 e) = true ∧ d ≠ e := by
  obtain ⟨hOperands, hFields⟩ := Bool.and_eq_true_iff.1 h
  have hAll : ∀ o ∈ [wVD w64 d, wVD w64 a, wVD w64 b, wVD w64 e], operandOk o = true := List.all_eq_true.1 hOperands
  exact ⟨hAll _ (by simp), hAll _ (by simp), bne_iff_ne.1 hFields⟩

/-- `IDIV` starts the writes of quotient and remainder (06 R146). -/
theorem execIdiv_pends {p : Pfx} {d a b e : Reg} {hase u w64 : Bool} {s : State} {n f : Nat} {r : Result} (h : Issues (.idiv p d a b e hase u w64) s)
    (hc : ChargesFlag s n true f)
    (hr : longResult (s.spindle s.cur.sp) (s.executing (.idiv p d a b e hase u w64)) (.idiv p d a b e hase u w64) = some (n, r)) :
    ∃ t, execIdiv p d a b e hase u w64 s = .next t ∧ Pends (.idiv p d a b e hase u w64) n f r (s.spindle s.cur.sp).bankconf s.mem s t := by
  cases hr
  have hApart : hase = true → operandOk (wVD w64 d) = true ∧ operandOk (wVD w64 e) = true ∧ d ≠ e := by
    rintro rfl
    exact idiv_destinations h.wellFormed
  have hWidth : 32 * (if w64 then 2 else 1) = if w64 then 64 else 32 := by cases w64 <;> rfl
  refine aluA_pends h rfl hc ?_ (fun _ _ he => he)
  simp only [hWidth]
  exact laneOp_idivWrites hApart _

-- The obligation

/-- Settles O12: each word starts one operation, whose cells are one lane's writes for each executing lane. -/
theorem longOperations : Obligations.LongOperations := by
  unfold Obligations.LongOperations
  intro i s n f r h hc hr
  have hWhole := hr
  unfold longResult at hr
  split at hr
  -- `IDIV` and `SHFL` write cells of their own shape; every other word is one result in one format
  case h_6 => exact execIdiv_pends h hc hWhole
  case h_7 => exact execShfl_pends h hc hWhole
  case h_8 => cases hr
  all_goals cases hr
  case h_1 p d a b fmt rm =>
    show ∃ t, execFdiv p d a b fmt rm s = _ ∧ _
    exact fpuA_pends h rfl hc _
  case h_2 p d a fmt rm =>
    show ∃ t, execFsqrt p d a fmt rm s = _ ∧ _
    exact fpuA_pends h rfl hc _
  case h_3 p d a fmt rm =>
    show ∃ t, execFrsq p d a fmt rm s = _ ∧ _
    exact fpuA_pends h rfl hc _
  case h_4 p d a =>
    show ∃ t, execFex2 p d a s = _ ∧ _
    exact fpuA_pends h rfl hc _
  case h_5 p d a =>
    show ∃ t, execFlg2 p d a s = _ ∧ _
    exact fpuA_pends h rfl hc _

end Sys2Proof.Machine
end
